-- ==== Sys2Proof/Word.lean ====
section
/-! DEFINITION. The word types of the module and the keyed lists that hold sparse data. -/

namespace Sys2Proof

/-- A 64-bit register value, address or slot word (00 R5). -/
abbrev Word := BitVec 64
/-- One byte of memory. -/
abbrev Byte := BitVec 8
/-- One vector register, queue entry or Port entry: 1 KiB (02 R38). -/
abbrev Vec := BitVec 8192
/-- One predicate: a bit for each of the 256 32-bit lanes (06). -/
abbrev Mask := BitVec 256

/-- Data by number, keys rising. A key that is not listed stands for a default that the reader names. -/
abbrev SMap (α : Type) := List (Nat × α)

/-- The value at key `k`, or `d` where the key is not listed. -/
def SMap.get {α : Type} (d : α) : SMap α → Nat → α
  | [], _ => d
  | (k', v) :: t, k => if k = k' then v else SMap.get d t k

/-- `m` with `v` at key `k`, keys kept rising. -/
def SMap.put {α : Type} : SMap α → Nat → α → SMap α
  | [], k, v => [(k, v)]
  | (k', v') :: t, k, v =>
    if k < k' then (k, v) :: (k', v') :: t
    else if k = k' then (k, v) :: t
    else (k', v') :: SMap.put t k v

/-- `m` without key `k`. -/
def SMap.del {α : Type} : SMap α → Nat → SMap α
  | [], _ => []
  | (k', v') :: t, k => if k = k' then SMap.del t k else (k', v') :: SMap.del t k

/-- `m` with `v` at key `k` in the canonical form: a value equal to the default `d` is not listed. -/
def SMap.set {α : Type} [DecidableEq α] (d : α) (m : SMap α) (k : Nat) (v : α) : SMap α :=
  if v = d then SMap.del m k else SMap.put m k v

/-- Keys strictly rise and are at least `lo`. -/
def SMap.sorted {α : Type} : Nat → SMap α → Bool
  | _, [] => true
  | lo, (k, _) :: t => decide (lo ≤ k) && SMap.sorted (k + 1) t

/-- No listed value equals the default. -/
def SMap.lean {α : Type} [DecidableEq α] (d : α) : SMap α → Bool
  | [] => true
  | (_, v) :: t => decide (v ≠ d) && SMap.lean d t

/-- The canonical form: keys strictly rise and no entry equals the default. -/
def SMap.wf {α : Type} [DecidableEq α] (d : α) (m : SMap α) : Bool := SMap.sorted 0 m && SMap.lean d m

end Sys2Proof
end

