-- ==== Sys2Proof/Config.lean ====
section
/-! DEFINITION. What the implementation fixes, the sizes the manual states, and the values it leaves open. -/

namespace Sys2Proof.Config

/-- Clusters of the module (01 R17). -/
def clusters : Nat := 48
/-- Fabric ports of the module (01 R17). -/
def ports : Nat := 35
/-- Compute dies (01 R17). -/
def dies : Nat := 4
/-- Bytes of one slice, 16 GB (01 R18). -/
def sliceBytes : Nat := 2 ^ 34
/-- First byte of the metadata area at the top of a slice, 16 MiB (19 R401). -/
def metaBase : Nat := 2 ^ 34 - 2 ^ 24
/-- Bytes of WB and of AB (01 R31). -/
def bufBytes : Nat := 2 ^ 24
/-- Lines of the L1D that cache data: 128 KiB of its 256 KiB (08 R174, 16 R334). -/
def l1Lines : Nat := 2048
/-- Lines of an L2 slice, 16 MiB (01 R29). -/
def l2Lines : Nat := 262144
/-- Entries of a Port store of one Context (08 R174). -/
def portStore : Nat := 32
/-- Highest fabric device number (01 R33). -/
def maxDevice : Nat := 1057
/-- Release sets of a core (16 R334). -/
def releaseSets : Nat := 16
/-- L1 TLB entries (19 R395). -/
def tlb1 : Nat := 64
/-- L2 TLB entries (19 R395). -/
def tlb2 : Nat := 4096
/-- Bytes of an ingress buffer (16 R342). -/
def ingressBytes : Nat := 2 ^ 18
/-- Bytes of the staging buffer shared by the clusters (20 R422). -/
def stagingBytes : Nat := 2 ^ 23
/-- Queue pairs of the host port, its path MTU, the bytes of a message, and the firmware mailbox's buffers (20 R419). -/
def queuePairs : Nat := 64
def mtu : Nat := 4096
def messageBytes : Nat := 2 ^ 31
def mailboxes : Nat := 64

/-- FREE VALUE (assumption 8): which of the sixteen G64 entries translates when software left them different (19 R392). -/
opaque freeG64 : Nat → BitVec 4
/-- FREE VALUE (assumption 67): which of its lines a full cache gives up: the clk and the line that comes in, the place in the cache's list. -/
opaque freeVictim : Nat → Nat → Nat
/-- FREE VALUE (assumption 4): the implementation's coding of a 256-byte block: 0 where it fits neither 128 nor 64 bytes, 1 for 2:1, 2 for 4:1 (19 R401). -/
opaque blockCode : List (BitVec 8) → Fin 3
/-- FREE VALUE (assumption 9): the ECDSA public key in the fuses, a point of P-384 (22 R434). -/
opaque ecdsaKey : Nat × Nat
/-- FREE VALUE (assumption 9): the LMS public key in the fuses (22 R434): its identifier of 16 bytes and its root of 32. -/
opaque lmsId : List (BitVec 8)
opaque lmsRoot : List (BitVec 8)
/-- Signatures that the HSS key can give: 2 ^ 20 leaves in each of two levels (22 R437). -/
def hssCapacity : Nat := 2 ^ 40
/-- FREE VALUE (assumption 9): the private ECDSA identity key, and the secret number of a signature over a digest (22 R437). -/
opaque identityKey : Nat
opaque identityNonce : List (BitVec 8) → Nat
/-- FREE VALUE (assumption 9): of the trees of the HSS identity key (22 R437), the upper one 0 and the lower ones from 1: a tree's identifier of 16 bytes, the random value of a leaf's signature and the start of a leaf's n-th chain, 32 bytes each. -/
opaque hssId : Nat → List (BitVec 8)
opaque hssRandom : Nat → Nat → List (BitVec 8)
opaque hssChain : Nat → Nat → Nat → List (BitVec 8)
/-- FREE VALUE (assumption 9): the digest of the boot ROM (22 R436). -/
opaque romDigest : List (BitVec 8)
/-- FREE VALUE (assumption 9): the module serial number, 16 bytes (22 R437). -/
opaque serial : List (BitVec 8)

end Sys2Proof.Config
end

