-- ==== Sys2Proof/Syntax.lean ====
section
/-! DEFINITION. The steps of the module: one constructor of `Instr` for each row of the opcode table. Slot instructions and whole bundles carry their decoded fields; a machine event carries none, its arguments stand in the state (`State.arg`). -/

namespace Sys2Proof

/-- An s-register number. -/
abbrev SReg := BitVec 5
/-- An a-register, predicate or Port number, or a guard. -/
abbrev Reg4 := BitVec 4
/-- A Token number, 0 for none. -/
abbrev Tok := BitVec 6
/-- A Handle number, 0 for none. -/
abbrev Hnd := BitVec 5

/-- Conditions of `cmp`, `cmpi` and `waitm` (06 R139), in code order 0 to 9. -/
inductive Cond where
  | eq | ne | lt | ge | le | gt | ltn | gen | len | gtn
  deriving DecidableEq, Repr

/-- Element widths of the A format (03 R68), codes 0 to 3. -/
inductive Width where
  | b8 | b16 | b32 | b64
  deriving DecidableEq, Repr

/-- Orderings of the A format (03 R69), codes 0 to 3. -/
inductive Order where
  | plain | acq | rel | sc
  deriving DecidableEq, Repr

/-- Buffers that an A-slot access names (03 R68). -/
inductive Buf where
  | wb | ab
  deriving DecidableEq, Repr

/-- The register named as data operand by `ld`, `ldn`, `st` and `amov` (03 R68). -/
inductive DataReg where
  | s (r : SReg)
  | a (r : Reg4)
  | p (r : Reg4)
  deriving DecidableEq, Repr

/-- The two V slots. -/
inductive VSlot where
  | v0 | v1
  deriving DecidableEq, Repr

/-- The five slots of a bundle, in slot order (03 R57, R59). -/
inductive Slot where
  | s | a | v0 | v1 | e
  deriving DecidableEq, Repr

/-- The common fields of an A-slot access (03 R67-R69). -/
structure AMem where
  g : Reg4
  b : Reg4
  w : Width
  ord : Order
  scope : BitVec 4
  off : BitVec 20
  step : BitVec 12
  deriving DecidableEq, Repr

/-- The fields of a local atomic (08 R189): no step, two further s-registers. -/
structure AmoF where
  g : Reg4
  b : Reg4
  w : Width
  ord : Order
  scope : BitVec 4
  off : BitVec 20
  d : SReg
  v : SReg
  c : SReg
  deriving DecidableEq, Repr

/-- The fields of a V word (03 R67, R70-R72) and the slot that holds it. -/
structure VF where
  slot : VSlot
  g : Reg4
  d : BitVec 8
  s1 : BitVec 8
  s2 : BitVec 8
  s3 : BitVec 8
  ty : BitVec 4
  rnd : BitVec 3
  ftz : Bool
  peek : Bool
  need : BitVec 3
  imm : BitVec 8
  deriving DecidableEq, Repr

/-- The guard and Token fields of an E word (03 R67, R73). -/
structure EF where
  g : Reg4
  kp : Tok
  ka : Tok
  kb : Tok
  kc : Tok
  deriving DecidableEq, Repr

/-- The command fields of `put`, `get` and `acc` (17 R365). -/
structure RF where
  e : EF
  n : Hnd
  b : Reg4
  order : Order
  ord : Bool
  scope : BitVec 4
  s : BitVec 12
  deriving DecidableEq, Repr

/-- The command fields of `ramo` and `rcas` (17 R365): for `ramo`, `x` is the operation; for `rcas`, `x` is the register of the stored value. -/
structure RaF where
  e : EF
  n : Hnd
  d : SReg
  a : SReg
  x : BitVec 5
  w : Bool
  order : Order
  scope : BitVec 4
  ord : Bool
  deriving DecidableEq, Repr

/-- A bundle as fetched (03 R57): header fields and the present slot words. -/
structure Bundle where
  s : Option Word
  a : Option Word
  v0 : Option Word
  v1 : Option Word
  e : Option Word
  rep : BitVec 6
  hwin : Bool
  keep : Bool
  rstep : Bool
  rsv : BitVec 18
  deriving DecidableEq, Repr

/-- The steps of the module, one for each row of the opcode table. The S-slot, A-slot, V-slot and E-slot instructions come first, then the machine events, whose arguments stand in `State.arg`. -/
inductive Instr where
  -- S slot (04 R88)
  | nop (g : Reg4)
  | li (g : Reg4) (d : SReg) (imm : BitVec 32)
  | lih (g : Reg4) (d a : SReg) (imm : BitVec 32)
  | mov (g : Reg4) (d a : SReg)
  | add (g : Reg4) (d a b : SReg)
  | addi (g : Reg4) (d a : SReg) (imm : BitVec 32)
  | sub (g : Reg4) (d a b : SReg)
  | mul (g : Reg4) (d a b : SReg)
  | mulh (g : Reg4) (d a b : SReg)
  | mulhn (g : Reg4) (d a b : SReg)
  | div (g : Reg4) (d a b : SReg)
  | divn (g : Reg4) (d a b : SReg)
  | rem (g : Reg4) (d a b : SReg)
  | remn (g : Reg4) (d a b : SReg)
  | and (g : Reg4) (d a b : SReg)
  | andi (g : Reg4) (d a : SReg) (imm : BitVec 32)
  | or (g : Reg4) (d a b : SReg)
  | ori (g : Reg4) (d a : SReg) (imm : BitVec 32)
  | xor (g : Reg4) (d a b : SReg)
  | xori (g : Reg4) (d a : SReg) (imm : BitVec 32)
  | shl (g : Reg4) (d a b : SReg)
  | shli (g : Reg4) (d a : SReg) (sh : BitVec 6)
  | shr (g : Reg4) (d a b : SReg)
  | shri (g : Reg4) (d a : SReg) (sh : BitVec 6)
  | sar (g : Reg4) (d a b : SReg)
  | sari (g : Reg4) (d a : SReg) (sh : BitVec 6)
  | min (g : Reg4) (d a b : SReg)
  | minn (g : Reg4) (d a b : SReg)
  | max (g : Reg4) (d a b : SReg)
  | maxn (g : Reg4) (d a b : SReg)
  | clz (g : Reg4) (d a : SReg)
  | ctz (g : Reg4) (d a : SReg)
  | popc (g : Reg4) (d a : SReg)
  | bfx (g : Reg4) (d a : SReg) (sx : Bool) (pos wm1 : BitVec 6)
  | bfi (g : Reg4) (d a b : SReg) (pos wm1 : BitVec 6)
  | adds (g : Reg4) (d a b : SReg) (un : Bool)
  | sel (g : Reg4) (d a b : SReg) (p : Reg4)
  | cmp (g : Reg4) (e : Reg4) (a b : SReg) (cc : Cond)
  | cmpi (g : Reg4) (e : Reg4) (a : SReg) (cc : Cond) (imm : BitVec 32)
  | pand (g : Reg4) (e p1 p2 : Reg4)
  | por (g : Reg4) (e p1 p2 : Reg4)
  | pxor (g : Reg4) (e p1 p2 : Reg4)
  | pandn (g : Reg4) (e p1 p2 : Reg4)
  | psetImm (g : Reg4) (e : Reg4) (first : BitVec 8) (count : BitVec 9)
  | psetReg (g : Reg4) (e : Reg4) (a : SReg)
  | pcnt (g : Reg4) (d : SReg) (p : Reg4)
  | br (g : Reg4) (pop : BitVec 2) (imm : BitVec 32)
  | brx (g : Reg4) (a : SReg) (pop : BitVec 2)
  | call (g : Reg4) (d : SReg) (imm : BitVec 32)
  | callx (g : Reg4) (d a : SReg)
  | ret (g : Reg4) (a : SReg)
  | loop (g : Reg4) (a : SReg) (len y : BitVec 16)
  | loopi (g : Reg4) (count : BitVec 15) (len y : BitVec 16)
  | loopSwp (g : Reg4) (a : SReg) (sm1 : BitVec 3) (len y : BitVec 16)
  | endt (g : Reg4)
  | yield (g : Reg4) (imm : BitVec 32)
  | mfs (g : Reg4) (d : SReg) (num : BitVec 8)
  | mts (g : Reg4) (a : SReg) (num : BitVec 8)
  | trap (g : Reg4) (code : BitVec 16)
  | sys (g : Reg4) (code : BitVec 16)
  | eret (g : Reg4)
  | rdtr (g : Reg4) (d : SReg) (n : BitVec 3)
  | ctxsave (g : Reg4) (d a : SReg) (b : Reg4)
  | ctxload (g : Reg4) (d a : SReg) (b : Reg4)
  | park (g : Reg4) (a : SReg) (release : Bool)
  | ptest (g : Reg4) (d a : SReg)
  | spawnLocal (g : Reg4) (a : SReg) (prio : BitVec 3) (lv : Bool)
  | spawnRemote (g : Reg4) (n : Hnd) (a b : SReg) (prio : BitVec 3) (lv : Bool)
  | joinParent (g : Reg4) (n : Hnd)
  | joinRecord (g : Reg4) (a : SReg)
  | twaitImm (g : Reg4) (k1 k2 k3 k4 : Tok)
  | twaitReg (g : Reg4) (a : SReg)
  | ttestPred (g : Reg4) (e : Reg4) (k1 k2 k3 k4 : Tok)
  | ttestPredReg (g : Reg4) (e : Reg4) (a : SReg)
  | ttestScalar (g : Reg4) (d : SReg) (k : Tok)
  | hwaitImm (g : Reg4) (loc : Bool) (h1 h2 h3 h4 : Hnd)
  | hwaitReg (g : Reg4) (loc : Bool) (a : SReg)
  | htestPred (g : Reg4) (loc : Bool) (e : Reg4) (h1 h2 h3 h4 : Hnd)
  | htestPredReg (g : Reg4) (loc : Bool) (e : Reg4) (a : SReg)
  | htestScalar (g : Reg4) (d : SReg) (h : Hnd)
  | htestOff (g : Reg4) (d : SReg) (h : Hnd)
  | gbar (g : Reg4) (scope : BitVec 4) (a : SReg) (n : Hnd)
  | gbarArrive (g : Reg4) (scope : BitVec 4) (d a : SReg) (n : Hnd) (t : Tok)
  | gbarWait (g : Reg4) (scope : BitVec 4) (a b : SReg)
  -- A slot (04 R89)
  | nopA (g : Reg4)
  | ld (m : AMem) (x : DataReg)
  | ldn (m : AMem) (x : DataReg)
  | st (m : AMem) (x : DataReg)
  | ldv (m : AMem) (c : Reg4)
  | stv (m : AMem) (c : Reg4)
  | ldg (m : AMem) (c : Reg4)
  | sts (m : AMem) (c : Reg4)
  | ldb (m : AMem) (u : Buf) (c : Reg4)
  | stb (m : AMem) (u : Buf) (c : Reg4)
  | baste (m : AMem)
  | aadd (m : AMem) (d : Reg4)
  | amov (g : Reg4) (x : DataReg) (b : Reg4)
  | ali (g : Reg4) (d : Reg4) (imm : BitVec 32)
  | alih (g : Reg4) (d b : Reg4) (imm : BitVec 32)
  | aofs (g : Reg4) (d : SReg) (b c : Reg4)
  | sofa (g : Reg4) (d b : Reg4) (sr : SReg) (k : BitVec 4) (z : Bool)
  | amoCas (f : AmoF)
  | amoSwap (f : AmoF)
  | amoAdd (f : AmoF)
  | amoFadd (f : AmoF)
  | amoMin (f : AmoF)
  | amoMax (f : AmoF)
  | amoAnd (f : AmoF)
  | amoOr (f : AmoF)
  | amoXor (f : AmoF)
  | fence (g : Reg4) (ord : Order) (scope : BitVec 4)
  | waitm (g : Reg4) (b : Reg4) (w : Width) (acq : Bool) (scope : BitVec 4) (off : BitVec 20) (d : SReg) (cc : Cond)
  | pcfg (g : Reg4) (c : Reg4) (depth : BitVec 6) (idx : Reg4) (idxv : Bool)
  | padv (g : Reg4) (c : Reg4) (k : BitVec 6)
  | pwaitFill (g : Reg4) (c : Reg4) (k : BitVec 6)
  | pwaitFree (g : Reg4) (c : Reg4) (k : BitVec 6)
  | pquery (g : Reg4) (d : SReg) (c : Reg4)
  | agset (g : Reg4) (c b : Reg4) (s0 : BitVec 20)
  | agsetDetach (g : Reg4) (c : Reg4)
  | tlbinv (g : Reg4) (b : Reg4) (off : BitVec 20)
  | tlbinvAll (g : Reg4)
  | tlbinvAsid (g : Reg4) (a : SReg)
  -- V slots (04 R90)
  | vadd (f : VF)
  | vsub (f : VF)
  | vmul (f : VF)
  | vmulh (f : VF)
  | vmad (f : VF)
  | vmin (f : VF)
  | vmax (f : VF)
  | vabs (f : VF)
  | vneg (f : VF)
  | vand (f : VF)
  | vor (f : VF)
  | vxor (f : VF)
  | vnot (f : VF)
  | vshl (f : VF)
  | vshr (f : VF)
  | vsar (f : VF)
  | vclz (f : VF)
  | vpopc (f : VF)
  | vadds (f : VF)
  | vsubs (f : VF)
  | vfadd (f : VF)
  | vfsub (f : VF)
  | vfmul (f : VF)
  | vfma (f : VF)
  | vfnma (f : VF)
  | vfmin (f : VF)
  | vfmax (f : VF)
  | vfabs (f : VF)
  | vfneg (f : VF)
  | vrcp (f : VF)
  | vrsq (f : VF)
  | vsqrt (f : VF)
  | vexp2 (f : VF)
  | vlog2 (f : VF)
  | vsig (f : VF)
  | vcvt (f : VF)
  | vcvts (f : VF)
  | vqnt (f : VF)
  | vdqnt (f : VF)
  | vbmax (f : VF)
  | vscale (f : VF)
  | vsacc (f : VF)
  | vplane (f : VF)
  | vunplane (f : VF)
  | vcmp (f : VF)
  | vfcmp (f : VF)
  | vclass (f : VF)
  | vsel (f : VF)
  | vperm (f : VF)
  | vbcast (f : VF)
  | vshift (f : VF)
  | vzip (f : VF)
  | vunzip (f : VF)
  | vcompress (f : VF)
  | vexpand (f : VF)
  | vred (f : VF)
  | vfred (f : VF)
  | vscan (f : VF)
  | vfscan (f : VF)
  | vsort (f : VF)
  | vsegsum (f : VF)
  | vmov (f : VF)
  | vli (f : VF)
  | vext (f : VF)
  | vins (f : VF)
  | vidx (f : VF)
  | vxpush (f : VF)
  -- E slot (04 R91)
  | nopE (g : Reg4)
  | mxcfgLoad (e : EF) (n : BitVec 2) (b : Reg4) (off : BitVec 21)
  | mxcfgStore (e : EF) (n : BitVec 2) (b : Reg4) (off : BitVec 21)
  | mxgo (e : EF) (n : BitVec 2)
  | mxzero (e : EF) (t : BitVec 10) (cm1 : BitVec 6) (step : BitVec 12)
  | mxshape (e : EF) (t : BitVec 10) (hm1 : BitVec 5) (lm1 : BitVec 6) (i32 : Bool) (mm1 : BitVec 6)
  | mxdrainC12 (e : EF) (t : BitVec 10) (clr : Bool) (step : BitVec 12)
  | mxdrainAb (e : EF) (t : BitVec 10) (clr : Bool) (b : Reg4) (step : BitVec 12)
  | mxflag (e : EF) (t : BitVec 10) (step : BitVec 12)
  | mxtw (e : EF) (t : BitVec 10) (inv : Bool) (lm1 : BitVec 10)
  | mxbf (e : EF) (t : BitVec 10) (b : Reg4) (src : Bool) (step : BitVec 12)
  | xcfg (e : EF) (hm1 : BitVec 5) (w16 : Bool)
  | chgo (e : EF) (n : BitVec 4)
  | chset (e : EF) (n : BitVec 4) (b : Reg4) (space : BitVec 2)
  | chq (e : EF) (n : BitVec 4) (b : Reg4) (now : Bool) (step : BitVec 12)
  | tjoin (e : EF)
  | put (f : RF)
  | get (f : RF)
  | acc (f : RF)
  | ramo (f : RaF)
  | rcas (f : RaF)
  | wfence (e : EF) (w : BitVec 12) (mode : BitVec 2)
  | wpost (e : EF) (w : BitVec 12) (a : SReg)
  | wstart (e : EF) (w : BitVec 12) (a : SReg)
  | wcomplete (e : EF) (w : BitVec 12)
  | wwait (e : EF) (w : BitVec 12)
  | wlock (e : EF) (w : BitVec 12) (a : SReg) (ex : Bool)
  | wunlock (e : EF) (w : BitVec 12) (a : SReg)
  | wexpose (e : EF) (w : BitVec 12) (b : Reg4)
  | wrevoke (e : EF) (w : BitVec 12)
  | nmadd (e : EF) (b : Reg4) (step : BitVec 12)
  | nmtopk (e : EF) (b : Reg4) (step : BitVec 12)
  | nmpk (e : EF) (b : Reg4) (step : BitVec 12)
  | nmbias (e : EF) (b : Reg4)
  | nmfence (e : EF)
  | gdisp (e : EF) (b : Reg4) (xm1 : BitVec 12) (prio : BitVec 3) (lv : Bool)
  | hem (e : EF)
  -- bundles (03)
  | bundleIssue (b : Bundle)
  | bundleSkip (b : Bundle)
  -- machine events: their arguments stand in State.arg
  | fetchFault | blockRelease | switchIn | trapEntry | errorDelivery
  | vectorResultWrite | scalarResultWrite | predicateWrite | loadDataArrival | scaleLatchWrite
  | pleatReturn | generatorRowRequest | waitmReread | gbarWaitPoll
  | continuationAccept | joinDecrement | gbarDeferredArrival
  | mxcfgLoadDone | mxcfgStoreExec | nestWalkStart | nestStep | mxzeroExec | mxshapeExec
  | mxdrainExec | drainEntryTransfer | mxflagExec | mxtwExec | mxbfExec | xcfgExec
  | chsetExec | chainRecordRead | chainRowCopy | firmwareFinishChain | firmwareEndChain | chqSnapshot
  | commandFinish | inheritedFinish
  | packetSend | packetAdmit | putPacket | getreqPacket | accPacket | ramoPacket | rcasPacket
  | spawnPacket | joinPacket | arrive | marker | post | complete | lock | unlock
  | done | getdata | atomret | fail | grant | enack | enackResend | mgmt
  | nmForward | nmtopkExec | nmpkExec | nmaddExec | nmbiasCommit | nmfenceFinish
  | gdispExec | hemArrival | hemRoundAbort
  | queuePop | queueAgeing | queuePush | spillRingRefill
  | ksubmit | kctlStop | kctlResume | kctlEnd | kctlRelease | preemptionStop | kernelAdmit
  | leafPlacementPush | kernelDone | kernelParked | stopParkTimeout | firmwareEndKernel | freeDoubleContext
  | frctlReplay | frctlDeliver | accessNotice | releaseSetWriteback
  | hostRdmaWrite | hostIngressApply | hostRdmaRead | stagingWrite | rload | minsvn | mreset | plimit
  | attestationRequest | apertureWrite | registerWrite
  | powerUp | powerStepDown | thermalTrip | thermalRecover | telemetryUpdate
  | linkPacketReceive | ack | ackTimer | replayTimeout | portEnable | linkid | linkFail | portDisable
  | cancelHeldPackets | idleClk | softError | kernelTableWrite | dieControllerAccess
  deriving DecidableEq, Repr

end Sys2Proof
end

