-- ==== Sys2Proof/Decode.lean ====
section
/-! DEFINITION. The decoder: from the bytes of a bundle to slot words to instructions, rejecting by name, and after it the encoder, both from the encoding tables of the spec. -/

namespace Sys2Proof

/-- Why the decoder rejects a word (03 R80). Raised as ILLEGAL when the word takes part in an issue. -/
inductive Reject where
  | reservedOpcode
  | reservedField
  | reservedCode
  | reservedOperand
  | truncated
  deriving DecidableEq, Repr

/-! Field layouts (03 R67). -/

/-- An S word. -/
structure SWord where
  g : BitVec 4
  op : BitVec 8
  d : BitVec 5
  a : BitVec 5
  b : BitVec 5
  sub : BitVec 5
  imm : BitVec 32
  deriving DecidableEq, Repr

/-- An A word. -/
structure AWord where
  g : BitVec 4
  op : BitVec 8
  d : BitVec 5
  b : BitVec 4
  kind : BitVec 3
  w : BitVec 2
  ord : BitVec 2
  scope : BitVec 4
  off : BitVec 20
  step : BitVec 12
  deriving DecidableEq, Repr

/-- A V word. -/
structure VWord where
  g : BitVec 4
  op : BitVec 8
  d : BitVec 8
  s1 : BitVec 8
  s2 : BitVec 8
  s3 : BitVec 8
  ty : BitVec 4
  rnd : BitVec 3
  ftz : BitVec 1
  peek : BitVec 1
  need : BitVec 3
  imm : BitVec 8
  deriving DecidableEq, Repr

/-- An E word. -/
structure EWord where
  g : BitVec 4
  op : BitVec 8
  kp : BitVec 6
  ka : BitVec 6
  kb : BitVec 6
  kc : BitVec 6
  cmd : BitVec 28
  deriving DecidableEq, Repr

def SWord.pack (x : SWord) : Word := x.g ++ x.op ++ x.d ++ x.a ++ x.b ++ x.sub ++ x.imm
def SWord.unpack (w : Word) : SWord :=
  { g := w.extractLsb' 60 4, op := w.extractLsb' 52 8, d := w.extractLsb' 47 5, a := w.extractLsb' 42 5,
    b := w.extractLsb' 37 5, sub := w.extractLsb' 32 5, imm := w.extractLsb' 0 32 }

def AWord.pack (x : AWord) : Word :=
  x.g ++ x.op ++ x.d ++ x.b ++ x.kind ++ x.w ++ x.ord ++ x.scope ++ x.off ++ x.step
def AWord.unpack (w : Word) : AWord :=
  { g := w.extractLsb' 60 4, op := w.extractLsb' 52 8, d := w.extractLsb' 47 5, b := w.extractLsb' 43 4,
    kind := w.extractLsb' 40 3, w := w.extractLsb' 38 2, ord := w.extractLsb' 36 2, scope := w.extractLsb' 32 4,
    off := w.extractLsb' 12 20, step := w.extractLsb' 0 12 }

def VWord.pack (x : VWord) : Word :=
  x.g ++ x.op ++ x.d ++ x.s1 ++ x.s2 ++ x.s3 ++ x.ty ++ x.rnd ++ x.ftz ++ x.peek ++ x.need ++ x.imm
def VWord.unpack (w : Word) : VWord :=
  { g := w.extractLsb' 60 4, op := w.extractLsb' 52 8, d := w.extractLsb' 44 8, s1 := w.extractLsb' 36 8,
    s2 := w.extractLsb' 28 8, s3 := w.extractLsb' 20 8, ty := w.extractLsb' 16 4, rnd := w.extractLsb' 13 3,
    ftz := w.extractLsb' 12 1, peek := w.extractLsb' 11 1, need := w.extractLsb' 8 3, imm := w.extractLsb' 0 8 }

def EWord.pack (x : EWord) : Word := x.g ++ x.op ++ x.kp ++ x.ka ++ x.kb ++ x.kc ++ x.cmd
def EWord.unpack (w : Word) : EWord :=
  { g := w.extractLsb' 60 4, op := w.extractLsb' 52 8, kp := w.extractLsb' 46 6, ka := w.extractLsb' 40 6,
    kb := w.extractLsb' 34 6, kc := w.extractLsb' 28 6, cmd := w.extractLsb' 0 28 }

/-! Codes of fields. -/

def Cond.code : Cond → BitVec 4
  | .eq => 0 | .ne => 1 | .lt => 2 | .ge => 3 | .le => 4 | .gt => 5 | .ltn => 6 | .gen => 7 | .len => 8 | .gtn => 9
/-- 06 R139. -/
def condOf : Nat → Option Cond
  | 0 => some .eq | 1 => some .ne | 2 => some .lt | 3 => some .ge | 4 => some .le | 5 => some .gt
  | 6 => some .ltn | 7 => some .gen | 8 => some .len | 9 => some .gtn | _ => none

def Width.code : Width → BitVec 2
  | .b8 => 0 | .b16 => 1 | .b32 => 2 | .b64 => 3
def widthOf (w : BitVec 2) : Width :=
  if w = 0 then .b8 else if w = 1 then .b16 else if w = 2 then .b32 else .b64
/-- Bytes of an element (03 R68). -/
def Width.bytes : Width → Nat
  | .b8 => 1 | .b16 => 2 | .b32 => 4 | .b64 => 8

def Order.code : Order → BitVec 2
  | .plain => 0 | .acq => 1 | .rel => 2 | .sc => 3
def orderOf (w : BitVec 2) : Order :=
  if w = 0 then .plain else if w = 1 then .acq else if w = 2 then .rel else .sc

def b1 (b : Bool) : BitVec 1 := if b then 1 else 0
def bit (v : BitVec 1) : Bool := v == 1

/-! Legality of the operand fields of a decoded instruction (03 R80). `decode` answers only instructions that are legal. -/

/-- E names the even member of a writable pair (06 R137). -/
def evenPair (e : Reg4) : Bool := e != 0 && e.extractLsb' 0 1 == 0

/-- Plain ordering has scope 0, any other a scope from 1 to 9 (03 R69). -/
def scopeOk (o : Order) (sc : BitVec 4) : Bool :=
  if o = .plain then sc == 0 else sc != 0 && decide (sc.toNat ≤ 9)
/-- Orderings of a load (08 R188). -/
def loadOk (m : AMem) : Bool := decide (m.ord ≠ .rel) && scopeOk m.ord m.scope
/-- Orderings of a store (08 R188). -/
def storeOk (m : AMem) : Bool := decide (m.ord ≠ .acq) && scopeOk m.ord m.scope
/-- A buffer access, `baste` and `aadd` accept plain only (08 R188). -/
def plainOk (m : AMem) : Bool := decide (m.ord = .plain) && m.scope == 0
/-- Ports c0-c11 (08 R189). -/
def cfgPort (c : Reg4) : Bool := decide (c.toNat ≤ 11)
/-- Ports c0-c13 (08 R189). -/
def anyPort (c : Reg4) : Bool := decide (c.toNat ≤ 13)
/-- A predicate operand uses .b64 (08 R189). -/
def dataOk (m : AMem) : DataReg → Bool
  | .p _ => decide (m.w = .b64)
  | _ => true
/-- Widths of an indexed access (08 R189). -/
def idxWidth (m : AMem) : Bool := decide (m.w ≠ .b64)
/-- Fields of a local atomic other than cas (08 R197). -/
def amoOk (f : AmoF) (cas fadd : Bool) : Bool :=
  scopeOk f.ord f.scope && decide (f.w = .b32 ∨ (f.w = .b64 ∧ fadd = false)) && (cas || f.c == 0)
/-- k counts from 1 to 32 (08 R201, R202). -/
def portCount (k : BitVec 6) : Bool := decide (1 ≤ k.toNat ∧ k.toNat ≤ 32)

/-- A produced Token is named (03 R73). -/
def efOk (e : EF) : Bool := e.kp != 0

/-- How an instruction uses a V source specifier. -/
inductive VUse where
  | none | vec | scalar
  deriving DecidableEq, Repr

/-- A legal V source specifier (03 R72). -/
def vSrcOk (u : VUse) (x : BitVec 8) : Bool :=
  match u with
  | .none => x == 0
  | .scalar => decide (0xC0 ≤ x.toNat ∧ x.toNat ≤ 0xDF)
  | .vec => decide (x.toNat ≤ 0x1D ∨ (0x40 ≤ x.toNat ∧ x.toNat ≤ 0x6F) ∨ (0x80 ≤ x.toNat ∧ x.toNat ≤ 0xDF))

/-- A legal V destination specifier (03 R72). -/
def vDstOk (x : BitVec 8) : Bool :=
  decide (x = 0 ∨ (0x10 ≤ x.toNat ∧ x.toNat ≤ 0x1B) ∨ (0x40 ≤ x.toNat ∧ x.toNat ≤ 0x6F) ∨ (0x80 ≤ x.toNat ∧ x.toNat ≤ 0xBF))

/-- A source specifier that names a Port (03 R72). -/
def isPort (x : BitVec 8) : Bool := decide (0x10 ≤ x.toNat ∧ x.toNat ≤ 0x1F)

/-- PEEK and NEED are zero where no source names a Port (03 R71). -/
def needOk (f : VF) : Bool :=
  isPort f.s1 || isPort f.s2 || isPort f.s3 || (!f.peek && f.need == 0)

/-! Type groups (07 R144). -/
def tInt (t : BitVec 4) : Bool := decide (t.toNat ≤ 5)
def tSint (t : BitVec 4) : Bool := decide (t.toNat ≤ 2)
def tHf (t : BitVec 4) : Bool := decide (6 ≤ t.toNat ∧ t.toNat ≤ 8)
def tFp (t : BitVec 4) : Bool := decide (6 ≤ t.toNat ∧ t.toNat ≤ 13)
def tNar (t : BitVec 4) : Bool := decide (9 ≤ t.toNat ∧ t.toNat ≤ 13)
def tW32 (t : BitVec 4) : Bool := t == 0 || t == 3 || t == 6
def tW3216 (t : BitVec 4) : Bool := tW32 t || t == 1 || t == 4 || t == 7 || t == 8
def tAny (t : BitVec 4) : Bool := t != 15
/-- Element width of a type code (07 R143). -/
def tWidth (t : BitVec 4) : Nat := if tW32 t then 32 else if t == 1 || t == 4 || t == 7 || t == 8 then 16 else 8

/-- Which rounding codes a row takes (07 R146). -/
inductive VRnd where
  | zero | mode | sr
  deriving DecidableEq, Repr

def rndOk : VRnd → BitVec 3 → Bool
  | .zero, r => r == 0
  | .mode, r => decide (r.toNat ≤ 3)
  | .sr, r => decide (r.toNat ≤ 4)

/-- The legality of one V word by the columns of its row. -/
def vOk (f : VF) (ty : Bool) (u1 u2 u3 : VUse) (rnd : VRnd) (ftz : Bool) (imm : Bool) : Bool :=
  ty && vSrcOk u1 f.s1 && vSrcOk u2 f.s2 && vSrcOk u3 f.s3 && vDstOk f.d && needOk f && rndOk rnd f.rnd
    && (ftz || !f.ftz) && imm

/-- Integer and logic rows (07 R147): INT or SINT types, no rounding, no FTZ. -/
def vInt (f : VF) (ty : Bool) (n : Nat) : Bool :=
  vOk f ty .vec (if n ≥ 2 then .vec else .none) (if n ≥ 3 then .vec else .none) .zero false (f.imm == 0)
/-- Floating rows (07 R148, R150). -/
def vFlt (f : VF) (n : Nat) (r : VRnd) (z : Bool) : Bool :=
  vOk f (tHf f.ty) .vec (if n ≥ 2 then .vec else .none) (if n ≥ 3 then .vec else .none) r z (f.imm == 0)

def immE (f : VF) : BitVec 4 := f.imm.extractLsb' 4 4
def immLo (f : VF) : BitVec 4 := f.imm.extractLsb' 0 4
def immPart (f : VF) : BitVec 2 := f.imm.extractLsb' 4 2
def immMerge (f : VF) : Bool := bit (f.imm.extractLsb' 6 1)
def immByp (f : VF) : Bool := bit (f.imm.extractLsb' 7 1)
def imm0 (f : VF) : Bool := bit (f.imm.extractLsb' 0 1)
/-- A pair named in IMM[7:4], or none (07 R162). -/
def pairOk (f : VF) : Bool := (immE f).extractLsb' 0 1 == 0

/-- The limits of a conversion's fields (07 R152): T and U of different code, PART within the ratio, MERGE only where widths differ. -/
def cvtOk (f : VF) (t u : BitVec 4) : Bool :=
  let wd := tWidth t
  let ws := tWidth u
  let r := Nat.max ws wd / Nat.min ws wd
  t != u && t != 15 && t != 14 && u != 15 && !immByp f && decide ((immPart f).toNat < r) && (decide (1 < r) || !immMerge f)

/-- Operand fields of an instruction that no rule of the spec reserves (03 R80). Machine events have none. LEN = 0 of a loop instruction counts as a reserved value, found at decode whatever the guard (assumption 93). -/
def legal : Instr → Bool
  | .bfx _ _ _ _ pos wm1 => decide (pos.toNat + wm1.toNat + 1 ≤ 64)
  | .bfi _ _ _ _ pos wm1 => decide (pos.toNat + wm1.toNat + 1 ≤ 64)
  | .cmp _ e _ _ _ => evenPair e
  | .cmpi _ e _ _ _ => evenPair e
  | .pand _ e _ _ => evenPair e
  | .por _ e _ _ => evenPair e
  | .pxor _ e _ _ => evenPair e
  | .pandn _ e _ _ => evenPair e
  | .psetImm _ e first count => evenPair e && decide (first.toNat + count.toNat ≤ 256)
  | .psetReg _ e _ => evenPair e
  | .loop _ _ len _ => len != 0
  | .loopi _ _ len _ => len != 0
  | .loopSwp _ _ _ len _ => len != 0
  | .mfs _ _ n => ctlKnown n
  | .mts _ _ n => ctlKnown n
  | .spawnRemote _ n _ _ _ _ => n != 0
  | .ttestPred _ e _ _ _ _ => evenPair e
  | .ttestPredReg _ e _ => evenPair e
  | .htestPred _ _ e _ _ _ _ => evenPair e
  | .htestPredReg _ _ e _ => evenPair e
  | .gbar _ sc _ n => n != 0 && sc != 0 && decide (sc.toNat ≤ 9)
  | .gbarArrive _ sc _ _ n _ => n != 0 && sc != 0 && decide (sc.toNat ≤ 9)
  | .gbarWait _ sc _ _ => sc != 0 && decide (sc.toNat ≤ 9)
  | .ld m x => loadOk m && dataOk m x && (match x with | .p r => decide (2 ≤ r.toNat) | _ => true)
  | .ldn m x => loadOk m && (match x with | .p _ => false | _ => true)
  | .st m x => storeOk m && dataOk m x
  | .ldv m c => loadOk m && cfgPort c
  | .stv m c => storeOk m && anyPort c
  | .ldg m c => loadOk m && cfgPort c && idxWidth m
  | .sts m c => storeOk m && cfgPort c && idxWidth m
  | .ldb m _ c => plainOk m && cfgPort c
  | .stb m _ c => plainOk m && anyPort c
  | .baste m => plainOk m
  | .aadd m _ => plainOk m
  | .amov _ x _ => (match x with | .p _ => false | _ => true)
  | .sofa _ _ b _ k z => decide (k.toNat ≤ 10) && (!z || b == 0)
  | .amoCas f => amoOk f true false
  | .amoFadd f => amoOk f false true
  | .amoSwap f => amoOk f false false
  | .amoAdd f => amoOk f false false
  | .amoMin f => amoOk f false false
  | .amoMax f => amoOk f false false
  | .amoAnd f => amoOk f false false
  | .amoOr f => amoOk f false false
  | .amoXor f => amoOk f false false
  | .fence _ o sc => decide (o ≠ .plain) && scopeOk o sc
  | .waitm _ _ w acq sc _ _ _ => decide (w = .b32 ∨ w = .b64) && scopeOk (if acq then .acq else .plain) sc
  | .pcfg _ c n m v => cfgPort c && decide (n.toNat ≤ 32) && (if v then cfgPort m else m == 0)
  | .padv _ c k => anyPort c && portCount k
  | .pwaitFill _ c k => anyPort c && portCount k
  | .pwaitFree _ c k => anyPort c && portCount k
  | .pquery _ _ c => anyPort c
  | .agset _ c b _ => cfgPort c && decide (b.toNat ≤ 13)
  | .agsetDetach _ c => cfgPort c
  | .vadd f => vInt f (tInt f.ty) 2
  | .vsub f => vInt f (tInt f.ty) 2
  | .vmul f => vInt f (tInt f.ty) 2
  | .vmulh f => vInt f (tInt f.ty) 2
  | .vmad f => vInt f (tInt f.ty) 3
  | .vmin f => vInt f (tInt f.ty) 2
  | .vmax f => vInt f (tInt f.ty) 2
  | .vabs f => vInt f (tSint f.ty) 1
  | .vneg f => vInt f (tSint f.ty) 1
  | .vand f => vInt f (tInt f.ty) 2
  | .vor f => vInt f (tInt f.ty) 2
  | .vxor f => vInt f (tInt f.ty) 2
  | .vnot f => vInt f (tInt f.ty) 1
  | .vshl f => vInt f (tInt f.ty) 2
  | .vshr f => vInt f (tInt f.ty) 2
  | .vsar f => vInt f (tInt f.ty) 2
  | .vclz f => vInt f (tInt f.ty) 1
  | .vpopc f => vInt f (tInt f.ty) 1
  | .vadds f => vInt f (tInt f.ty) 2
  | .vsubs f => vInt f (tInt f.ty) 2
  | .vfadd f => vFlt f 2 .mode true
  | .vfsub f => vFlt f 2 .mode true
  | .vfmul f => vFlt f 2 .mode true
  | .vfma f => vFlt f 3 .mode true
  | .vfnma f => vFlt f 3 .mode true
  | .vfmin f => vFlt f 2 .zero true
  | .vfmax f => vFlt f 2 .zero true
  | .vfabs f => vFlt f 1 .zero false
  | .vfneg f => vFlt f 1 .zero false
  | .vrcp f => vFlt f 1 .mode true
  | .vrsq f => vFlt f 1 .mode true
  | .vsqrt f => vFlt f 1 .mode true
  | .vexp2 f => vFlt f 1 .mode true
  | .vlog2 f => vFlt f 1 .mode true
  | .vsig f => vOk f (f.ty == 6) .vec .none .none .zero true (f.imm == 0)
  | .vcvt f =>
    vOk f true .vec (if immMerge f then .vec else .none) .none .mode (tHf f.ty || tHf (immLo f))
      (cvtOk f f.ty (immLo f) && !(immLo f == 14 && tInt f.ty))
  | .vcvts f =>
    vOk f true .vec (if immMerge f then .vec else .none) .none .sr true
      (cvtOk f f.ty (immLo f) && tHf (immLo f) && (f.ty == 7 || f.ty == 8 || tNar f.ty)
        && decide (tWidth f.ty < tWidth (immLo f)))
  | .vqnt f =>
    vOk f (tNar f.ty) .vec (if immByp f then .none else .vec) (if immMerge f then .vec else .none) .mode true (immLo f == 0)
  | .vdqnt f => vOk f (tNar f.ty) .vec .vec .none .mode true (immLo f == 0 && !immMerge f && !immByp f)
  | .vbmax f => vOk f (tNar f.ty) .vec .none .none .zero true (f.imm == 0 || f.imm == 1)
  | .vscale f => vFlt f 2 .mode true
  | .vsacc f => vOk f (f.ty == 14 || f.ty == 6) .vec .vec .vec .zero true (f.imm == 0)
  | .vplane f => vOk f (f.ty == 15) .vec .none .none .zero false (decide (2 ≤ f.imm.toNat ∧ f.imm.toNat ≤ 8))
  | .vunplane f => vOk f (f.ty == 15) .vec .none .none .zero false (decide (2 ≤ f.imm.toNat ∧ f.imm.toNat ≤ 8))
  | .vcmp f => vOk f (tInt f.ty) .vec .vec .none .zero false (pairOk f && decide ((immLo f).toNat ≤ 5))
  | .vfcmp f => vOk f (tFp f.ty) .vec .vec .none .zero true (pairOk f && decide ((immLo f).toNat ≤ 6))
  | .vclass f => vOk f (tFp f.ty) .vec .scalar .none .zero false (pairOk f && immLo f == 0)
  | .vsel f => vOk f (tAny f.ty) .vec .vec .none .zero false (immE f == 0)
  | .vperm f => vOk f (tW3216 f.ty) .vec .vec .vec .zero false (f.imm == 0)
  | .vbcast f => vOk f (tAny f.ty) .vec .scalar .none .zero false (f.imm == 0)
  | .vshift f => vOk f (tAny f.ty) .vec .vec .none .zero false true
  | .vzip f => vOk f (tAny f.ty) .vec .vec .none .zero false (f.imm == 0 || (f.imm == 1 && f.ty != 13))
  | .vunzip f =>
    vOk f (tAny f.ty) .vec (if f.ty = 13 then .none else .vec) .none .zero false (f.imm == 0 || f.imm == 1)
  | .vcompress f => vOk f (tW32 f.ty) .vec .none .none .zero false (immE f == 0)
  | .vexpand f => vOk f (tW32 f.ty) .vec .none .none .zero false (immE f == 0)
  | .vred f => vOk f (tInt f.ty) .vec .none .none .zero false (decide (f.imm.toNat ≤ 5))
  | .vfred f =>
    vOk f (tHf f.ty) .vec .none .none (if f.imm = 0 then .mode else .zero) true (decide (f.imm.toNat ≤ 2))
  | .vscan f => vOk f (tInt f.ty) .vec .none .none .zero false (decide (f.imm.toNat ≤ 5))
  | .vfscan f =>
    vOk f (tHf f.ty) .vec .none .none (if f.imm = 0 then .mode else .zero) true (decide (f.imm.toNat ≤ 2))
  | .vsort f => vOk f (tW32 f.ty) .vec .none .none .zero false (f.imm == 0 || f.imm == 1) && decide (f.slot = .v0)
  | .vsegsum f =>
    vOk f (tW32 f.ty) .vec .vec .none (if f.ty = 6 ∧ f.imm = 0 then .mode else .zero) (f.ty == 6 && f.imm == 0)
      (f.imm == 0 || f.imm == 1) && decide (f.slot = .v0)
  | .vmov f => vOk f (tAny f.ty) .vec .none .none .zero false (f.imm == 0)
  | .vli f => vOk f (tInt f.ty) .none .none .none .zero false true
  | .vext f => vOk f (tAny f.ty) .vec .scalar .none .zero false (f.imm == 0)
  | .vins f => vOk f (tAny f.ty) .vec .vec .scalar .zero false (f.imm == 0)
  | .vidx f => vOk f (tInt f.ty) .none .none .none .zero false true
  | .vxpush f => vOk f (tW3216 f.ty) .vec .none .none .zero false (f.imm == 0) && decide (f.slot = .v0)
  | .mxcfgLoad e _ _ _ => efOk e
  | .mxcfgStore e _ _ _ => efOk e
  | .mxgo e _ => efOk e
  | .mxzero e _ _ _ => efOk e
  | .mxshape e _ _ _ _ _ => efOk e
  | .mxdrainC12 e _ _ _ => efOk e
  | .mxdrainAb e _ _ _ _ => efOk e
  | .mxflag e _ _ => efOk e
  | .mxtw e _ _ lm1 => efOk e && lm1 != 0
  | .mxbf e _ b src _ => efOk e && !(src && b == 15)
  | .xcfg e _ _ => efOk e
  | .chgo e _ => efOk e
  | .chset e _ b sp => efOk e && sp != 3 && decide (b.toNat ≤ 13)
  | .chq e _ _ _ _ => efOk e
  | .tjoin e => efOk e
  | .put f => efOk f.e && f.n != 0 && decide (f.b.toNat ≤ 13) && decide (f.order = .plain ∨ f.order = .rel) && scopeOk f.order f.scope
  | .get f => efOk f.e && f.n != 0 && decide (f.b.toNat ≤ 13) && decide (f.order = .plain ∨ f.order = .acq) && scopeOk f.order f.scope
  | .acc f => efOk f.e && f.n != 0 && decide (f.b.toNat ≤ 13) && decide (f.order = .plain ∨ f.order = .rel) && scopeOk f.order f.scope
  | .ramo f =>
    efOk f.e && f.n != 0 && decide (f.order ≠ .sc) && scopeOk f.order f.scope && decide (f.x.toNat ≤ 9) && !(f.x == 1 && f.w)
  | .rcas f => efOk f.e && f.n != 0 && decide (f.order ≠ .sc) && scopeOk f.order f.scope
  | .wfence e w mode => efOk e && w != 4095 && mode != 3
  | .wpost e w _ => efOk e && w != 4095
  | .wstart e w _ => efOk e && w != 4095
  | .wcomplete e w => efOk e && w != 4095
  | .wwait e w => efOk e && w != 4095
  | .wlock e w _ _ => efOk e && w != 4095
  | .wunlock e w _ => efOk e && w != 4095
  | .wexpose e w b => efOk e && w != 4095 && decide (b.toNat ≤ 13)
  | .wrevoke e w => efOk e && w != 4095
  | .nmadd e _ _ => efOk e
  | .nmtopk e _ _ => efOk e
  | .nmpk e _ _ => efOk e
  | .nmbias e _ => efOk e
  | .nmfence e => efOk e
  | .gdisp e b _ _ _ => efOk e && decide (b.toNat ≤ 12)
  | .hem e => efOk e
  | _ => true
where
  /-- The numbers of the control registers (05 R107, 12 R278, R280, 19 R389, 20 R417). -/
  ctlKnown (n : BitVec 8) : Bool :=
    let v := n.toNat
    decide (v ≤ 0x05 ∨ (0x08 ≤ v ∧ v ≤ 0x17) ∨ (0x20 ≤ v ∧ v ≤ 0x2A) ∨ (0x40 ≤ v ∧ v ≤ 0x55) ∨ (0x58 ≤ v ∧ v ≤ 0x5A))

/-- Answer `i` when its must-be-zero fields are zero and its operand fields are legal. -/
def accept (zero : Bool) (i : Instr) : Except Reject Instr :=
  if zero then (if legal i then .ok i else .error .reservedOperand) else .error .reservedField

/-- A predicate number in a 5-bit field has bit 4 zero (06 R128). -/
def lo4 (x : BitVec 5) : BitVec 4 := x.extractLsb' 0 4
def hi0 (x : BitVec 5) : Bool := x.extractLsb' 4 1 == 0

def acceptCond (zero : Bool) (cc : Nat) (k : Cond → Instr) : Except Reject Instr :=
  match condOf cc with
  | some c => accept zero (k c)
  | none => .error .reservedCode

/-- The S-slot opcode map (04 R88; fields 05, 06 R128, 11 R258, 12 R283, 15 R320, 17 R367). -/
def decodeSFields (x : SWord) : Except Reject Instr :=
  let z3 := x.b == 0 && x.sub == 0
  let zi := x.imm == 0
  let z0 := x.sub == 0 && zi
  let r3 (k : BitVec 5 → BitVec 5 → BitVec 5 → Instr) := accept z0 (k x.d x.a x.b)
  let ri (k : BitVec 5 → BitVec 5 → BitVec 32 → Instr) := accept z3 (k x.d x.a x.imm)
  let rs (k : BitVec 5 → BitVec 5 → BitVec 6 → Instr) :=
    accept (z3 && x.imm.extractLsb' 6 26 == 0) (k x.d x.a (x.imm.extractLsb' 0 6))
  let r2 (k : BitVec 5 → BitVec 5 → Instr) := accept (z3 && zi) (k x.d x.a)
  let p3 (k : BitVec 4 → BitVec 4 → BitVec 4 → Instr) :=
    accept (z0 && hi0 x.d && hi0 x.a && hi0 x.b) (k (lo4 x.d) (lo4 x.a) (lo4 x.b))
  let none4 := x.d == 0 && x.a == 0
  let pos := x.imm.extractLsb' 0 6
  let wm1 := x.imm.extractLsb' 8 6
  let zf := x.imm.extractLsb' 14 18 == 0 && x.imm.extractLsb' 6 2 == 0
  let len := x.imm.extractLsb' 16 16
  let y := x.imm.extractLsb' 0 16
  let t1 := x.imm.extractLsb' 0 6
  let t2 := x.imm.extractLsb' 6 6
  let t3 := x.imm.extractLsb' 12 6
  let t4 := x.imm.extractLsb' 18 6
  let zt := x.imm.extractLsb' 24 8 == 0
  let h1 := x.imm.extractLsb' 0 5
  let h2 := x.imm.extractLsb' 5 5
  let h3 := x.imm.extractLsb' 10 5
  let h4 := x.imm.extractLsb' 15 5
  let zh := x.imm.extractLsb' 20 12 == 0
  let sc := x.imm.extractLsb' 8 4
  match x.op.toNat with
  | 0x00 => accept (none4 && z3 && zi) (.nop x.g)
  | 0x01 => accept (x.a == 0 && z3) (.li x.g x.d x.imm)
  | 0x02 => ri (.lih x.g)
  | 0x03 => r2 (.mov x.g)
  | 0x04 => r3 (.add x.g)
  | 0x05 => ri (.addi x.g)
  | 0x06 => r3 (.sub x.g)
  | 0x07 => r3 (.mul x.g)
  | 0x08 => r3 (.mulh x.g)
  | 0x09 => r3 (.mulhn x.g)
  | 0x0A => r3 (.div x.g)
  | 0x0B => r3 (.divn x.g)
  | 0x0C => r3 (.rem x.g)
  | 0x0D => r3 (.remn x.g)
  | 0x0E => r3 (.and x.g)
  | 0x0F => ri (.andi x.g)
  | 0x10 => r3 (.or x.g)
  | 0x11 => ri (.ori x.g)
  | 0x12 => r3 (.xor x.g)
  | 0x13 => ri (.xori x.g)
  | 0x14 => r3 (.shl x.g)
  | 0x15 => rs (.shli x.g)
  | 0x16 => r3 (.shr x.g)
  | 0x17 => rs (.shri x.g)
  | 0x18 => r3 (.sar x.g)
  | 0x19 => rs (.sari x.g)
  | 0x1A => r3 (.min x.g)
  | 0x1B => r3 (.minn x.g)
  | 0x1C => r3 (.max x.g)
  | 0x1D => r3 (.maxn x.g)
  | 0x1E => r2 (.clz x.g)
  | 0x1F => r2 (.ctz x.g)
  | 0x20 => r2 (.popc x.g)
  | 0x21 => accept (x.b == 0 && x.sub.extractLsb' 1 4 == 0 && zf) (.bfx x.g x.d x.a (bit (x.sub.extractLsb' 0 1)) pos wm1)
  | 0x22 => accept (x.sub == 0 && zf) (.bfi x.g x.d x.a x.b pos wm1)
  | 0x23 => accept (x.sub.extractLsb' 1 4 == 0 && zi) (.adds x.g x.d x.a x.b (bit (x.sub.extractLsb' 0 1)))
  | 0x24 => accept (hi0 x.sub && zi) (.sel x.g x.d x.a x.b (lo4 x.sub))
  | 0x28 => acceptCond (hi0 x.d && zi) x.sub.toNat (.cmp x.g (lo4 x.d) x.a x.b)
  | 0x29 => acceptCond (hi0 x.d && x.b == 0) x.sub.toNat (fun c => .cmpi x.g (lo4 x.d) x.a c x.imm)
  | 0x2A => p3 (.pand x.g)
  | 0x2B => p3 (.por x.g)
  | 0x2C => p3 (.pxor x.g)
  | 0x2D => p3 (.pandn x.g)
  | 0x2E =>
    if x.sub = 0 then
      accept (hi0 x.d && x.a == 0 && x.b == 0 && x.imm.extractLsb' 17 15 == 0)
        (.psetImm x.g (lo4 x.d) (x.imm.extractLsb' 0 8) (x.imm.extractLsb' 8 9))
    else accept (hi0 x.d && x.sub == 1 && x.b == 0 && zi) (.psetReg x.g (lo4 x.d) x.a)
  | 0x2F => accept (hi0 x.a && z3 && zi) (.pcnt x.g x.d (lo4 x.a))
  | 0x30 => accept (none4 && x.b == 0 && x.sub.extractLsb' 2 3 == 0) (.br x.g (x.sub.extractLsb' 0 2) x.imm)
  | 0x31 => accept (x.d == 0 && x.b == 0 && x.sub.extractLsb' 2 3 == 0 && zi) (.brx x.g x.a (x.sub.extractLsb' 0 2))
  | 0x32 => accept (x.a == 0 && z3) (.call x.g x.d x.imm)
  | 0x33 => r2 (.callx x.g)
  | 0x34 => accept (x.d == 0 && z3 && zi) (.ret x.g x.a)
  | 0x35 => accept (x.d == 0 && z3) (.loop x.g x.a len y)
  | 0x36 => accept (x.sub == 0) (.loopi x.g (x.d ++ x.a ++ x.b) len y)
  | 0x37 => accept (x.d == 0 && x.b == 0 && x.sub.extractLsb' 3 2 == 0) (.loopSwp x.g x.a (x.sub.extractLsb' 0 3) len y)
  | 0x40 =>
    let prio := x.sub.extractLsb' 0 3
    let lv := bit (x.sub.extractLsb' 3 1)
    if x.sub.extractLsb' 4 1 = 1 then accept zi (.spawnRemote x.g x.d x.a x.b prio lv)
    else accept (x.d == 0 && x.b == 0 && zi) (.spawnLocal x.g x.a prio lv)
  | 0x41 =>
    if x.sub = 0 then accept (x.a == 0 && x.b == 0 && zi) (.joinParent x.g x.d)
    else accept (x.sub == 1 && x.d == 0 && x.b == 0 && zi) (.joinRecord x.g x.a)
  | 0x42 => accept (none4 && z3 && zi) (.endt x.g)
  | 0x43 => accept (none4 && z3) (.yield x.g x.imm)
  | 0x48 => accept (x.a == 0 && z3 && x.imm.extractLsb' 8 24 == 0) (.mfs x.g x.d (x.imm.extractLsb' 0 8))
  | 0x49 => accept (x.d == 0 && z3 && x.imm.extractLsb' 8 24 == 0) (.mts x.g x.a (x.imm.extractLsb' 0 8))
  | 0x4A => accept (none4 && z3 && x.imm.extractLsb' 16 16 == 0) (.trap x.g (x.imm.extractLsb' 0 16))
  | 0x4B => accept (none4 && z3 && zi) (.eret x.g)
  | 0x4C => accept (none4 && z3 && x.imm.extractLsb' 16 16 == 0) (.sys x.g (x.imm.extractLsb' 0 16))
  | 0x4D => accept (x.a == 0 && z3 && x.imm.extractLsb' 3 29 == 0) (.rdtr x.g x.d (x.imm.extractLsb' 0 3))
  | 0x4E => accept (hi0 x.b && z0) (.ctxsave x.g x.d x.a (lo4 x.b))
  | 0x4F => accept (hi0 x.b && z0) (.ctxload x.g x.d x.a (lo4 x.b))
  | 0x50 => accept (x.d == 0 && x.b == 0 && x.sub.extractLsb' 1 4 == 0 && zi) (.park x.g x.a (bit (x.sub.extractLsb' 0 1)))
  | 0x51 => r2 (.ptest x.g)
  | 0x60 =>
    if x.sub = 0 then accept (none4 && x.b == 0 && zt) (.twaitImm x.g t1 t2 t3 t4)
    else accept (x.sub == 1 && x.d == 0 && x.b == 0 && zi) (.twaitReg x.g x.a)
  | 0x61 =>
    if x.sub = 0 then accept (hi0 x.d && x.a == 0 && x.b == 0 && zt) (.ttestPred x.g (lo4 x.d) t1 t2 t3 t4)
    else if x.sub = 1 then accept (hi0 x.d && x.b == 0 && zi) (.ttestPredReg x.g (lo4 x.d) x.a)
    else accept (x.sub == 2 && x.a == 0 && x.b == 0 && x.imm.extractLsb' 6 26 == 0) (.ttestScalar x.g x.d t1)
  | 0x62 =>
    let loc := bit (x.sub.extractLsb' 1 1)
    if x.sub.extractLsb' 0 1 = 0 then accept (none4 && x.b == 0 && x.sub.extractLsb' 2 3 == 0 && zh) (.hwaitImm x.g loc h1 h2 h3 h4)
    else accept (x.d == 0 && x.b == 0 && x.sub.extractLsb' 2 3 == 0 && zi) (.hwaitReg x.g loc x.a)
  | 0x63 =>
    let loc := bit (x.sub.extractLsb' 2 1)
    let f := x.sub.extractLsb' 0 2
    let z := x.b == 0 && x.sub.extractLsb' 3 2 == 0
    if f = 0 then accept (hi0 x.d && x.a == 0 && z && zh) (.htestPred x.g loc (lo4 x.d) h1 h2 h3 h4)
    else if f = 1 then accept (hi0 x.d && z && zi) (.htestPredReg x.g loc (lo4 x.d) x.a)
    else if f = 2 then accept (x.a == 0 && z && !loc && x.imm.extractLsb' 5 27 == 0) (.htestScalar x.g x.d h1)
    else accept (x.a == 0 && z && !loc && x.imm.extractLsb' 5 27 == 0) (.htestOff x.g x.d h1)
  | 0x64 => accept (x.d == 0 && z3 && x.imm.extractLsb' 5 3 == 0 && x.imm.extractLsb' 12 20 == 0) (.gbar x.g sc x.a h1)
  | 0x65 =>
    accept (z3 && x.imm.extractLsb' 5 3 == 0 && x.imm.extractLsb' 12 4 == 0 && x.imm.extractLsb' 22 10 == 0)
      (.gbarArrive x.g sc x.d x.a h1 (x.imm.extractLsb' 16 6))
  | 0x66 => accept (x.d == 0 && x.sub == 0 && x.imm.extractLsb' 0 8 == 0 && x.imm.extractLsb' 12 20 == 0) (.gbarWait x.g sc x.a x.b)
  | _ => .error .reservedOpcode

/-- The s-, a- or p-register that a data operand names (03 R68). -/
def dataReg (x : AWord) : Option DataReg :=
  if x.kind = 0 then some (.s x.d)
  else if x.kind = 2 then (if hi0 x.d then some (.a (lo4 x.d)) else none)
  else if x.kind = 3 then (if hi0 x.d then some (.p (lo4 x.d)) else none)
  else none

/-- The A-slot opcode map (04 R89; fields 08 R189, 19 R403). -/
def decodeAFields (x : AWord) : Except Reject Instr :=
  let m : AMem := { g := x.g, b := x.b, w := widthOf x.w, ord := orderOf x.ord, scope := x.scope, off := x.off, step := x.step }
  let f : AmoF := { g := x.g, b := x.b, w := widthOf x.w, ord := orderOf x.ord, scope := x.scope, off := x.off, d := x.d,
                    v := x.step.extractLsb' 0 5, c := x.step.extractLsb' 5 5 }
  let zo := x.ord == 0 && x.scope == 0
  let zs := x.step == 0
  let za := x.off == 0 && zs
  let c := lo4 x.d
  let data (k : DataReg → Instr) := match dataReg x with
    | some r => accept true (k r)
    | none => .error .reservedCode
  let port (k : Reg4 → Instr) := if x.kind = 1 then accept (hi0 x.d) (k c) else .error .reservedCode
  let bufp (k : Buf → Reg4 → Instr) :=
    if x.kind = 4 then accept (hi0 x.d) (k .wb c) else if x.kind = 5 then accept (hi0 x.d) (k .ab c) else .error .reservedCode
  let amo (k : AmoF → Instr) := if x.kind = 0 then accept (x.step.extractLsb' 10 2 == 0) (k f) else .error .reservedCode
  let nothing := x.d == 0 && x.kind == 0 && x.w == 0 && zo
  match x.op.toNat with
  | 0x00 => accept (nothing && x.b == 0 && za) (.nopA x.g)
  | 0x01 => data (.ld m)
  | 0x02 => data (.ldn m)
  | 0x03 => data (.st m)
  | 0x04 => port (.ldv m)
  | 0x05 => port (.stv m)
  | 0x06 => port (.ldg m)
  | 0x07 => port (.sts m)
  | 0x08 => bufp (.ldb m)
  | 0x09 => bufp (.stb m)
  | 0x0A => if x.kind = 0 then accept (x.d == 0) (.baste m) else .error .reservedCode
  | 0x10 => if x.kind = 2 then accept (hi0 x.d) (.aadd m c) else .error .reservedCode
  | 0x11 => match dataReg x with
    | some r => accept (x.w == 0 && zo && za) (.amov x.g r x.b)
    | none => .error .reservedCode
  | 0x12 => if x.kind = 2 then accept (hi0 x.d && x.b == 0 && x.w == 0 && zo) (.ali x.g c (x.off ++ x.step)) else .error .reservedCode
  | 0x13 => if x.kind = 2 then accept (hi0 x.d && x.w == 0 && zo) (.alih x.g c x.b (x.off ++ x.step)) else .error .reservedCode
  | 0x14 =>
    if x.kind = 0 then accept (x.w == 0 && zo && zs && x.off.extractLsb' 4 16 == 0) (.aofs x.g x.d x.b (x.off.extractLsb' 0 4))
    else .error .reservedCode
  | 0x15 =>
    if x.kind = 2 then
      accept (hi0 x.d && x.w == 0 && zo && zs && x.off.extractLsb' 10 10 == 0)
        (.sofa x.g c x.b (x.off.extractLsb' 0 5) (x.off.extractLsb' 5 4) (bit (x.off.extractLsb' 9 1)))
    else .error .reservedCode
  | 0x20 => amo .amoCas
  | 0x21 => amo .amoSwap
  | 0x22 => amo .amoAdd
  | 0x23 => amo .amoFadd
  | 0x24 => amo .amoMin
  | 0x25 => amo .amoMax
  | 0x26 => amo .amoAnd
  | 0x27 => amo .amoOr
  | 0x28 => amo .amoXor
  | 0x30 => accept (x.d == 0 && x.b == 0 && x.kind == 0 && x.w == 0 && za) (.fence x.g (orderOf x.ord) x.scope)
  | 0x31 =>
    if x.kind = 0 ∧ (x.ord = 0 ∨ x.ord = 1) then
      acceptCond (x.step.extractLsb' 4 8 == 0) (x.step.extractLsb' 0 4).toNat
        (.waitm x.g x.b (widthOf x.w) (x.ord == 1) x.scope x.off x.d)
    else .error .reservedCode
  | 0x40 =>
    if x.kind = 1 then
      accept (hi0 x.d && x.b == 0 && x.w == 0 && zo && zs && x.off.extractLsb' 11 9 == 0)
        (.pcfg x.g c (x.off.extractLsb' 0 6) (x.off.extractLsb' 6 4) (bit (x.off.extractLsb' 10 1)))
    else .error .reservedCode
  | 0x41 =>
    if x.kind = 1 then
      accept (hi0 x.d && x.b == 0 && x.w == 0 && zo && zs && x.off.extractLsb' 6 14 == 0) (.padv x.g c (x.off.extractLsb' 0 6))
    else .error .reservedCode
  | 0x42 =>
    if x.kind = 1 then
      let z := hi0 x.d && x.b == 0 && x.w == 0 && zo && zs && x.off.extractLsb' 7 13 == 0
      if x.off.extractLsb' 6 1 = 1 then accept z (.pwaitFree x.g c (x.off.extractLsb' 0 6))
      else accept z (.pwaitFill x.g c (x.off.extractLsb' 0 6))
    else .error .reservedCode
  | 0x43 => if x.kind = 0 then accept (x.w == 0 && zo && za) (.pquery x.g x.d x.b) else .error .reservedCode
  | 0x44 =>
    if x.kind = 5 then accept (hi0 x.d && x.w == 0 && zo && zs) (.agset x.g c x.b x.off)
    else if x.kind = 1 then accept (hi0 x.d && x.b == 0 && x.w == 0 && zo && za) (.agsetDetach x.g c)
    else .error .reservedCode
  | 0x50 => accept (nothing && zs) (.tlbinv x.g x.b x.off)
  | 0x51 => accept (nothing && x.b == 0 && za) (.tlbinvAll x.g)
  | 0x52 => accept (x.b == 0 && x.kind == 0 && x.w == 0 && zo && za) (.tlbinvAsid x.g x.d)
  | _ => .error .reservedOpcode

/-- The V-slot opcode map (04 R90). -/
def vCtor : Nat → Option (VF → Instr)
  | 0x00 => some .vadd | 0x01 => some .vsub | 0x02 => some .vmul | 0x03 => some .vmulh
  | 0x04 => some .vmad | 0x05 => some .vmin | 0x06 => some .vmax | 0x07 => some .vabs
  | 0x08 => some .vneg | 0x09 => some .vand | 0x0A => some .vor | 0x0B => some .vxor
  | 0x0C => some .vnot | 0x0D => some .vshl | 0x0E => some .vshr | 0x0F => some .vsar
  | 0x10 => some .vclz | 0x11 => some .vpopc | 0x12 => some .vadds | 0x13 => some .vsubs
  | 0x20 => some .vfadd | 0x21 => some .vfsub | 0x22 => some .vfmul | 0x23 => some .vfma
  | 0x24 => some .vfnma | 0x25 => some .vfmin | 0x26 => some .vfmax | 0x27 => some .vfabs
  | 0x28 => some .vfneg | 0x29 => some .vrcp | 0x2A => some .vrsq | 0x2B => some .vsqrt
  | 0x2C => some .vexp2 | 0x2D => some .vlog2 | 0x2E => some .vsig
  | 0x30 => some .vcvt | 0x31 => some .vcvts | 0x32 => some .vqnt | 0x33 => some .vdqnt
  | 0x34 => some .vbmax | 0x35 => some .vscale | 0x36 => some .vsacc | 0x37 => some .vplane
  | 0x38 => some .vunplane
  | 0x40 => some .vcmp | 0x41 => some .vfcmp | 0x42 => some .vclass
  | 0x48 => some .vsel | 0x49 => some .vperm | 0x4A => some .vbcast | 0x4B => some .vshift
  | 0x4C => some .vzip | 0x4D => some .vunzip | 0x4E => some .vcompress | 0x4F => some .vexpand
  | 0x50 => some .vred | 0x51 => some .vfred | 0x52 => some .vscan | 0x53 => some .vfscan
  | 0x58 => some .vsort | 0x59 => some .vsegsum
  | 0x60 => some .vmov | 0x61 => some .vli | 0x62 => some .vext | 0x63 => some .vins
  | 0x64 => some .vidx | 0x65 => some .vxpush
  | _ => none

/-- A word in slot V0 or V1. -/
def decodeVFields (sl : VSlot) (x : VWord) : Except Reject Instr :=
  match vCtor x.op.toNat with
  | none => .error .reservedOpcode
  | some k =>
    accept true (k { slot := sl, g := x.g, d := x.d, s1 := x.s1, s2 := x.s2, s3 := x.s3, ty := x.ty, rnd := x.rnd,
                     ftz := bit x.ftz, peek := bit x.peek, need := x.need, imm := x.imm })

/-- The E-slot opcode map (04 R91; fields 09 R227, 10 R247, 11 R273, 14 R307, 15 R315, 17 R365, 18 R369). -/
def decodeEFields (x : EWord) : Except Reject Instr :=
  let e : EF := { g := x.g, kp := x.kp, ka := x.ka, kb := x.kb, kc := x.kc }
  let m := x.cmd
  let t := m.extractLsb' 18 10
  let s := m.extractLsb' 0 12
  let rf : RF := { e := e, n := m.extractLsb' 23 5, b := m.extractLsb' 19 4, order := orderOf (m.extractLsb' 17 2),
                   ord := bit (m.extractLsb' 16 1), scope := m.extractLsb' 12 4, s := s }
  let ra (x : BitVec 5) : RaF :=
    { e := e, n := m.extractLsb' 23 5, d := m.extractLsb' 18 5, a := m.extractLsb' 13 5, x := x, w := bit (m.extractLsb' 7 1),
      order := orderOf (m.extractLsb' 5 2), scope := m.extractLsb' 1 4, ord := bit (m.extractLsb' 0 1) }
  let win := m.extractLsb' 16 12
  let wa := m.extractLsb' 11 5
  match x.op.toNat with
  | 0x00 => accept (x.kp == 0 && x.ka == 0 && x.kb == 0 && x.kc == 0 && m == 0) (.nopE x.g)
  | 0x08 =>
    if m.extractLsb' 25 1 = 0 then accept true (.mxcfgLoad e (m.extractLsb' 26 2) (m.extractLsb' 21 4) (m.extractLsb' 0 21))
    else accept true (.mxcfgStore e (m.extractLsb' 26 2) (m.extractLsb' 21 4) (m.extractLsb' 0 21))
  | 0x09 => accept (m.extractLsb' 0 26 == 0) (.mxgo e (m.extractLsb' 26 2))
  | 0x0A =>
    accept (m.extractLsb' 12 1 == 0) (.mxbf e t (m.extractLsb' 14 4) (bit (m.extractLsb' 13 1)) s)
  | 0x0B => accept (m.extractLsb' 0 7 == 0) (.mxtw e t (bit (m.extractLsb' 17 1)) (m.extractLsb' 7 10))
  | 0x0C => accept true (.mxzero e t (m.extractLsb' 12 6) s)
  | 0x0D =>
    accept true (.mxshape e t (m.extractLsb' 13 5) (m.extractLsb' 7 6) (bit (m.extractLsb' 6 1)) (m.extractLsb' 0 6))
  | 0x0E =>
    if m.extractLsb' 17 1 = 0 then accept (m.extractLsb' 12 4 == 0) (.mxdrainC12 e t (bit (m.extractLsb' 16 1)) s)
    else accept true (.mxdrainAb e t (bit (m.extractLsb' 16 1)) (m.extractLsb' 12 4) s)
  | 0x0F => accept (m.extractLsb' 12 6 == 0) (.mxflag e t s)
  | 0x10 => accept (m.extractLsb' 0 22 == 0) (.xcfg e (m.extractLsb' 23 5) (bit (m.extractLsb' 22 1)))
  | 0x18 => accept (m.extractLsb' 0 24 == 0) (.chgo e (m.extractLsb' 24 4))
  | 0x19 => accept (m.extractLsb' 0 18 == 0) (.chset e (m.extractLsb' 24 4) (m.extractLsb' 20 4) (m.extractLsb' 18 2))
  | 0x1A =>
    accept (m.extractLsb' 12 7 == 0) (.chq e (m.extractLsb' 24 4) (m.extractLsb' 20 4) (bit (m.extractLsb' 19 1)) s)
  | 0x1B => accept (m == 0) (.tjoin e)
  | 0x20 => accept true (.put rf)
  | 0x21 => accept true (.get rf)
  | 0x22 => accept true (.acc rf)
  | 0x23 => accept (m.extractLsb' 12 1 == 0) (.ramo (ra ((0 : BitVec 1) ++ m.extractLsb' 8 4)))
  | 0x24 => accept true (.rcas (ra (m.extractLsb' 8 5)))
  | 0x25 => accept (m.extractLsb' 0 14 == 0) (.wfence e win (m.extractLsb' 14 2))
  | 0x26 => accept (m.extractLsb' 0 11 == 0) (.wpost e win wa)
  | 0x27 => accept (m.extractLsb' 0 11 == 0) (.wstart e win wa)
  | 0x28 => accept (m.extractLsb' 0 16 == 0) (.wcomplete e win)
  | 0x29 => accept (m.extractLsb' 0 16 == 0) (.wwait e win)
  | 0x2A => accept (m.extractLsb' 0 10 == 0) (.wlock e win wa (bit (m.extractLsb' 10 1)))
  | 0x2B => accept (m.extractLsb' 0 11 == 0) (.wunlock e win wa)
  | 0x2C => accept (m.extractLsb' 0 12 == 0) (.wexpose e win (m.extractLsb' 12 4))
  | 0x2D => accept (m.extractLsb' 0 16 == 0) (.wrevoke e win)
  | 0x38 => accept (m.extractLsb' 12 12 == 0) (.nmadd e (m.extractLsb' 24 4) s)
  | 0x39 => accept (m.extractLsb' 12 12 == 0) (.nmtopk e (m.extractLsb' 24 4) s)
  | 0x3A => accept (m.extractLsb' 12 12 == 0) (.nmpk e (m.extractLsb' 24 4) s)
  | 0x3B => accept (m.extractLsb' 0 24 == 0) (.nmbias e (m.extractLsb' 24 4))
  | 0x3C => accept (m == 0) (.nmfence e)
  | 0x3D =>
    accept (m.extractLsb' 0 8 == 0) (.gdisp e (m.extractLsb' 24 4) (m.extractLsb' 12 12) (m.extractLsb' 9 3) (bit (m.extractLsb' 8 1)))
  | 0x40 => accept (m == 0) (.hem e)
  | _ => .error .reservedOpcode

/-- The instruction of a word in a slot. -/
def decodeWord : Slot → Word → Except Reject Instr
  | .s, w => decodeSFields (SWord.unpack w)
  | .a, w => decodeAFields (AWord.unpack w)
  | .v0, w => decodeVFields .v0 (VWord.unpack w)
  | .v1, w => decodeVFields .v1 (VWord.unpack w)
  | .e, w => decodeEFields (EWord.unpack w)

/-! Bytes. -/

/-- The little-endian number in the first `n` bytes, with the rest; none where fewer stand there (00 R5). -/
def takeLE : Nat → List Byte → Option (Nat × List Byte)
  | 0, l => some (0, l)
  | _ + 1, [] => none
  | n + 1, b :: l =>
    match takeLE n l with
    | some (v, r) => some (b.toNat + 256 * v, r)
    | none => none

/-- The slot word next in the bytes, where the mask bit asks for one. -/
def takeWord (present : Bool) (l : List Byte) : Option (Option Word × List Byte) :=
  if present then
    match takeLE 8 l with
    | some (v, r) => some (some (BitVec.ofNat 64 v), r)
    | none => none
  else some (none, l)

/-- A bundle read from bytes (03 R57), and what follows it. -/
def decodeBundle (l : List Byte) : Option (Bundle × List Byte) := do
  let (h, l) ← takeLE 4 l
  let h : BitVec 32 := BitVec.ofNat 32 h
  let (ws, l) ← takeWord (h.getLsbD 31) l
  let (wa, l) ← takeWord (h.getLsbD 30) l
  let (w0, l) ← takeWord (h.getLsbD 29) l
  let (w1, l) ← takeWord (h.getLsbD 28) l
  let (we, l) ← takeWord (h.getLsbD 27) l
  return ({ s := ws, a := wa, v0 := w0, v1 := w1, e := we, rep := h.extractLsb' 21 6, hwin := h.getLsbD 20,
            keep := h.getLsbD 19, rstep := h.getLsbD 18, rsv := h.extractLsb' 0 18 }, l)

/-- Slot words of a bundle in slot order. -/
def Bundle.words (b : Bundle) : List (Slot × Word) :=
  (b.s.toList.map (Slot.s, ·)) ++ (b.a.toList.map (Slot.a, ·)) ++ (b.v0.toList.map (Slot.v0, ·))
    ++ (b.v1.toList.map (Slot.v1, ·)) ++ (b.e.toList.map (Slot.e, ·))

/-- Bytes of a bundle (03 R57). -/
def Bundle.bytes (b : Bundle) : Nat := 4 + 8 * b.words.length

/-- A header with only its mask set. -/
def Bundle.plain (b : Bundle) : Bool := b.rep == 0 && !b.hwin && !b.keep && !b.rstep && b.rsv == 0

/-- The step a bundle stands for: a plain bundle of one word is that word's instruction, any other bundle is an issue of the whole. -/
def Bundle.instr (b : Bundle) : Except Reject Instr :=
  match b.plain, b.words with
  | true, [(sl, w)] => decodeWord sl w
  | _, ws =>
    match ws.foldl (fun r p => match r, decodeWord p.1 p.2 with
        | none, .error x => some x
        | r, _ => r) none with
    | some x => .error x
    | none => .ok (.bundleIssue b)

/-- The instruction that stands at the start of the bytes, and the rest of them. Total: bytes that hold no bundle, or a word that is no instruction, are rejected by name. -/
def decode (l : List Byte) : Except Reject (Instr × List Byte) :=
  match decodeBundle l with
  | none => .error .truncated
  | some (b, r) =>
    match b.instr with
    | .ok i => .ok (i, r)
    | .error x => .error x

/-! The encoder. -/

def mem (op : BitVec 8) (m : AMem) (d : BitVec 5) (kind : BitVec 3) : Word :=
  AWord.pack { g := m.g, op := op, d := d, b := m.b, kind := kind, w := m.w.code, ord := m.ord.code, scope := m.scope,
               off := m.off, step := m.step }
def z4 (x : BitVec 4) : BitVec 5 := (0 : BitVec 1) ++ x
def dataField : DataReg → BitVec 5 × BitVec 3
  | .s r => (r, 0)
  | .a r => (z4 r, 2)
  | .p r => (z4 r, 3)
def encMem (op : BitVec 8) (m : AMem) (x : DataReg) : Word := mem op m (dataField x).1 (dataField x).2
def encAmo (op : BitVec 8) (f : AmoF) : Word :=
  AWord.pack { g := f.g, op := op, d := f.d, b := f.b, kind := 0, w := f.w.code, ord := f.ord.code, scope := f.scope,
               off := f.off, step := (0 : BitVec 2) ++ f.c ++ f.v }
def bufKind : Buf → BitVec 3
  | .wb => 4
  | .ab => 5
/-- An A word without memory fields. -/
def encA (g : BitVec 4) (op : BitVec 8) (d : BitVec 5) (b : BitVec 4) (kind : BitVec 3) (off : BitVec 20) (step : BitVec 12) : Word :=
  AWord.pack { g := g, op := op, d := d, b := b, kind := kind, w := 0, ord := 0, scope := 0, off := off, step := step }
def encS (g : BitVec 4) (op : BitVec 8) (d a b sub : BitVec 5) (imm : BitVec 32) : Word :=
  SWord.pack { g := g, op := op, d := d, a := a, b := b, sub := sub, imm := imm }
def encV (op : BitVec 8) (f : VF) : Word :=
  VWord.pack { g := f.g, op := op, d := f.d, s1 := f.s1, s2 := f.s2, s3 := f.s3, ty := f.ty, rnd := f.rnd, ftz := b1 f.ftz,
               peek := b1 f.peek, need := f.need, imm := f.imm }
def encE (op : BitVec 8) (e : EF) (cmd : BitVec 28) : Word :=
  EWord.pack { g := e.g, op := op, kp := e.kp, ka := e.ka, kb := e.kb, kc := e.kc, cmd := cmd }
def encRF (op : BitVec 8) (f : RF) : Word := encE op f.e (f.n ++ f.b ++ f.order.code ++ b1 f.ord ++ f.scope ++ f.s)
def encRa (op : BitVec 8) (f : RaF) : Word :=
  encE op f.e (f.n ++ f.d ++ f.a ++ f.x ++ b1 f.w ++ f.order.code ++ f.scope ++ b1 f.ord)
def toks (a b c d : Tok) : BitVec 32 := (0 : BitVec 8) ++ d ++ c ++ b ++ a
def hnds (a b c d : Hnd) : BitVec 32 := (0 : BitVec 12) ++ d ++ c ++ b ++ a
def cc5 (c : Cond) : BitVec 5 := z4 c.code
def s1 (b : Bool) : BitVec 5 := (0 : BitVec 4) ++ b1 b

/-- The slot and word of a slot instruction; none for a bundle or a machine event. -/
def encode : Instr → Option (Slot × Word)
  | .nop g => some (.s, encS g 0x00 0 0 0 0 0)
  | .li g d imm => some (.s, encS g 0x01 d 0 0 0 imm)
  | .lih g d a imm => some (.s, encS g 0x02 d a 0 0 imm)
  | .mov g d a => some (.s, encS g 0x03 d a 0 0 0)
  | .add g d a b => some (.s, encS g 0x04 d a b 0 0)
  | .addi g d a imm => some (.s, encS g 0x05 d a 0 0 imm)
  | .sub g d a b => some (.s, encS g 0x06 d a b 0 0)
  | .mul g d a b => some (.s, encS g 0x07 d a b 0 0)
  | .mulh g d a b => some (.s, encS g 0x08 d a b 0 0)
  | .mulhn g d a b => some (.s, encS g 0x09 d a b 0 0)
  | .div g d a b => some (.s, encS g 0x0A d a b 0 0)
  | .divn g d a b => some (.s, encS g 0x0B d a b 0 0)
  | .rem g d a b => some (.s, encS g 0x0C d a b 0 0)
  | .remn g d a b => some (.s, encS g 0x0D d a b 0 0)
  | .and g d a b => some (.s, encS g 0x0E d a b 0 0)
  | .andi g d a imm => some (.s, encS g 0x0F d a 0 0 imm)
  | .or g d a b => some (.s, encS g 0x10 d a b 0 0)
  | .ori g d a imm => some (.s, encS g 0x11 d a 0 0 imm)
  | .xor g d a b => some (.s, encS g 0x12 d a b 0 0)
  | .xori g d a imm => some (.s, encS g 0x13 d a 0 0 imm)
  | .shl g d a b => some (.s, encS g 0x14 d a b 0 0)
  | .shli g d a sh => some (.s, encS g 0x15 d a 0 0 ((0 : BitVec 26) ++ sh))
  | .shr g d a b => some (.s, encS g 0x16 d a b 0 0)
  | .shri g d a sh => some (.s, encS g 0x17 d a 0 0 ((0 : BitVec 26) ++ sh))
  | .sar g d a b => some (.s, encS g 0x18 d a b 0 0)
  | .sari g d a sh => some (.s, encS g 0x19 d a 0 0 ((0 : BitVec 26) ++ sh))
  | .min g d a b => some (.s, encS g 0x1A d a b 0 0)
  | .minn g d a b => some (.s, encS g 0x1B d a b 0 0)
  | .max g d a b => some (.s, encS g 0x1C d a b 0 0)
  | .maxn g d a b => some (.s, encS g 0x1D d a b 0 0)
  | .clz g d a => some (.s, encS g 0x1E d a 0 0 0)
  | .ctz g d a => some (.s, encS g 0x1F d a 0 0 0)
  | .popc g d a => some (.s, encS g 0x20 d a 0 0 0)
  | .bfx g d a sx pos wm1 => some (.s, encS g 0x21 d a 0 (s1 sx) ((0 : BitVec 18) ++ wm1 ++ (0 : BitVec 2) ++ pos))
  | .bfi g d a b pos wm1 => some (.s, encS g 0x22 d a b 0 ((0 : BitVec 18) ++ wm1 ++ (0 : BitVec 2) ++ pos))
  | .adds g d a b un => some (.s, encS g 0x23 d a b (s1 un) 0)
  | .sel g d a b p => some (.s, encS g 0x24 d a b (z4 p) 0)
  | .cmp g e a b cc => some (.s, encS g 0x28 (z4 e) a b (cc5 cc) 0)
  | .cmpi g e a cc imm => some (.s, encS g 0x29 (z4 e) a 0 (cc5 cc) imm)
  | .pand g e p1 p2 => some (.s, encS g 0x2A (z4 e) (z4 p1) (z4 p2) 0 0)
  | .por g e p1 p2 => some (.s, encS g 0x2B (z4 e) (z4 p1) (z4 p2) 0 0)
  | .pxor g e p1 p2 => some (.s, encS g 0x2C (z4 e) (z4 p1) (z4 p2) 0 0)
  | .pandn g e p1 p2 => some (.s, encS g 0x2D (z4 e) (z4 p1) (z4 p2) 0 0)
  | .psetImm g e first count => some (.s, encS g 0x2E (z4 e) 0 0 0 ((0 : BitVec 15) ++ count ++ first))
  | .psetReg g e a => some (.s, encS g 0x2E (z4 e) a 0 1 0)
  | .pcnt g d p => some (.s, encS g 0x2F d (z4 p) 0 0 0)
  | .br g pop imm => some (.s, encS g 0x30 0 0 0 ((0 : BitVec 3) ++ pop) imm)
  | .brx g a pop => some (.s, encS g 0x31 0 a 0 ((0 : BitVec 3) ++ pop) 0)
  | .call g d imm => some (.s, encS g 0x32 d 0 0 0 imm)
  | .callx g d a => some (.s, encS g 0x33 d a 0 0 0)
  | .ret g a => some (.s, encS g 0x34 0 a 0 0 0)
  | .loop g a len y => some (.s, encS g 0x35 0 a 0 0 (len ++ y))
  | .loopi g count len y =>
    some (.s, encS g 0x36 (count.extractLsb' 10 5) (count.extractLsb' 5 5) (count.extractLsb' 0 5) 0 (len ++ y))
  | .loopSwp g a sm1 len y => some (.s, encS g 0x37 0 a 0 ((0 : BitVec 2) ++ sm1) (len ++ y))
  | .endt g => some (.s, encS g 0x42 0 0 0 0 0)
  | .yield g imm => some (.s, encS g 0x43 0 0 0 0 imm)
  | .mfs g d n => some (.s, encS g 0x48 d 0 0 0 ((0 : BitVec 24) ++ n))
  | .mts g a n => some (.s, encS g 0x49 0 a 0 0 ((0 : BitVec 24) ++ n))
  | .trap g code => some (.s, encS g 0x4A 0 0 0 0 ((0 : BitVec 16) ++ code))
  | .eret g => some (.s, encS g 0x4B 0 0 0 0 0)
  | .sys g code => some (.s, encS g 0x4C 0 0 0 0 ((0 : BitVec 16) ++ code))
  | .rdtr g d i => some (.s, encS g 0x4D d 0 0 0 ((0 : BitVec 29) ++ i))
  | .ctxsave g d a b => some (.s, encS g 0x4E d a (z4 b) 0 0)
  | .ctxload g d a b => some (.s, encS g 0x4F d a (z4 b) 0 0)
  | .park g a rel => some (.s, encS g 0x50 0 a 0 (s1 rel) 0)
  | .ptest g d a => some (.s, encS g 0x51 d a 0 0 0)
  | .spawnLocal g a prio lv => some (.s, encS g 0x40 0 a 0 ((0 : BitVec 1) ++ b1 lv ++ prio) 0)
  | .spawnRemote g n a b prio lv => some (.s, encS g 0x40 n a b ((1 : BitVec 1) ++ b1 lv ++ prio) 0)
  | .joinParent g n => some (.s, encS g 0x41 n 0 0 0 0)
  | .joinRecord g a => some (.s, encS g 0x41 0 a 0 1 0)
  | .twaitImm g k1 k2 k3 k4 => some (.s, encS g 0x60 0 0 0 0 (toks k1 k2 k3 k4))
  | .twaitReg g a => some (.s, encS g 0x60 0 a 0 1 0)
  | .ttestPred g e k1 k2 k3 k4 => some (.s, encS g 0x61 (z4 e) 0 0 0 (toks k1 k2 k3 k4))
  | .ttestPredReg g e a => some (.s, encS g 0x61 (z4 e) a 0 1 0)
  | .ttestScalar g d k => some (.s, encS g 0x61 d 0 0 2 ((0 : BitVec 26) ++ k))
  | .hwaitImm g loc h1 h2 h3 h4 => some (.s, encS g 0x62 0 0 0 ((0 : BitVec 3) ++ b1 loc ++ (0 : BitVec 1)) (hnds h1 h2 h3 h4))
  | .hwaitReg g loc a => some (.s, encS g 0x62 0 a 0 ((0 : BitVec 3) ++ b1 loc ++ (1 : BitVec 1)) 0)
  | .htestPred g loc e h1 h2 h3 h4 => some (.s, encS g 0x63 (z4 e) 0 0 ((0 : BitVec 2) ++ b1 loc ++ (0 : BitVec 2)) (hnds h1 h2 h3 h4))
  | .htestPredReg g loc e a => some (.s, encS g 0x63 (z4 e) a 0 ((0 : BitVec 2) ++ b1 loc ++ (1 : BitVec 2)) 0)
  | .htestScalar g d h => some (.s, encS g 0x63 d 0 0 2 ((0 : BitVec 27) ++ h))
  | .htestOff g d h => some (.s, encS g 0x63 d 0 0 3 ((0 : BitVec 27) ++ h))
  | .gbar g sc a n => some (.s, encS g 0x64 0 a 0 0 ((0 : BitVec 20) ++ sc ++ (0 : BitVec 3) ++ n))
  | .gbarArrive g sc d a n t => some (.s, encS g 0x65 d a 0 0 ((0 : BitVec 10) ++ t ++ (0 : BitVec 4) ++ sc ++ (0 : BitVec 3) ++ n))
  | .gbarWait g sc a b => some (.s, encS g 0x66 0 a b 0 ((0 : BitVec 20) ++ sc ++ (0 : BitVec 8)))
  | .nopA g => some (.a, encA g 0x00 0 0 0 0 0)
  | .ld m x => some (.a, encMem 0x01 m x)
  | .ldn m x => some (.a, encMem 0x02 m x)
  | .st m x => some (.a, encMem 0x03 m x)
  | .ldv m c => some (.a, mem 0x04 m (z4 c) 1)
  | .stv m c => some (.a, mem 0x05 m (z4 c) 1)
  | .ldg m c => some (.a, mem 0x06 m (z4 c) 1)
  | .sts m c => some (.a, mem 0x07 m (z4 c) 1)
  | .ldb m u c => some (.a, mem 0x08 m (z4 c) (bufKind u))
  | .stb m u c => some (.a, mem 0x09 m (z4 c) (bufKind u))
  | .baste m => some (.a, mem 0x0A m 0 0)
  | .aadd m d => some (.a, mem 0x10 m (z4 d) 2)
  | .amov g x b => some (.a, encA g 0x11 (dataField x).1 b (dataField x).2 0 0)
  | .ali g d imm => some (.a, encA g 0x12 (z4 d) 0 2 (imm.extractLsb' 12 20) (imm.extractLsb' 0 12))
  | .alih g d b imm => some (.a, encA g 0x13 (z4 d) b 2 (imm.extractLsb' 12 20) (imm.extractLsb' 0 12))
  | .aofs g d b c => some (.a, encA g 0x14 d b 0 ((0 : BitVec 16) ++ c) 0)
  | .sofa g d b s k z => some (.a, encA g 0x15 (z4 d) b 2 ((0 : BitVec 10) ++ b1 z ++ k ++ s) 0)
  | .amoCas f => some (.a, encAmo 0x20 f)
  | .amoSwap f => some (.a, encAmo 0x21 f)
  | .amoAdd f => some (.a, encAmo 0x22 f)
  | .amoFadd f => some (.a, encAmo 0x23 f)
  | .amoMin f => some (.a, encAmo 0x24 f)
  | .amoMax f => some (.a, encAmo 0x25 f)
  | .amoAnd f => some (.a, encAmo 0x26 f)
  | .amoOr f => some (.a, encAmo 0x27 f)
  | .amoXor f => some (.a, encAmo 0x28 f)
  | .fence g o sc =>
    some (.a, AWord.pack { g := g, op := 0x30, d := 0, b := 0, kind := 0, w := 0, ord := o.code, scope := sc, off := 0, step := 0 })
  | .waitm g b w acq sc off d cc =>
    some (.a, AWord.pack { g := g, op := 0x31, d := d, b := b, kind := 0, w := w.code, ord := (if acq then 1 else 0), scope := sc,
                           off := off, step := (0 : BitVec 8) ++ cc.code })
  | .pcfg g c n m v => some (.a, encA g 0x40 (z4 c) 0 1 ((0 : BitVec 9) ++ b1 v ++ m ++ n) 0)
  | .padv g c k => some (.a, encA g 0x41 (z4 c) 0 1 ((0 : BitVec 14) ++ k) 0)
  | .pwaitFill g c k => some (.a, encA g 0x42 (z4 c) 0 1 ((0 : BitVec 14) ++ k) 0)
  | .pwaitFree g c k => some (.a, encA g 0x42 (z4 c) 0 1 ((0 : BitVec 13) ++ (1 : BitVec 1) ++ k) 0)
  | .pquery g d c => some (.a, encA g 0x43 d c 0 0 0)
  | .agset g c b s0 => some (.a, encA g 0x44 (z4 c) b 5 s0 0)
  | .agsetDetach g c => some (.a, encA g 0x44 (z4 c) 0 1 0 0)
  | .tlbinv g b off => some (.a, encA g 0x50 0 b 0 off 0)
  | .tlbinvAll g => some (.a, encA g 0x51 0 0 0 0 0)
  | .tlbinvAsid g a => some (.a, encA g 0x52 a 0 0 0 0)
  | .vadd f => v 0x00 f | .vsub f => v 0x01 f | .vmul f => v 0x02 f | .vmulh f => v 0x03 f
  | .vmad f => v 0x04 f | .vmin f => v 0x05 f | .vmax f => v 0x06 f | .vabs f => v 0x07 f
  | .vneg f => v 0x08 f | .vand f => v 0x09 f | .vor f => v 0x0A f | .vxor f => v 0x0B f
  | .vnot f => v 0x0C f | .vshl f => v 0x0D f | .vshr f => v 0x0E f | .vsar f => v 0x0F f
  | .vclz f => v 0x10 f | .vpopc f => v 0x11 f | .vadds f => v 0x12 f | .vsubs f => v 0x13 f
  | .vfadd f => v 0x20 f | .vfsub f => v 0x21 f | .vfmul f => v 0x22 f | .vfma f => v 0x23 f
  | .vfnma f => v 0x24 f | .vfmin f => v 0x25 f | .vfmax f => v 0x26 f | .vfabs f => v 0x27 f
  | .vfneg f => v 0x28 f | .vrcp f => v 0x29 f | .vrsq f => v 0x2A f | .vsqrt f => v 0x2B f
  | .vexp2 f => v 0x2C f | .vlog2 f => v 0x2D f | .vsig f => v 0x2E f
  | .vcvt f => v 0x30 f | .vcvts f => v 0x31 f | .vqnt f => v 0x32 f | .vdqnt f => v 0x33 f
  | .vbmax f => v 0x34 f | .vscale f => v 0x35 f | .vsacc f => v 0x36 f | .vplane f => v 0x37 f
  | .vunplane f => v 0x38 f | .vcmp f => v 0x40 f | .vfcmp f => v 0x41 f | .vclass f => v 0x42 f
  | .vsel f => v 0x48 f | .vperm f => v 0x49 f | .vbcast f => v 0x4A f | .vshift f => v 0x4B f
  | .vzip f => v 0x4C f | .vunzip f => v 0x4D f | .vcompress f => v 0x4E f | .vexpand f => v 0x4F f
  | .vred f => v 0x50 f | .vfred f => v 0x51 f | .vscan f => v 0x52 f | .vfscan f => v 0x53 f
  | .vsort f => v 0x58 f | .vsegsum f => v 0x59 f | .vmov f => v 0x60 f | .vli f => v 0x61 f
  | .vext f => v 0x62 f | .vins f => v 0x63 f | .vidx f => v 0x64 f | .vxpush f => v 0x65 f
  | .nopE g => some (.e, encE 0x00 { g := g, kp := 0, ka := 0, kb := 0, kc := 0 } 0)
  | .mxcfgLoad e n b off => some (.e, encE 0x08 e (n ++ (0 : BitVec 1) ++ b ++ off))
  | .mxcfgStore e n b off => some (.e, encE 0x08 e (n ++ (1 : BitVec 1) ++ b ++ off))
  | .mxgo e n => some (.e, encE 0x09 e (n ++ (0 : BitVec 26)))
  | .mxbf e t b src s => some (.e, encE 0x0A e (t ++ b ++ b1 src ++ (0 : BitVec 1) ++ s))
  | .mxtw e t inv lm1 => some (.e, encE 0x0B e (t ++ b1 inv ++ lm1 ++ (0 : BitVec 7)))
  | .mxzero e t cm1 s => some (.e, encE 0x0C e (t ++ cm1 ++ s))
  | .mxshape e t hm1 lm1 i32 mm1 => some (.e, encE 0x0D e (t ++ hm1 ++ lm1 ++ b1 i32 ++ mm1))
  | .mxdrainC12 e t clr s => some (.e, encE 0x0E e (t ++ (0 : BitVec 1) ++ b1 clr ++ (0 : BitVec 4) ++ s))
  | .mxdrainAb e t clr b s => some (.e, encE 0x0E e (t ++ (1 : BitVec 1) ++ b1 clr ++ b ++ s))
  | .mxflag e t s => some (.e, encE 0x0F e (t ++ (0 : BitVec 6) ++ s))
  | .xcfg e hm1 w16 => some (.e, encE 0x10 e (hm1 ++ b1 w16 ++ (0 : BitVec 22)))
  | .chgo e n => some (.e, encE 0x18 e (n ++ (0 : BitVec 24)))
  | .chset e n b sp => some (.e, encE 0x19 e (n ++ b ++ sp ++ (0 : BitVec 18)))
  | .chq e n b now s => some (.e, encE 0x1A e (n ++ b ++ b1 now ++ (0 : BitVec 7) ++ s))
  | .tjoin e => some (.e, encE 0x1B e 0)
  | .put f => some (.e, encRF 0x20 f)
  | .get f => some (.e, encRF 0x21 f)
  | .acc f => some (.e, encRF 0x22 f)
  | .ramo f => some (.e, encRa 0x23 f)
  | .rcas f => some (.e, encRa 0x24 f)
  | .wfence e w mode => some (.e, encE 0x25 e (w ++ mode ++ (0 : BitVec 14)))
  | .wpost e w a => some (.e, encE 0x26 e (w ++ a ++ (0 : BitVec 11)))
  | .wstart e w a => some (.e, encE 0x27 e (w ++ a ++ (0 : BitVec 11)))
  | .wcomplete e w => some (.e, encE 0x28 e (w ++ (0 : BitVec 16)))
  | .wwait e w => some (.e, encE 0x29 e (w ++ (0 : BitVec 16)))
  | .wlock e w a ex => some (.e, encE 0x2A e (w ++ a ++ b1 ex ++ (0 : BitVec 10)))
  | .wunlock e w a => some (.e, encE 0x2B e (w ++ a ++ (0 : BitVec 11)))
  | .wexpose e w b => some (.e, encE 0x2C e (w ++ b ++ (0 : BitVec 12)))
  | .wrevoke e w => some (.e, encE 0x2D e (w ++ (0 : BitVec 16)))
  | .nmadd e b s => some (.e, encE 0x38 e (b ++ (0 : BitVec 12) ++ s))
  | .nmtopk e b s => some (.e, encE 0x39 e (b ++ (0 : BitVec 12) ++ s))
  | .nmpk e b s => some (.e, encE 0x3A e (b ++ (0 : BitVec 12) ++ s))
  | .nmbias e b => some (.e, encE 0x3B e (b ++ (0 : BitVec 24)))
  | .nmfence e => some (.e, encE 0x3C e 0)
  | .gdisp e b xm1 prio lv => some (.e, encE 0x3D e (b ++ xm1 ++ prio ++ b1 lv ++ (0 : BitVec 8)))
  | .hem e => some (.e, encE 0x40 e 0)
  | _ => none
where
  /-- A V word in its own slot. -/
  v (op : BitVec 8) (f : VF) : Option (Slot × Word) :=
    some (match f.slot with | .v0 => Slot.v0 | .v1 => Slot.v1, encV op f)

/-- The word of a slot instruction, 0 for any other step. -/
def wordOf (i : Instr) : Word := match encode i with | some (_, w) => w | none => 0
/-- The slot of a slot instruction. -/
def slotOf (i : Instr) : Option Slot := match encode i with | some (sl, _) => some sl | none => none
/-- The opcode of a slot instruction in its slot's space (04 R87). -/
def opcodeOf (i : Instr) : BitVec 8 := (wordOf i).extractLsb' 52 8

/-- `n` bytes of a number, lowest first (00 R5). -/
def bytesLE : Nat → Nat → List Byte
  | 0, _ => []
  | n + 1, v => BitVec.ofNat 8 v :: bytesLE n (v / 256)

/-- The header word of a bundle (03 R57). -/
def Bundle.header (b : Bundle) : BitVec 32 :=
  b1 b.s.isSome ++ b1 b.a.isSome ++ b1 b.v0.isSome ++ b1 b.v1.isSome ++ b1 b.e.isSome ++ b.rep ++ b1 b.hwin ++ b1 b.keep
    ++ b1 b.rstep ++ b.rsv

/-- The bytes of a bundle. -/
def Bundle.encode (b : Bundle) : List Byte :=
  bytesLE 4 b.header.toNat ++ (b.words.map (fun p => bytesLE 8 p.2.toNat)).flatten

/-- The plain bundle that holds one slot word. -/
def Bundle.single (sl : Slot) (w : Word) : Bundle :=
  { s := if sl = .s then some w else none, a := if sl = .a then some w else none, v0 := if sl = .v0 then some w else none,
    v1 := if sl = .v1 then some w else none, e := if sl = .e then some w else none, rep := 0, hwin := false, keep := false,
    rstep := false, rsv := 0 }

/-- The instruction that the decoder reads from an instruction whose bits are `w`: bit 0 is the least significant bit of the header, the first word of a bundle, and the slot words count on from it. The table gives the rows no bits, so `nbits` is taken as it comes and every bit above it is 0, up to the longest bundle of 44 bytes. -/
def decodeTableWord (nbits w : Nat) : Option Instr :=
  match decode (bytesLE 44 (w % 2 ^ nbits)) with
  | .ok (i, _) => some i
  | .error _ => none

end Sys2Proof
end

