-- ==== Sys2Proof/Machine/State.lean ====
section
/-! DEFINITION. The state of the module as plain data, the reasons a step can stop, and the state after reset. -/

namespace Sys2Proof.Machine

/-- Why the model stops. The spec gives no step that stops the module; these two say that the model was asked for a step that no core can make. -/
inductive Fault where
  /-- Raised by a slot instruction or a bundle when no Context of the current core is in state RUN: no core issues it (05 R105). Safe. -/
  | noRunningContext
  /-- Raised by a slot instruction or a bundle when `cur` is not the number of one of the 48 clusters (01 R17). Safe. -/
  | noSuchCluster
  deriving DecidableEq, Repr

/-- Why the model gives no meaning. -/
inductive Refusal where
  /-- Raised by the arms of `exec` that have no meaning yet. Safe. -/
  | notModelled (mnemonic : String)
  deriving DecidableEq, Repr

/-! The Context (05). -/

/-- The states of a Context (05 R102), codes 0 to 7. -/
inductive CState where
  | free | ready | run | blocked | fault | yield | parked | double
  deriving DecidableEq, Repr

/-- The blocking causes (05 R103), codes 1 to 8. -/
inductive Cause where
  | engine | portEmpty | portFull | token | handle | barrier | window | memory
  deriving DecidableEq, Repr

/-- The engines that hold command queues and issue logs (04 R100, 21 R424), trap-record codes 1 to 7. -/
inductive Engine where
  | matrix | pleat | channel | network | stack | queue | barrier
  deriving DecidableEq, Repr

/-- Where a poisoned or awaited value comes from (21 R425). -/
structure Origin where
  pc : Word
  iter : Nat
  opcode : BitVec 8
  handle : Nat
  addr : Word
  deriving DecidableEq, Repr

/-- What a result in flight writes when it lands (03 R60). -/
inductive Dest where
  /-- An s-register. -/
  | s (r : SReg)
  /-- An a-register. -/
  | a (r : Reg4)
  /-- One predicate. -/
  | p (r : Reg4)
  /-- The enabled lanes of a predicate pair: the mask to the even member, its complement to the odd (06 R137, 07 R162). -/
  | pair (e : Reg4) (lanes : Mask)
  /-- The enabled lanes of a physical vector: 0-63 rotating, 64-111 named, 112-127 queue entries. -/
  | vec (i : Nat) (lanes : Mask)
  /-- Entry `id` of Port `c`. -/
  | port (c id : Nat)
  deriving DecidableEq, Repr

/-- What counts a result in flight down: clk (04 R97); the core's ic and the clk with no Context in RUN (03 R60); or the core's ic alone (03 R76, 06 R126). -/
inductive Pace where
  /-- Waiting for a held atomic (16 R333): nothing counts it down. -/
  | held
  | ic | clk | issue
  deriving DecidableEq, Repr

/-- A result in flight. It lands when `remain` is 0. -/
structure Flight where
  dest : Dest
  data : Vec
  poison : Option Origin
  pace : Pace
  remain : Nat
  /-- The result is load data, whose wait counts in IDLE_LOAD and for fences. -/
  load : Bool
  /-- The clk that have passed since it fell due: results that fall due within one passage of several clk land in the order of their due times (06 R127). -/
  late : Nat := 0
  deriving DecidableEq, Repr

/-- One level of the loop unit (05 R111). -/
structure Level where
  count : Nat
  start : Word
  stop : Word
  yield : Word
  swp : Bool
  deriving DecidableEq, Repr

/-- The sticky state of a slot: the word and the number of its next issue (03 R62, R64). -/
structure Sticky where
  word : Word
  n : BitVec 32
  deriving DecidableEq, Repr

/-- Sticky state of A, V0, V1 and E. -/
structure StickySet where
  a : Option Sticky
  v0 : Option Sticky
  v1 : Option Sticky
  e : Option Sticky
  deriving DecidableEq, Repr

def StickySet.none : StickySet := { a := .none, v0 := .none, v1 := .none, e := .none }

/-- An entry of a Port (08 R175): pending until its data arrives. -/
structure PEntry where
  id : Nat
  ready : Bool
  poison : Bool
  /-- Pending on a vector result (08 R179). -/
  fromV : Bool
  data : Vec
  deriving DecidableEq, Repr

/-- A loaded address generator (08 R185): the three registers and s0 as loaded, the clk from which it requests, the rows requested, the rows that pops and `padv` have taken. -/
structure Gen where
  active : Bool
  start : Word
  counts : Word
  strides : Word
  s0 : BitVec 32
  since : Nat
  asked : Nat
  taken : Nat
  deriving DecidableEq, Repr

def Gen.off : Gen := { active := false, start := 0, counts := 0, strides := 0, s0 := 0, since := 0, asked := 0, taken := 0 }

/-- A configurable Port (08 R174-R176), or the entries of c12 or c13. -/
structure Port where
  on : Bool
  depth : Nat
  idx : Nat
  idxv : Bool
  entries : List PEntry
  nextId : Nat
  gen : Gen
  deriving DecidableEq, Repr

def Port.off : Port := { on := false, depth := 0, idx := 0, idxv := false, entries := [], nextId := 0, gen := Gen.off }

/-- A tile on its way through the transpose engine: clk and ic still to pass, and its 32 entries (09 R235, R236). -/
structure PleatTile where
  remain : Nat
  rows : List Vec
  deriving DecidableEq, Repr

/-- The transpose engine's part of a Context (09 R234): configuration, rows pushed so far, tiles in flight. -/
structure Pleat where
  on : Bool
  h : Nat
  w16 : Bool
  filling : List Vec
  tiles : List PleatTile
  deriving DecidableEq, Repr

def Pleat.off : Pleat := { on := false, h := 32, w16 := false, filling := [], tiles := [] }

/-- States of a Token (11 R252). -/
inductive TState where
  | free | pending | done | error
  deriving DecidableEq, Repr

/-- A Token k1-k63 (11 R252). -/
structure Token where
  st : TState
  count : Nat
  /-- Commands produced into it since task start. -/
  seq : Nat
  stopped : Bool
  inherited : Bool
  errSeen : Bool
  code : BitVec 16
  /-- Unfinished commands of the current generation. -/
  cmds : List Nat
  deriving DecidableEq, Repr

def Token.free : Token :=
  { st := .free, count := 0, seq := 0, stopped := false, inherited := false, errSeen := false, code := 0, cmds := [] }

/-- States of a Handle (17 R361). -/
inductive HState where
  | free | issued | localDone | remoteDone | error
  deriving DecidableEq, Repr

/-- A Handle h1-h31 (17 R361, R364). -/
structure Handle where
  st : HState
  /-- Operations not locally done, and operations not finished. -/
  localLeft : Nat
  left : Nat
  code : BitVec 16
  ecount : BitVec 32
  foff : Word
  ops : Nat
  /-- Some operation of the generation has failed. -/
  errs : Bool
  /-- An acquiring operation of the generation, while the Handle has still to reach LOCAL_DONE or an end (16 R336). -/
  acq : Bool := false
  deriving DecidableEq, Repr

def Handle.free : Handle :=
  { st := .free, localLeft := 0, left := 0, code := 0, ecount := 0, foff := 0, ops := 0, errs := false }

/-- What a precise trap or a delivered error puts into the trap record (21 R424). -/
structure Trap where
  code : BitVec 16
  slot : Nat
  iter : Nat
  src : Nat
  engine : Nat
  token : Nat
  handle : Nat
  arg : BitVec 16
  origPc : Word
  origIter : Nat
  opcode : BitVec 8
  esw : Word
  addr : Word
  step : Nat
  deriving DecidableEq, Repr

/-- What trap entry saves beside EPC and ESTAT (05 R120). -/
structure Saved where
  sticky : StickySet
  loops : List Level
  bcount : Word
  qpos : Nat
  /-- The trapping bundle's address, and whether it was reached by a transfer (05 R111). -/
  pc : Word
  xferred : Bool
  /-- The precise trap of the issue before which the delivered error was taken (21 R427). -/
  trap : Option Trap := none
  deriving DecidableEq, Repr

/-- A Context: its state (05 R102-R105), its registers (05 R107-R109, 06 R125, 08 R189), its Ports, Tokens and Handles, and what is in flight. -/
structure Context where
  st : CState
  h : Bool
  cause : Option Cause
  /-- The engine whose queue or log a cause-1 block waits for; network stands for a Handle as well (15 R324). -/
  causeEng : Engine
  parkReq : Bool
  /-- Parked out of FAULT (19 R399). -/
  inFault : Bool
  /-- Holds a task. -/
  live : Bool
  release : Nat
  freeAt : Nat
  /-- No issue before this clk count (05 R106). -/
  notBefore : Nat
  pc : Word
  rot : BitVec 6
  mode : Bool
  feed : BitVec 32
  lvl : List (BitVec 24)
  tail : Bool
  seed : Word
  srcount : Word
  lsig : Bool
  herr : Bool
  terr : Bool
  bcount : Word
  idle : List Word
  stopf : Bool
  splim : Word
  epc : Word
  estat : Word
  tscr : Word
  prec : BitVec 56
  ppeer : BitVec 13
  oprio : BitVec 3
  s : SMap Word
  a : SMap Word
  p : SMap Mask
  sBad : SMap Origin
  aBad : SMap Origin
  pBad : SMap Origin
  /-- s-registers that await a remote return: the command (17 R360). -/
  sWait : SMap Nat
  v : SMap Vec
  /-- Physical vectors that hold data with an uncorrectable error (21 R429). -/
  vBad : SMap Bool := []
  qpos : Nat
  flights : List Flight
  loops : List Level
  sticky : StickySet
  iter : Nat
  skipS : Bool
  /-- The continuation record of a task in YIELD (05 R115). -/
  cont : Option (BitVec 512)
  /-- The clk counts at which the last acquiring load, and the last access that returns data, have delivered (16 R330, R337). -/
  acqAt : Nat
  loadAt : Nat
  /-- The commands that the blocked issue waits for (15 R324); for cause Port empty, the Ports whose vector results it waits for (08 R179). -/
  awaits : List Nat
  saved : Option Saved
  trec : List Word
  rseq : BitVec 32
  /-- Delivered errors waiting for an issue boundary with H = 0 (11 R256). -/
  errors : List Trap
  /-- A fault that firmware delivered to this Context (05 R104). -/
  trapPending : Option Trap
  /-- The issue numbers of recent predicate writes, of the latest transfer or switch-in, and of the latest change of stage mode (03 R77). -/
  predWrites : List (Nat × Nat)
  lastXfer : Option Int
  lastStage : Option Int
  /-- The bundle at the PC was reached by a transfer (05 R111). -/
  xferred : Bool
  /-- The clk of a `park` release or a resumption after which it is still to be found whether the blocking cause is held (05 R104). -/
  unparked : Option Nat
  ports : SMap Port
  drain : List PEntry
  pleat : Pleat
  toks : SMap Token
  hnds : SMap Handle
  /-- Pairwise access epochs open at this Context: window, peer (17 R354). -/
  starts : List (Nat × Nat)
  /-- Passive locks held: window, peer (17 R355). -/
  locks : List (Nat × Nat)
  /-- Group barrier tickets by Handle, each with the PC of its `gbar` (15 R323). -/
  tickets : SMap (Word × Word)
  /-- Epoch commands of blocked issues (17 R352): PC, iteration, command, whether it has completed. -/
  epochs : List (Word × Nat × Nat × Bool)
  /-- The task is a leaf task of its Kernel: it started from a record of the placement, or continues such a task (13 R292, assumption 84). -/
  leaf : Bool := false
  deriving DecidableEq, Repr

/-- A Context after device reset (05 R107). Registers without a reset value hold 0 (assumption 1). -/
def Context.reset : Context :=
  { st := .free, h := false, cause := none, causeEng := .matrix, parkReq := false, inFault := false, live := false, release := 0,
    freeAt := 0, notBefore := 0, pc := 0, rot := 0, mode := false, feed := 0, lvl := List.replicate 8 0, tail := false, seed := 0,
    srcount := 0, lsig := false, herr := false, terr := false, bcount := 0, idle := List.replicate 11 0, stopf := false, splim := 0,
    epc := 0, estat := 0, tscr := 0, prec := 0, ppeer := 0, oprio := 0, s := [], a := [], p := [], sBad := [], aBad := [],
    pBad := [], sWait := [], v := [], qpos := 0, flights := [], loops := [], sticky := StickySet.none, iter := 0, skipS := false, cont := none, acqAt := 0, loadAt := 0,
    awaits := [], saved := none, trec := List.replicate 8 0, rseq := 0, errors := [], trapPending := none, predWrites := [], lastXfer := none,
    lastStage := none, xferred := false, unparked := none, ports := [], drain := [], pleat := Pleat.off, toks := [], hnds := [], starts := [], locks := [],
    tickets := [], epochs := [] }

/-! Packets (20 R405). -/

/-- A packet of the on-package network or the fabric: the header fields of 20 R405 above the link, and the payload bytes. -/
structure Packet where
  kind : BitVec 8
  ordered : Bool
  rpl : Bool
  pois : Bool
  sdev : Nat
  scl : Nat
  ddev : Nat
  dcl : Nat
  hop : Nat
  via : Nat
  ph : Bool
  rtag : Nat
  win : Nat
  wid : BitVec 12
  oseq : BitVec 16
  off : Nat
  elems : Nat
  arg : BitVec 32
  payload : List Byte
  /-- The collective tag (17 R353), which the header map does not place. -/
  tag : BitVec 8
  /-- A GETREQ of an acquiring read (16 R334) or a LOCK that asks for an exclusive lock (17 R355), likewise (assumption 18). -/
  acq : Bool
  /-- The Selvedge table has admitted it and it waits to be performed (17 R350). -/
  adm : Bool
  /-- How many of its elements have been performed while it stands admitted, and whether one of them read marked data: each element is single-copy atomic, not the packet (17 R358). -/
  part : Nat := 0
  bad : Bool := false
  /-- The model's own number of a request at its origin: it tells apart two requests that use one request place in turn (20 R418). -/
  no : Nat := 0
  deriving DecidableEq, Repr

/-- A packet that a fabric port carries, with its link fields (20 R405, R408). -/
structure LinkPacket where
  seq : BitVec 16
  pkt : Packet
  deriving DecidableEq, Repr

/-- What the module shows to the outside, oldest first (the model's own record of outputs). -/
inductive Output where
  /-- A data packet on the lanes of a fabric port. -/
  | link (port : Nat) (ackn : BitVec 16) (p : LinkPacket)
  /-- A control packet: ACKN and NAK. -/
  | ack (port : Nat) (ackn : BitVec 16) (nak : Bool)
  /-- The module's own number, to the neighbour at a port (20 R410). -/
  | linkid (port : Nat) (dev : Nat)
  /-- The host's RDMA READ data, or the acknowledgement of a write. -/
  | hostData (bytes : List Byte) (poison : Bool)
  | hostAck
  /-- A sequence NAK: queue pair and the number expected (20 R422). -/
  | hostNak (qp psn : Nat)
  /-- The other NAKs of RoCEv2 (20 R419): a remote access error (20 R420), an invalid request, a receiver that is not ready; or a dropped packet (20 R422). -/
  | hostError
  | hostInvalid
  | hostRnr
  | hostDrop
  /-- The answer to a mailbox SEND (22 R437). -/
  | report (bytes : List Byte)
  /-- The poisoned response to a die controller (01 R19), or its data. -/
  | dieData (bytes : List Byte) (poison : Bool)
  deriving DecidableEq, Repr

/-! Engine commands (04 R100). -/

/-- A remote operation's own part (17 R358-R362). -/
structure Remote where
  hnd : Nat
  /-- The peer entry once translated: device, cluster, WID. -/
  peer : Option (Nat × Nat × BitVec 12)
  peerIdx : Nat
  win : Nat
  off : Nat
  /-- Bytes to move, or 0 for a single packet. -/
  len : Nat
  localVa : Word
  /-- Bytes already sent, packets outstanding, packets failed. -/
  sent : Nat
  out : Nat
  failed : Nat
  /-- The s-register that awaits the return, if any. -/
  dest : Option SReg
  allSent : Bool
  locDone : Bool
  done : Bool
  deriving DecidableEq, Repr

/-- An engine command from its issue to its finish; its issue-log entry is its pc, iter, instr and tok (21 R426). -/
structure Cmd where
  id : Nat
  ctx : Nat
  eng : Engine
  instr : Instr
  /-- The issue number of its word (03 R62), and the operand values read at issue (09 R228). -/
  n : BitVec 32
  regs : List Word
  tok : Nat
  pc : Word
  iter : Nat
  /-- Captured commands that have not finished (11 R254). -/
  waits : List Nat
  /-- Code of a captured command that ended in error (11 R255). -/
  inh : Option (BitVec 16)
  /-- Holds a place in its engine's queue (04 R100), and an entry of its issue log (21 R426). -/
  queued : Bool
  logged : Bool
  started : Bool
  /-- Progress: step, row, query, expert or phase, as its engine's chapter counts it. -/
  pos : Nat
  phase : Nat
  data : List Word
  /-- The command waits on a translation fault; a code that firmware delivered for it (19 R399). -/
  fault : Bool
  delivered : Option (BitVec 16)
  /-- A clk count before which the command does not go on. -/
  notBefore : Nat
  remote : Option Remote
  /-- The descriptor of a stack-engine command was read with an uncorrectable error (18 R375). -/
  bad : Bool := false
  /-- The arrival of a `gbar` that its Context has left by a redirected `eret`: no later `gbar` waits on its ticket (15 R323). -/
  left : Bool := false
  deriving DecidableEq, Repr

/-- A request packet that its origin keeps until its reply arrives (20 R418), with the clk of a scheduled resend. -/
structure Place where
  cmd : Nat
  pkt : Packet
  retry : Option Nat
  /-- A port of this module resends the packet and its receiver has not yet acknowledged it (15 R324). -/
  again : Bool := false
  deriving DecidableEq, Repr

/-! The matrix engine (09). -/

/-- An accumulator tile (09 R205); element (r, c) stands at bit 32(64r + c). -/
structure Tile where
  data : BitVec 65536
  i32 : Bool
  rows : Nat
  cols : Nat
  live : Bool
  flag : BitVec 2048
  reshaped : Bool
  poison : Bool
  drop : Nat
  /-- The 64-byte segments that an uncorrectable error has struck (21 R463). -/
  marks : BitVec 128 := 0
  deriving DecidableEq, Repr

def Tile.reset : Tile :=
  { data := 0, i32 := false, rows := 32, cols := 64, live := false, flag := 0, reshaped := false, poison := false, drop := 0 }

/-- States of a Nest table (09 R213). -/
inductive NestState where
  | empty | ready | running | stopped | invalid
  deriving DecidableEq, Repr

/-- States of a shadow copy (09 R210). -/
inductive ShadowState where
  | none | valid | bad
  deriving DecidableEq, Repr

/-- A Nest table (09 R210): two images of 256 bytes, the shadow's state with the CAUSE of a bad load, the table's state and STEP. -/
structure Nest where
  active : BitVec 2048
  shadow : BitVec 2048
  sv : ShadowState
  cause : Nat
  st : NestState
  step : Nat
  deriving DecidableEq, Repr

def Nest.reset : Nest := { active := 0, shadow := 0, sv := .none, cause := 0, st := .empty, step := 0 }

/-! Copy channels (11). -/

inductive ChState where
  | idle | walk | firmware
  deriving DecidableEq, Repr

/-- A copy channel (11 R262, R263) and the walk in progress: its command, the record read, the next row, whether no row has been copied yet, the records completed. -/
structure Channel where
  head : Word
  rbase : Word
  rlim : Word
  wmark : Word
  recs : Word
  st : ChState
  space : BitVec 2
  last : BitVec 2
  ctx : Nat
  cmd : Option Nat
  rcd : Option (BitVec 512)
  row : Nat
  first : Bool
  done : Nat
  /-- The row given in POS by a fault in the record's own read (11 R270). -/
  pos : Option Nat := none
  deriving DecidableEq, Repr

def Channel.reset : Channel :=
  { head := 0, rbase := 0, rlim := 0, wmark := 0, recs := 0, st := .idle, space := 0, last := 0, ctx := 0, cmd := none, rcd := none,
    row := 0, first := true, done := 0 }

/-! The Queue (12). -/

/-- One level: the records on chip, and the first slot and length of the part in the spill ring (12 R279). -/
structure QLevel where
  chip : List (BitVec 512)
  first : Nat
  len : Nat
  /-- Of each record of the level, oldest first, whether it is a leaf task's (13 R292). -/
  leafs : List Bool := []
  deriving DecidableEq, Repr

def QLevel.empty : QLevel := { chip := [], first := 0, len := 0 }

/-- Where a push comes from, in the order of 12 R281. -/
inductive PushSrc where
  /-- A local spawn. -/
  | spawn
  /-- A `gdisp` command. -/
  | gdisp (cmd : Nat)
  | join
  /-- A remote record; the reply to send once it is appended. -/
  | arrival (reply : Packet)
  /-- The join of a remote packet; likewise. -/
  | joinReply (reply : Packet)
  | controller
  deriving DecidableEq, Repr

/-- A record on its way into a level. -/
structure Push where
  src : PushSrc
  rcd : BitVec 512
  /-- The first clk whose push step can take it; none while its issue is not complete (12 R281, R284). -/
  since : Option Nat := none
  /-- The record is a leaf task's (13 R292). -/
  leaf : Bool := false
  deriving DecidableEq, Repr

/-- A local join on its way to the L2 slice (12 R285): its Context, the record's virtual and physical address, and the number of the cluster's next command at its issue, which places it among held writes. -/
structure Join where
  ctx : Nat
  va : Word
  pa : Nat
  seq : Nat
  deriving DecidableEq, Repr

/-! Windows (17). -/

inductive EpState where
  | closed | gather | opened | closing
  deriving DecidableEq, Repr

/-- A holder of or a waiter for a passive lock (17 R355). -/
structure LockReq where
  dev : Nat
  cl : Nat
  ctx : Nat
  ex : Bool
  reply : Packet
  deriving DecidableEq, Repr

/-- An entry of the Selvedge table (17 R350): the descriptor and the epoch state of its kind. -/
structure Sel where
  win : Nat
  desc : BitVec 512
  ep : EpState
  fgen : BitVec 8
  /-- Origins (device, cluster) of the markers counted for this round and held for the next. -/
  marks : List (Nat × Nat)
  nextMarks : List (Nat × Nat)
  held : List Packet
  /-- The local `wfence` of the round in progress. -/
  fence : Option Nat
  /-- Posted peers that have not sent their complete notice. -/
  posted : List (Nat × Nat)
  holders : List LockReq
  waiters : List LockReq
  deriving DecidableEq, Repr

/-! Translation (19). -/

/-- A TLB entry (19 R395): ASID, virtual base, log2 of its size, the leaf. -/
structure TlbEntry where
  asid : BitVec 16
  base : Nat
  bits : Nat
  leaf : Word
  deriving DecidableEq, Repr

/-- Who waits on a translation fault (19 R397). -/
inductive Waiter where
  | ctx (c : Nat)
  | cmd (id : Nat)
  | chan (n : Nat)
  | push (level : Nat)
  deriving DecidableEq, Repr

/-- A translation fault: its ring entry's words, its ID once the entry is written, the waiter, and firmware's answer to a parked Context (none, replay, or deliver). -/
structure PFault where
  id : Option (BitVec 16)
  waiter : Waiter
  va : Word
  info : Word
  pc : Word
  pos : Word
  answer : Option (Option (BitVec 16))
  deriving DecidableEq, Repr

/-- A host write in an ingress buffer or in the staging buffer: physical address, the bytes that have arrived, and the order of the last of them (16 R342). -/
structure Ingress where
  seq : Nat
  pa : Nat
  bytes : List Byte
  /-- Its message, the bytes that the write has when it is whole, whether it is; in the staging buffer its queue pair and the sequence numbers of its packets (20 R422). -/
  msg : Nat := 0
  len : Nat := 0
  last : Bool := true
  qp : Nat := 0
  psns : List Nat := []
  deriving DecidableEq, Repr

/-- An RDMA WRITE message in progress on a queue pair: aperture, the slice address of the next byte, the bytes to come, its number, and whether its packets are applied one by one (assumption 70). -/
structure HostMsg where
  k : Nat
  pa : Nat
  left : Nat
  id : Nat
  each : Bool
  deriving DecidableEq, Repr

/-- A Reliable Connected queue pair (20 R419, R422): whether it is connected, the sequence number of its next request, modulo 2^24, and the write in progress. -/
structure QPair where
  on : Bool
  psn : Nat
  msg : Option HostMsg
  /-- The write packets taken and not yet acknowledged, oldest first: the number, and whether the packet has left the staging buffer. -/
  held : List (Nat × Bool) := []
  deriving DecidableEq, Repr

def QPair.reset : QPair := { on := false, psn := 0, msg := none }

/-- A release set (16 R333): the releasing Context, the tagging line and the lines, as line numbers. -/
structure RelSet where
  ctx : Nat
  tag : Nat
  lines : List Nat
  deriving DecidableEq, Repr

/-- A write with release that waits for earlier remote operations (16 R333): Context, addresses, the bytes of a store or the operands of an atomic, whether it is performed at the L2 slice, its scope, the operations awaited. -/
structure HeldWrite where
  ctx : Nat
  va : Word
  pa : Nat
  len : Nat
  bytes : List (Nat × Byte)
  rmw : Option (Instr × Word × Word × SReg)
  l2 : Bool
  scope : BitVec 4
  ops : List Nat
  /-- The number of the cluster's next command at its issue: commands with lower numbers precede it in program order. -/
  seq : Nat
  /-- A plain store that has not entered the L1D yet: the clk in which it does (16 R326, R329). -/
  late : Option Nat := none
  deriving DecidableEq, Repr

/-- A cluster. -/
structure Cluster where
  ctx : SMap Context
  clk : Nat
  ic : Nat
  /-- The clk counts at which the main clock left a step, oldest first, each with the length of a clk before it, in parts of 1/126,000 µs (22 R438). -/
  steps : List (Nat × Nat) := []
  /-- Overhead clk still owed before the next switch-in (05 R105). -/
  gap : Nat
  mem : List Host.Cell
  dirty : SMap Byte
  /-- The lines that the L1D and the L2 slice hold, newest first (01 R29, 08 R174). -/
  l1 : List Nat
  /-- With each line of the L2 slice, whether HBM has still to take it. -/
  l2 : SMap Bool
  /-- The compression state of a 256-byte block in HBM: 0 raw, 1 2:1, 2 4:1, 3 all zero (19 R401). -/
  blocks : SMap Nat
  poison : SMap Bool
  /-- The marks of the L1D's own sectors (21 R429, R463). -/
  l1Bad : SMap Bool
  /-- The sectors that the L1D holds dirty and that one write has covered whole since: their write-back clears the slice's mark (21 R463). -/
  l1Whole : SMap Bool := []
  relSets : List RelSet
  heldWrites : List HeldWrite
  wb : SMap Byte
  ab : SMap Byte
  wbPoison : SMap Bool
  abPoison : SMap Bool
  tiles : SMap Tile
  nests : SMap Nest
  chans : SMap Channel
  levels : SMap QLevel
  /-- The clk whose work the Queue unit does next, and its part: 0 refill, 1 pops, 2 ageing, 3 pushes (12 R279, R281). -/
  qclk : Nat
  qphase : Nat
  pushes : List Push
  /-- Local joins whose decrement has not been performed (12 R285). -/
  joins : List Join
  cmds : List Cmd
  nextCmd : Nat
  /-- The number of the next request packet (the model's own, 20 R418). -/
  nextReq : Nat := 0
  places : SMap Place
  sel : List Sel
  /-- The windows revoked here and not exposed since (17 R356). -/
  revoked : List Nat := []
  /-- Post notices not yet consumed: window, device, cluster (17 R354). -/
  notices : List (Nat × Nat × Nat)
  inbox : List Packet
  tlb1 : List TlbEntry
  tlb2 : List TlbEntry
  ptrs : SMap Word
  faults : List PFault
  acNotices : List (Nat × Nat)
  ingress : List Ingress
  latch : Word
  latchFlights : List (Nat × Nat × Word × BitVec 8)
  /-- The AB read path (08 R183): the Port of a Context served last, as 16·Context + Port; the next clk to be given to a generator; the clk of the last `ldb` of AB. -/
  agLast : Nat
  agClk : Nat
  agBusy : Option Nat
  hemcfgRound : Word
  tvec : Word
  trecBase : Word
  lmax : Word
  smax : Word
  asid : Word
  ptbase : Word
  frbase : Word
  frWr : BitVec 32
  frRd : BitVec 32
  basteDrop : Word
  acbase : Word
  acthr : Word
  agelo : Word
  agehi : Word
  qrbase : Word
  qrsize : Word
  ordbase : Word
  winbase : Word
  peerbase : Word
  hemcfg : Word
  /-- The registers whose Reset column shows a dash that firmware has written since reset (00 R9, 22 R432). -/
  dashed : List Nat := []
  device : BitVec 11
  /-- The Kernel whose tasks run here (13 R294). -/
  kernel : Option Nat
  deriving DecidableEq, Repr

/-- A cluster after device reset. Dash registers hold 0 until firmware writes them (assumption 2). The round of generators begins as if Port c0 of Context 0 had been served last (assumption 76). -/
def Cluster.reset : Cluster :=
  { ctx := [], clk := 0, ic := 0, gap := 0, mem := [], dirty := [], l1 := [], l2 := [], blocks := [], poison := [], l1Bad := [], relSets := [], heldWrites := [], wb := [], ab := [],
    wbPoison := [], abPoison := [], tiles := [], nests := [], chans := [], levels := [], qclk := 0, qphase := 0, pushes := [], joins := [], cmds := [], nextCmd := 0,
    places := [], sel := [], notices := [], inbox := [], tlb1 := [], tlb2 := [], ptrs := [], faults := [], acNotices := [],
    ingress := [], latch := 0x7F7F7F7F7F7F7F7F, latchFlights := [], agLast := 0, agClk := 0, agBusy := none, hemcfgRound := 0, tvec := 0, trecBase := 0, lmax := 0,
    smax := 0, asid := 0, ptbase := 0, frbase := 0, frWr := 0, frRd := 0, basteDrop := 0, acbase := 0, acthr := 0, agelo := 0,
    agehi := 0, qrbase := 0, qrsize := 0, ordbase := 0, winbase := 0, peerbase := 0, hemcfg := 0, device := 0, kernel := none }

/-! Stack engines, die controllers, ports, Kernels. -/

/-- A stack engine (18 R376): two banks of 4,096 FP32 entries with their poison marks, and which of its four clusters, 0 to 3, it served last. -/
structure StackEngine where
  bank0 : SMap (BitVec 32)
  bank1 : SMap (BitVec 32)
  bad0 : SMap Bool
  bad1 : SMap Bool
  active : Bool
  version : BitVec 32
  readers0 : Nat
  readers1 : Nat
  last : Nat
  deriving DecidableEq, Repr

/-- A stack engine after device reset; it serves its lowest cluster first. -/
def StackEngine.reset : StackEngine :=
  { bank0 := [], bank1 := [], bad0 := [], bad1 := [], active := false, version := 0, readers0 := 0, readers1 := 0, last := 3 }

/-- An error-queue record (21 R428): four words. -/
structure ErrRec where
  w0 : Word
  addr : Word
  info : Word
  time : Nat
  deriving DecidableEq, Repr

/-- A die controller's error queue and corrected-error counters (21 R428, R430). Counters 0-11 are its clusters, 12-14 its stacks. -/
structure Die where
  /-- Where the ring stands in controller memory, as firmware has set it (21 R428). -/
  base : Word := 0
  errq : SMap ErrRec
  wr : Nat
  rd : Nat
  ovf : Nat
  counts : SMap (BitVec 32)
  thresholds : SMap (BitVec 32)
  disarmed : SMap Bool
  /-- Management messages received and not yet read by firmware. -/
  mgmt : List (List Byte)
  deriving DecidableEq, Repr

def Die.reset : Die :=
  { errq := [], wr := 0, rd := 0, ovf := 0, counts := [], thresholds := [], disarmed := [], mgmt := [] }

inductive PortState where
  | down | train | up | failed
  deriving DecidableEq, Repr

/-- A fabric port (20 R408-R411). -/
structure FPort where
  st : PortState
  nbr : BitVec 11
  crcerr : BitVec 16
  naks : BitVec 16
  room : BitVec 16
  seq : BitVec 16
  exp : BitVec 16
  replay : List LinkPacket
  /-- Packets that wait for room in the replay buffer or for the port to come up. -/
  waiting : List Packet
  /-- Received packets that have not left the device: class and packet (20 R411). -/
  input : List (Nat × Packet)
  nakTime : Option Nat
  unacked : Nat
  unackedSince : Nat
  ackTime : Nat
  rounds : Nat
  lastAck : BitVec 16
  time : Nat
  deriving DecidableEq, Repr

def FPort.reset : FPort :=
  { st := .down, nbr := 0, crcerr := 0, naks := 0, room := 0, seq := 0, exp := 0, replay := [], waiting := [], input := [],
    nakTime := none, unacked := 0, unackedSince := 0, ackTime := 0, rounds := 0, lastAck := 0, time := 0 }

inductive KState where
  | free | submitted | running | stopping | parked | done | faulted
  deriving DecidableEq, Repr

/-- A kernel-table entry (13 R291-R293): the bytes the host wrote, the record as read at KSUBMIT, KSTAT, and the placement left. -/
structure KEntry where
  table : BitVec 2048
  rcd : BitVec 2048
  st : KState
  held : Bool
  badf : BitVec 8
  code : BitVec 16
  ended : BitVec 32
  clusters : List Nat
  heldClusters : List Nat
  /-- Records still to place: cluster, record. -/
  place : List (Nat × BitVec 512)
  /-- Parked Contexts with a saved image: cluster, Context. -/
  saved : List (Nat × Nat)
  /-- The host-write order at KSUBMIT (13 R294). -/
  seq : Nat
  /-- The stop was given at these clk counts: cluster, clk. -/
  stopAt : List (Nat × Nat)
  /-- Records taken from the Queues of a stopped Kernel, in order: cluster, level, record, whether it is a leaf task's (13 R297). -/
  drained : List (Nat × Nat × BitVec 512 × Bool) := []
  /-- Which records of each cluster's save area are leaf tasks', in its order. -/
  leafs : List (Nat × List Bool) := []
  /-- Clusters of a resumed Kernel whose images are not yet loaded (13 R300). -/
  loading : List Nat := []
  /-- A KCTL resume that waits for the Kernel's clusters. -/
  wanted : Bool := false
  deriving DecidableEq, Repr

def KEntry.reset : KEntry :=
  { table := 0, rcd := 0, st := .free, held := false, badf := 0, code := 0, ended := 0, clusters := [], heldClusters := [], place := [],
    saved := [], seq := 0, stopAt := [] }

/-- Arguments of a machine event: cluster, Context, two further numbers, words, bytes and a packet, as each event's docstring reads them. -/
structure Arg where
  k : Nat
  c : Nat
  i : Nat
  j : Nat
  w : Word
  v : Word
  flag : Bool
  bytes : List Byte
  deriving DecidableEq, Repr

def Arg.zero : Arg := { k := 0, c := 0, i := 0, j := 0, w := 0, v := 0, flag := false, bytes := [] }

/-- What moves next (assumption 5): the core of a cluster takes its turn, or an event happens. -/
inductive Agendum where
  | turn (k : Nat)
  | event (i : Instr) (a : Arg)
  deriving DecidableEq, Repr

/-- The module. -/
structure State where
  clusters : SMap Cluster
  engines : SMap StackEngine
  dies : SMap Die
  ports : SMap FPort
  routes : SMap (BitVec 128)
  kernels : SMap KEntry
  apertures : SMap (BitVec 40 × BitVec 34)
  hgen : BitVec 32
  /-- The clk of each cluster when the last Hem round ended: until one has passed, the next round has not begun (15 R316). -/
  hemAt : List Nat
  mstat : Word
  watts : BitVec 12
  pstep : BitVec 2
  power : BitVec 12
  tdie : BitVec 8
  thbm : BitVec 8
  /-- Bits [45:28] of the telemetry block: STAGE, CAUSE, FSVN and SVN as last renewed (22 R440). -/
  tstat : BitVec 18 := 0
  stage : BitVec 2
  failCause : BitVec 4
  fsvn : BitVec 6
  svn : BitVec 6
  meas0 : BitVec 384
  meas1 : BitVec 384
  meas2 : BitVec 384
  staging : SMap Byte
  /-- The boot ROM is verifying the staged image (22 R435). -/
  verifying : Bool := false
  flash : List Byte
  mailbox : List (List Byte)
  hss : Nat
  stagingBuf : List (Nat × Ingress)
  hostSeq : Nat
  /-- The boot ROM has brought up the host port (22 R432). -/
  hostUp : Bool := false
  /-- The host port's queue pairs, and the keys of the memory regions (20 R419, R420). -/
  qps : SMap QPair
  keys : SMap (BitVec 32)
  tripped : Bool
  /-- Packets of this module whose target's route is not VALID: hardware never gives one up (20 R418). -/
  stranded : List Packet := []
  outbox : List Output
  /-- The Contexts that `ctxsave` and stops have written out: an image that reads as one of theirs holds that Context (05 R124, assumption 13). -/
  images : List Context
  agenda : List Agendum
  arg : Arg
  cur : Nat
  free : Nat
  lags : List Nat
  /-- For each plain store to come, the clk that it takes to enter the L1D; 0 where the list is empty (16 R329, assumption 88). -/
  storeLags : List Nat := []
  deriving DecidableEq, Repr

/-- The module right after reset (01 R9): every register at its reset value, memory with nothing listed, no Context holding a task. -/
def State.reset : State :=
  { clusters := [], engines := [], dies := [], ports := [], routes := [], kernels := [], apertures := [], hgen := 0, hemAt := [], mstat := 0,
    watts := 2800, pstep := 0, power := 0, tdie := 0, thbm := 0, stage := 0, failCause := 0, fsvn := 0, svn := 0, meas0 := 0, meas1 := 0,
    meas2 := 0, staging := [], flash := [], mailbox := [], hss := 0, stagingBuf := [], hostSeq := 0, qps := [], keys := [], tripped := false, outbox := [], images := [],
    agenda := [], arg := Arg.zero, cur := 0, free := 0, lags := [] }

end Sys2Proof.Machine
end

