-- ==== Sys2Proof/Machine/Ops.lean ====
section
/-! DEFINITION. The named operations over the state: access to its parts, memory, time, the error queue, taking an exception and returning from one. -/

namespace Sys2Proof.Machine

/-- The outcome of a step. -/
abbrev Out := Host.Outcome State Fault Refusal

/-! Bits and bytes. -/

/-- `Sext(x, n)` to 64 bits (00 R7). -/
def sx64 {n : Nat} (x : BitVec n) : Word := x.signExtend 64
/-- `Zext` to 64 bits. -/
def zx64 {n : Nat} (x : BitVec n) : Word := x.setWidth 64
/-- Bits `lo` to `lo + n - 1` of a number. -/
def field (v lo n : Nat) : Nat := v / 2 ^ lo % 2 ^ n
/-- Replace bits `lo` to `lo + n - 1`. -/
def setField (v lo n x : Nat) : Nat := v - field v lo n * 2 ^ lo + x % 2 ^ n * 2 ^ lo
/-- A one-bit number. -/
def bnat (b : Bool) : Nat := if b then 1 else 0
/-- The two's complement value of the low `n` bits. -/
def sintOf (n v : Nat) : Int := if v % 2 ^ n < 2 ^ (n - 1) then (v % 2 ^ n : Int) else (v % 2 ^ n : Int) - 2 ^ n
/-- Lane `l` of a predicate. -/
def lane (m : Mask) (l : Nat) : Bool := m.getLsbD l
/-- A mask from a function of the lane. -/
def maskOf (f : Nat → Bool) : Mask :=
  BitVec.ofNat 256 ((List.range 256).foldr (fun l a => bnat (f l) + 2 * a) 0)
/-- `n` elements of `w` bits, element 0 lowest. -/
def packElems (w : Nat) : List Nat → Nat
  | [] => 0
  | x :: t => x % 2 ^ w + 2 ^ w * packElems w t
/-- Element `i` of width `w`. -/
def elem (w : Nat) (v : Nat) (i : Nat) : Nat := v / 2 ^ (w * i) % 2 ^ w
/-- The number that bytes make, lowest first (00 R5). -/
def leNat (l : List Byte) : Nat := packElems 8 (l.map BitVec.toNat)
/-- `l` filled with zeros to `n` bytes. -/
def padTo (n : Nat) (l : List Byte) : List Byte := l ++ List.replicate (n - l.length) 0
/-- Split into pieces of `n`. -/
def chunks {α : Type} (n : Nat) : Nat → List α → List (List α)
  | 0, _ => []
  | _ + 1, [] => []
  | f + 1, l => l.take n :: chunks n f (l.drop n)
/-- The entry at a key, if listed. -/
def SMap.find {α : Type} : SMap α → Nat → Option α
  | [], _ => none
  | (k', v) :: t, k => if k = k' then some v else SMap.find t k
/-- Replace element `i` of a list. -/
def setAt {α : Type} : List α → Nat → α → List α
  | [], _, _ => []
  | _ :: t, 0, v => v :: t
  | h :: t, i + 1, v => h :: setAt t i v

/-- Two ranges share a byte. -/
def overlap (a n b m : Nat) : Bool := decide (a < b + m ∧ b < a + n ∧ 0 < n ∧ 0 < m)

/-! Parts of the state. -/

def State.cluster (s : State) (k : Nat) : Cluster := SMap.get Cluster.reset s.clusters k
def State.setCluster (s : State) (k : Nat) (c : Cluster) : State := { s with clusters := SMap.put s.clusters k c }
def State.modCluster (s : State) (k : Nat) (f : Cluster → Cluster) : State := s.setCluster k (f (s.cluster k))
def Cluster.context (c : Cluster) (i : Nat) : Context := SMap.get Context.reset c.ctx i
def Cluster.setContext (c : Cluster) (i : Nat) (x : Context) : Cluster := { c with ctx := SMap.put c.ctx i x }
def Cluster.modContext (c : Cluster) (i : Nat) (f : Context → Context) : Cluster := c.setContext i (f (c.context i))
def State.context (s : State) (k i : Nat) : Context := (s.cluster k).context i
def State.modContext (s : State) (k i : Nat) (f : Context → Context) : State := s.modCluster k (fun c => c.modContext i f)
def State.die (s : State) (d : Nat) : Die := SMap.get Die.reset s.dies d
def State.modDie (s : State) (d : Nat) (f : Die → Die) : State := { s with dies := SMap.put s.dies d (f (s.die d)) }
def State.engine (s : State) (e : Nat) : StackEngine := SMap.get StackEngine.reset s.engines e
def State.modEngine (s : State) (e : Nat) (f : StackEngine → StackEngine) : State :=
  { s with engines := SMap.put s.engines e (f (s.engine e)) }
def State.port (s : State) (p : Nat) : FPort := SMap.get FPort.reset s.ports p
def State.modPort (s : State) (p : Nat) (f : FPort → FPort) : State := { s with ports := SMap.put s.ports p (f (s.port p)) }
def State.kernel (s : State) (i : Nat) : KEntry := SMap.get KEntry.reset s.kernels i
def State.modKernel (s : State) (i : Nat) (f : KEntry → KEntry) : State :=
  { s with kernels := SMap.put s.kernels i (f (s.kernel i)) }
/-- The die of a cluster (01 R17). -/
def dieOf (k : Nat) : Nat := k / 12
/-- The stack of a cluster (01 R18). -/
def stackOf (k : Nat) : Nat := k / 4
/-- All four Contexts. -/
def ctxIds : List Nat := [0, 1, 2, 3]
def clusterIds : List Nat := List.range Config.clusters

def Context.port (x : Context) (c : Nat) : Port := SMap.get Port.off x.ports c
def Context.setPort (x : Context) (c : Nat) (p : Port) : Context := { x with ports := SMap.put x.ports c p }
def Context.tok (x : Context) (k : Nat) : Token := SMap.get Token.free x.toks k
def Context.setTok (x : Context) (k : Nat) (t : Token) : Context := { x with toks := SMap.put x.toks k t }
def Context.hnd (x : Context) (h : Nat) : Handle := SMap.get Handle.free x.hnds h
def Context.setHnd (x : Context) (h : Nat) (t : Handle) : Context := { x with hnds := SMap.put x.hnds h t }
def Cluster.level (c : Cluster) (j : Nat) : QLevel := SMap.get QLevel.empty c.levels j
def Cluster.setLevel (c : Cluster) (j : Nat) (l : QLevel) : Cluster := { c with levels := SMap.put c.levels j l }
def Cluster.chan (c : Cluster) (n : Nat) : Channel := SMap.get Channel.reset c.chans n
def Cluster.setChan (c : Cluster) (n : Nat) (x : Channel) : Cluster := { c with chans := SMap.put c.chans n x }
def Cluster.tile (c : Cluster) (z : Nat) : Tile := SMap.get Tile.reset c.tiles (z % 1024)
def Cluster.setTile (c : Cluster) (z : Nat) (t : Tile) : Cluster := { c with tiles := SMap.put c.tiles (z % 1024) t }
def Cluster.nest (c : Cluster) (n : Nat) : Nest := SMap.get Nest.reset c.nests n
def Cluster.setNest (c : Cluster) (n : Nat) (t : Nest) : Cluster := { c with nests := SMap.put c.nests n t }
def Cluster.cmd (c : Cluster) (id : Nat) : Option Cmd := c.cmds.find? (fun m => m.id == id)
def Cluster.setCmd (c : Cluster) (m : Cmd) : Cluster :=
  { c with cmds := c.cmds.map (fun m' => if m'.id = m.id then m else m') }

/-- s0 reads 0 (06 R125). -/
def Context.sreg (x : Context) (r : SReg) : Word := if r = 0 then 0 else SMap.get 0 x.s r.toNat
def Context.areg (x : Context) (r : Reg4) : Word := SMap.get 0 x.a r.toNat
/-- p0 reads all ones and p1 all zeros (06 R137). -/
def Context.preg (x : Context) (r : Reg4) : Mask :=
  if r = 0 then BitVec.allOnes 256 else if r = 1 then 0 else SMap.get 0 x.p r.toNat
def Context.vec (x : Context) (i : Nat) : Vec := SMap.get 0 x.v i
/-- A write to s0 is discarded; a write clears the poison mark (06 R125, 21 R425). -/
def Context.setS (x : Context) (r : SReg) (v : Word) : Context :=
  if r = 0 then x else { x with s := SMap.set 0 x.s r.toNat v, sBad := SMap.del x.sBad r.toNat }
def Context.setA (x : Context) (r : Reg4) (v : Word) : Context :=
  { x with a := SMap.set 0 x.a r.toNat v, aBad := SMap.del x.aBad r.toNat }
/-- p0 and p1 keep their values (06 R137). -/
def Context.setP (x : Context) (r : Reg4) (v : Mask) : Context :=
  if r.toNat ≤ 1 then x else { x with p := SMap.set 0 x.p r.toNat v, pBad := SMap.del x.pBad r.toNat }
def Context.setV (x : Context) (i : Nat) (v : Vec) : Context := { x with v := SMap.set 0 x.v i v }

/-! Results that land (03 R60). -/

/-- The bits of the enabled 32-bit lanes. -/
def expand (m : Mask) : Vec := BitVec.ofNat 8192 (packElems 32 ((List.range 256).map (fun l => if lane m l then 2 ^ 32 - 1 else 0)))
/-- `d` with lanes of `v` where a mask enables them. -/
def mergeLanes (d v : Vec) (m : Mask) : Vec := (v &&& expand m) ||| (d &&& ~~~ expand m)
/-- The entry of a Port that a result was claimed for. An entry that is gone takes nothing. -/
def Port.land (p : Port) (id : Nat) (data : Vec) (bad : Bool) : Port :=
  { p with entries := p.entries.map (fun e => if e.id = id then { e with ready := true, poison := bad, data := data } else e) }
/-- A predicate takes its enabled lanes; p0 and p1 keep their values (06 R137). -/
def Context.setLanes (x : Context) (r : Reg4) (v lanes : Mask) : Context := x.setP r ((v &&& lanes) ||| (x.preg r &&& ~~~ lanes))
/-- A write of every lane of a vector clears its mark (21 R463, assumption 40). -/
def Context.cleanV (x : Context) (i : Nat) (lanes : Mask) : Context := if lanes = BitVec.allOnes 256 then { x with vBad := SMap.del x.vBad i } else x
/-- A result in flight is written. Poisoned data is written as read, with its mark (21 R425). -/
def Context.land (x : Context) (f : Flight) : Context :=
  match f.dest with
  | .s r =>
    match f.poison with
    | none => x.setS r (f.data.setWidth 64)
    | some o => if r = 0 then x else { x.setS r (f.data.setWidth 64) with sBad := SMap.put x.sBad r.toNat o }
  | .a r =>
    match f.poison with
    | none => x.setA r (f.data.setWidth 64)
    | some o => { x.setA r (f.data.setWidth 64) with aBad := SMap.put x.aBad r.toNat o }
  | .p r =>
    match f.poison with
    | none => x.setP r (f.data.setWidth 256)
    | some o => if r.toNat ≤ 1 then x else { x.setP r (f.data.setWidth 256) with pBad := SMap.put x.pBad r.toNat o }
  | .pair e lanes => (x.setLanes e (f.data.setWidth 256) lanes).setLanes (e + 1) (~~~ (f.data.setWidth 256)) lanes
  | .vec i lanes => (x.setV i (mergeLanes (x.vec i) f.data lanes)).cleanV i lanes
  | .port c id => x.setPort c ((x.port c).land id f.data f.poison.isSome)
/-- One result in flight falls due before another (06 R127). -/
def Flight.sooner (f g : Flight) : Bool := decide (f.remain < g.remain ∨ (f.remain = g.remain ∧ g.late < f.late))
/-- A result takes its place among results in the order of their due times; of two due together, the one issued first stands first. -/
def Flight.insert (f : Flight) : List Flight → List Flight
  | [] => [f]
  | g :: t => if g.sooner f then g :: f.insert t else f :: g :: t
/-- The Context as it stands once every result in flight has landed in the order of the due times, but for those of held atomics: the order that live landings follow (06 R127, assumption 89). -/
def Context.settled (x : Context) : Context :=
  { ((x.flights.filter (fun f => decide (f.pace ≠ .held))).foldr Flight.insert []).foldl Context.land x with flights := [] }

/-- A register takes a value at the end of `n` clk without a flight: a result of an earlier issue that lands by then is overwritten, and its flight dropped (03 R60, 06 R127). -/
def Context.overtake (x : Context) (n : Nat) (p : Dest → Bool) : Context :=
  { x with flights := x.flights.filter (fun f => !(p f.dest && decide (f.pace ≠ .held ∧ f.remain ≤ n))) }
/-- A result for one of the stage predicates p8 to p15. -/
def Dest.isStage : Dest → Bool
  | .p r => decide (8 ≤ r.toNat)
  | .pair e _ => decide (8 ≤ e.toNat)
  | _ => false

/-! Codes. -/

def CState.code : CState → Nat
  | .free => 0 | .ready => 1 | .run => 2 | .blocked => 3 | .fault => 4 | .yield => 5 | .parked => 6 | .double => 7
def cstateOf : Nat → CState
  | 0 => .free | 1 => .ready | 2 => .run | 3 => .blocked | 4 => .fault | 5 => .yield | 6 => .parked | _ => .double
def Cause.code : Cause → Nat
  | .engine => 1 | .portEmpty => 2 | .portFull => 3 | .token => 4 | .handle => 5 | .barrier => 6 | .window => 7 | .memory => 8
def causeOf : Nat → Option Cause
  | 1 => some .engine | 2 => some .portEmpty | 3 => some .portFull | 4 => some .token | 5 => some .handle | 6 => some .barrier
  | 7 => some .window | 8 => some .memory | _ => none
def slotCode : Slot → Nat
  | .s => 0 | .a => 1 | .v0 => 2 | .v1 => 3 | .e => 4
def Engine.code : Engine → Nat
  | .matrix => 1 | .pleat => 2 | .channel => 3 | .network => 4 | .stack => 5 | .queue => 6 | .barrier => 7
def TState.code : TState → Nat
  | .free => 0 | .pending => 1 | .done => 2 | .error => 3
def HState.code : HState → Nat
  | .free => 0 | .issued => 1 | .localDone => 2 | .remoteDone => 3 | .error => 4

/-! Fault codes (21 R423). -/
def cILLEGAL : BitVec 16 := 1
def cPRIV : BitVec 16 := 2
def cALIGN : BitVec 16 := 3
def cPAGE : BitVec 16 := 4
def cPERM : BitVec 16 := 5
def cPOISON : BitVec 16 := 6
def cSPILL : BitVec 16 := 7
def cRUNAWAY : BitVec 16 := 8
def cPLEAT : BitVec 16 := 9
def cPORT : BitVec 16 := 10
def cDRAIN : BitVec 16 := 11
def cWINDOW : BitVec 16 := 12
def cPEER : BitVec 16 := 13
def cLINK : BitVec 16 := 14
def cNM : BitVec 16 := 15
def cDOUBLE : BitVec 16 := 16
def cSTOPPED : BitVec 16 := 17
def cTRAPCALL : BitVec 16 := 18
def cSYSCALL : BitVec 16 := 19

/-! Memory of a slice. Addresses are offsets in the slice: bits [33:0] of a module physical address (01 R18). -/

/-- The byte at the L2 slice or in HBM. A byte that nothing has written reads 0 (assumption 3). -/
def Cluster.l2Byte (c : Cluster) (pa : Nat) : Byte := SMap.get 0 c.mem pa
/-- The byte as the core and the cluster's own engines see it: the dirty byte of the L1D first (16 R328). -/
def Cluster.byte (c : Cluster) (pa : Nat) : Byte :=
  match SMap.find c.dirty pa with
  | some b => b
  | none => c.l2Byte pa
def Cluster.l2Bytes (c : Cluster) (pa n : Nat) : List Byte := (List.range n).map (fun i => c.l2Byte (pa + i))
def Cluster.bytes (c : Cluster) (pa n : Nat) : List Byte := (List.range n).map (fun i => c.byte (pa + i))
/-- Put bytes into the list that backs the slice, in its canonical form. -/
def memPut (m : List Host.Cell) (pa : Nat) : List Byte → List Host.Cell
  | [] => m
  | b :: t => memPut (SMap.set 0 m pa b) (pa + 1) t
/-- The canonical form of a memory: addresses strictly rise, and no entry equals what an unlisted address reads as. -/
def Memory.wf (m : List Host.Cell) : Bool := SMap.wf 0 m
/-! Page-table entries (19 R391). -/
def pteV (p : Word) : Bool := p.getLsbD 0
def pteW (p : Word) : Bool := p.getLsbD 1
def pteX (p : Word) : Bool := p.getLsbD 2
def pteU (p : Word) : Bool := p.getLsbD 3
def pteSC (p : Word) : Bool := p.getLsbD 4
def pteNM (p : Word) : Bool := p.getLsbD 5
def pteCMP (p : Word) : Bool := p.getLsbD 6
def ptePIN (p : Word) : Bool := p.getLsbD 7
def pteG64 (p : Word) : Bool := p.getLsbD 8
def pteLeaf (p : Word) : Bool := p.getLsbD 11
def pteFrame (p : Word) : Nat := field p.toNat 12 28
/-- The entry without A, D and the software bits, as far as a walk reads it. -/
def pteCore (p : Word) : Nat := field p.toNat 0 9 + 2 ^ 11 * field p.toNat 11 29
/-- log2 of the bytes that a leaf of a level maps (19 R390). -/
def leafBits (level : Nat) (p : Word) : Nat :=
  if level = 3 then 30 else if level = 4 then 21 else if pteG64 p then 16 else 12
/-- A frame names a page of this cluster's slice outside the metadata area (19 R392). -/
def frameOk (k frame bits : Nat) : Bool :=
  decide (frame / 2 ^ 22 = k ∧ frame * 4096 % 2 ^ 34 + 2 ^ bits ≤ Config.metaBase)
/-- An entry with V = 1 is bad (19 R392). -/
def pteBad (k level : Nat) (p : Word) : Bool :=
  let f := pteFrame p
  if pteLeaf p then
    decide (level ≤ 2) || !frameOk k f (leafBits level p) || (decide (level = 3) && f % 2 ^ 18 != 0)
      || (decide (level = 4) && f % 2 ^ 9 != 0) || (pteG64 p && decide (level ≠ 5)) || (pteG64 p && decide (level = 5) && f % 16 != 0)
      || (pteNM p && pteCMP p)
  else decide (level = 5) || !frameOk k f 12
/-- The slice that PTBASE names: a cluster walks its tables only where that is its own (19 R392). -/
def Cluster.rootSlice (c : Cluster) : Nat := field c.ptbase.toNat 34 6
/-- Some good leaf below a table of the cluster's page tables maps the block and has CMP = 1 (19 R390-R392, R401). -/
def Cluster.tableCompresses (c : Cluster) (block : Nat) : Nat → Nat → Nat → Bool
  | 0, _, _ => false
  | fuel + 1, level, table =>
    (List.range (if level = 1 then 256 else 512)).any (fun i =>
      let p : Word := BitVec.ofNat 64 (leNat (c.l2Bytes (table + 8 * i) 8))
      let at_ := pteFrame p * 4096 % 2 ^ 34
      let bits := leafBits level p
      pteV p && !pteBad c.rootSlice level p
        && (if pteLeaf p then pteCMP p && decide (block * 256 / 2 ^ bits = at_ / 2 ^ bits) else c.tableCompresses block fuel (level + 1) at_))
/-- The leaf of the block's page has CMP = 1, as the tables at PTBASE hold it at that moment (19 R401, assumption 4). -/
def Cluster.compressible (c : Cluster) (block : Nat) : Bool :=
  let root := field c.ptbase.toNat 12 28
  frameOk c.rootSlice root 12 && c.tableCompresses block 5 1 (root * 4096 % 2 ^ 34)
/-- The state in which the L2 slice writes a block back to HBM: all zero, compressed where its page's leaf says so and it fits, or raw (19 R401). -/
def Cluster.blockState (c : Cluster) (block : Nat) : Nat :=
  let bs := (List.range 256).map (fun i => SMap.get 0 c.mem (block * 256 + i))
  if bs.all (· == 0) then 3 else if c.compressible block then (Config.blockCode bs).val else 0
/-- The L2 slice's lines and HBM's block states when entry `i` leaves the slice; HBM takes what it has not yet. -/
def Cluster.dropL2 (c : Cluster) (i : Nat) (p : SMap Bool × SMap Nat) : SMap Bool × SMap Nat :=
  match p.1[i]? with
  | none => p
  | some (line, owed) => (p.1.eraseIdx i, if owed then SMap.set 0 p.2 (line / 4) (c.blockState (line / 4)) else p.2)
/-- Every second word: a command's data holds its pages in pairs behind its descriptor. -/
def oddWords : List Word → List Word
  | _ :: p :: t => p :: oddWords t
  | _ => []
/-- A line of a page of a command that the stack engine has in progress: neither cache takes it, and what is read or written of it is served from HBM (16 R340, 18 R387). -/
def Cluster.nmBusy (c : Cluster) (line : Nat) : Bool :=
  c.cmds.any (fun m => decide (m.eng = .stack) && m.started && (oddWords (m.data.drop 8)).any (fun p => p.toNat == line / 64))
/-- The same when lines come in; a full slice gives up others (01 R29, assumption 67). `owed` lines differ from HBM. -/
def Cluster.takeL2 (c : Cluster) (lines : List Nat) (owed : Bool) : SMap Bool × SMap Nat :=
  (lines.filter (fun l => !c.nmBusy l)).foldl (fun p l =>
    match SMap.find p.1 l with
    | some o => (if owed && !o then SMap.put p.1 l true else p.1, p.2)
    | none =>
      let p := if p.1.length < Config.l2Lines then p else c.dropL2 (Config.freeVictim c.clk l % p.1.length) p
      (SMap.put p.1 l owed, p.2)) (c.l2, c.blocks)
def Cluster.fillL2 (c : Cluster) (lines : List Nat) (owed : Bool) : Cluster :=
  let p := c.takeL2 lines owed
  { c with l2 := p.1, blocks := p.2 }
/-- The lines that a range touches. -/
def linesOf (pa n : Nat) : List Nat := if n = 0 then [] else (List.range ((pa + n - 1) / 64 - pa / 64 + 1)).map (· + pa / 64)
/-- The marks of the slice's sectors when dirty bytes are written back: a marked sector of the L1D marks it, one that a single write has covered whole clears it (21 R463). -/
def backMarks (back : SMap Byte) (bad whole m : SMap Bool) : SMap Bool :=
  ((back.map (fun p => p.1 / 32)).eraseDups).foldl (fun m u =>
    if SMap.get false bad u then SMap.set false m u true
    else if SMap.get false whole u then SMap.set false m u false else m) m
/-- Write back the dirty bytes of some lines; a line written back leaves every release set (16 R334). -/
def Cluster.writeBack (c : Cluster) (lines : List Nat) : Cluster :=
  let hit := fun (p : Nat × Byte) => lines.contains (p.1 / 64)
  let c := c.fillL2 (((c.dirty.filter hit).map (fun p => p.1 / 64)).eraseDups) true
  { c with
    mem := (c.dirty.filter hit).foldl (fun m p => SMap.set 0 m p.1 p.2) c.mem
    dirty := c.dirty.filter (fun p => !hit p)
    poison := backMarks (c.dirty.filter hit) c.l1Bad c.l1Whole c.poison
    l1Bad := c.l1Bad.filter (fun p => !lines.contains (p.1 / 2))
    l1Whole := c.l1Whole.filter (fun p => !lines.contains (p.1 / 2))
    relSets := c.relSets.map (fun r => { r with lines := r.lines.filter (fun l => !lines.contains l) }) }
/-- Write back the release sets that a test names, each with its tagging line, and end them (16 R334). -/
def Cluster.flushSets (c : Cluster) (p : RelSet → Bool) : Cluster :=
  let c' := c.writeBack (((c.relSets.filter p).map (fun r => r.tag :: r.lines)).flatten)
  { c' with relSets := c'.relSets.filter (fun r => !p r) }
/-- Lines are evicted from the L1D: the sets that they tag are written back, then their own dirty bytes (16 R334). -/
def Cluster.evict (c : Cluster) (lines : List Nat) : Cluster :=
  let c := (c.flushSets (fun r => lines.contains r.tag)).writeBack lines
  { c with l1 := c.l1.filter (fun l => !lines.contains l) }
/-- A line comes into the L1D; a full one evicts a line of its own first (08 R174, assumption 67). -/
def Cluster.fillLine (c : Cluster) (line : Nat) : Cluster :=
  if c.l1.contains line || c.nmBusy line then c
  else
    let c := if c.l1.length < Config.l1Lines then c
      else c.evict [c.l1.getD (Config.freeVictim c.clk line % c.l1.length) 0]
    { c with l1 := line :: c.l1 }
def Cluster.fillL1 (c : Cluster) (lines : List Nat) : Cluster := lines.foldl Cluster.fillLine c
/-- Every release set and every dirty line is written back (16 R334, R337). -/
def Cluster.writeBackAll (c : Cluster) : Cluster :=
  let c := c.fillL2 ((c.dirty.map (fun p => p.1 / 64)).eraseDups) true
  { c with mem := c.dirty.foldl (fun m p => SMap.set 0 m p.1 p.2) c.mem, dirty := [], poison := backMarks c.dirty c.l1Bad c.l1Whole c.poison, l1Bad := [], l1Whole := [], relSets := [] }

/-- The poison marks of the 32-byte sectors that a range touches (21 R463). -/
def Cluster.poisoned (c : Cluster) (pa n : Nat) : Bool :=
  n != 0 && c.poison.any (fun p => decide (pa / 32 ≤ p.1 ∧ p.1 ≤ (pa + n - 1) / 32) && p.2)
/-- A mark that the core meets in a range: of the L1D, or of the slice below a sector that no single write in the L1D covers (21 R463). -/
def Cluster.coreBad (c : Cluster) (pa n : Nat) : Bool :=
  let hit := fun (p : Nat × Bool) => decide (pa / 32 ≤ p.1 ∧ p.1 ≤ (pa + n - 1) / 32) && p.2
  n != 0 && (c.poison.any (fun p => hit p && !SMap.get false c.l1Whole p.1) || c.l1Bad.any hit)
/-- Marks after a write of `n` bytes at `pa`: poisoned data marks every sector it touches, clean data clears the sectors it covers whole (21 R463). -/
def markUnits (unit : Nat) (m : SMap Bool) (pa n : Nat) (bad : Bool) : SMap Bool :=
  if n = 0 then m
  else (List.range ((pa + n - 1) / unit - pa / unit + 1)).foldl (fun m i =>
    let u := pa / unit + i
    if bad then SMap.set false m u true
    else if pa ≤ u * unit ∧ (u + 1) * unit ≤ pa + n then SMap.set false m u false else m) m
/-- A write performed at the L2 slice: the line's dirty bytes are written back first and the line is invalid in the L1D (16 R326). That is no eviction: the sets that the line tags stay (R334). -/
def Cluster.writeL2 (c : Cluster) (pa : Nat) (bs : List Byte) (bad : Bool) : Cluster :=
  let ls := linesOf pa bs.length
  let c1 := (c.writeBack ls).fillL2 ls true
  { c1 with mem := memPut c1.mem pa bs, poison := markUnits 32 c1.poison pa bs.length bad, l1 := c1.l1.filter (fun l => !ls.contains l) }
/-- Read-modify-writes of the elements of a range, performed at the L2 slice: no one of them covers a sector, so none clears a mark (16 R326, 21 R463). -/
def Cluster.updateL2 (c : Cluster) (pa : Nat) (bs : List Byte) (bad : Bool) : Cluster :=
  let m := (c.writeBack (linesOf pa bs.length)).poison
  { c.writeL2 pa bs bad with poison := if bad then markUnits 32 m pa bs.length true else m }
/-- Lines leave both caches for HBM, which stores their blocks raw (16 R340, 19 R401). -/
def Cluster.toHbm (c : Cluster) (ls : List Nat) : Cluster :=
  let c := c.writeBack ls
  { c with
    l1 := c.l1.filter (fun l => !ls.contains l)
    l2 := c.l2.filter (fun p => !ls.contains p.1)
    blocks := c.blocks.filter (fun p => !ls.any (fun l => l / 4 == p.1)) }
/-- A write performed in HBM (16 R326). -/
def Cluster.writeHbm (c : Cluster) (pa : Nat) (bs : List Byte) (bad : Bool) : Cluster :=
  let c := c.toHbm (linesOf pa bs.length)
  { c with mem := memPut c.mem pa bs, poison := markUnits 32 c.poison pa bs.length bad }
/-- The sectors that some addresses cover whole. -/
def covered (as : List Nat) : List Nat := ((as.map (· / 32)).eraseDups).filter (fun u => (List.range 32).all (fun i => as.contains (32 * u + i)))
/-- Marks after clean bytes at some addresses: sectors they cover whole are cleared (21 R463). -/
def coverClear (m : SMap Bool) (as : List Nat) : SMap Bool := (covered as).foldl (fun m u => SMap.set false m u false) m
/-- The bytes of one write enter the L1D (16 R326). -/
def Cluster.storeL1 (c : Cluster) (bs : List (Nat × Byte)) : Cluster :=
  let c := c.fillL1 ((bs.map (fun p => p.1 / 64)).eraseDups)
  let as := bs.map (·.1)
  { c with
    dirty := bs.foldl (fun m p => SMap.put m p.1 p.2) c.dirty, l1Bad := coverClear c.l1Bad as
    l1Whole := (covered as).foldl (fun m u => SMap.set false m u true) c.l1Whole }
/-- Bytes are performed at the L2 slice for the core; lines that the L1D holds dirty leave it first. -/
def Cluster.storeL2 (c : Cluster) (bs : List (Nat × Byte)) : Cluster :=
  let ls := (bs.map (fun p => p.1 / 64)).eraseDups
  let c := (c.writeBack ls).fillL2 ls true
  { c with l1 := c.l1.filter (fun l => !ls.contains l), mem := bs.foldl (fun m p => SMap.set 0 m p.1 p.2) c.mem, poison := coverClear c.poison (bs.map (·.1)) }
/-- A store of the core on a page that the L1D caches: bytes of a line that a stack engine has in progress go to HBM (16 R340). -/
def Cluster.storeCore (c : Cluster) (bs : List (Nat × Byte)) : Cluster :=
  let (busy, rest) := bs.partition (fun p => c.nmBusy (p.1 / 64))
  if busy.isEmpty then c.storeL1 rest else (c.storeL2 busy).storeL1 rest
/-- A read by an own engine: the dirty bytes of its lines are written back first (16 R328). -/
def Cluster.ownRead (c : Cluster) (pa n : Nat) : List Byte × Cluster :=
  let c' := (c.writeBack (linesOf pa n)).fillL2 (linesOf pa n) false
  (c'.l2Bytes pa n, c')

/-- A held write precedes a command of its Context in program order. -/
def HeldWrite.before (h : HeldWrite) (m : Cmd) : Bool := h.ctx == m.ctx && decide (h.seq ≤ m.id)
/-- A local join that precedes a command of its Context in program order has still to be performed: the command's accesses wait for it (12 R285). -/
def Cluster.joinsBefore (c : Cluster) (m : Cmd) : Bool := c.joins.any (fun q => q.ctx == m.ctx && decide (q.seq ≤ m.id))

/-! Typed buffers (08 R183). -/

def Cluster.buf (c : Cluster) : Buf → SMap Byte
  | .wb => c.wb
  | .ab => c.ab
def Cluster.bufBytes (c : Cluster) (u : Buf) (o n : Nat) : List Byte := (List.range n).map (fun i => SMap.get 0 (c.buf u) (o + i))
def Cluster.bufPoisoned (c : Cluster) (u : Buf) (o n : Nat) : Bool :=
  n != 0 && (match u with | .wb => c.wbPoison | .ab => c.abPoison).any
    (fun p => decide (o / 64 ≤ p.1 ∧ p.1 ≤ (o + n - 1) / 64) && p.2)
def Cluster.writeBuf (c : Cluster) (u : Buf) (o : Nat) (bs : List Byte) (bad : Bool) : Cluster :=
  match u with
  | .wb => { c with wb := memPut c.wb o bs, wbPoison := markUnits 64 c.wbPoison o bs.length bad }
  | .ab => { c with ab := memPut c.ab o bs, abPoison := markUnits 64 c.abPoison o bs.length bad }

/-! Access counters (19 R400). -/

/-- One line counted in class `cls` of its region; a counter that reaches its threshold asks for a notice. -/
def Cluster.countLine (c : Cluster) (cls line : Nat) : Cluster :=
  let region := line * 64 / 65536
  let e := field c.acbase.toNat 21 13 * 2 ^ 21 + 8 * region + 2 * cls
  let old := leNat (c.l2Bytes e 2)
  let new := Nat.min (old + 1) 65535
  let thr := field c.acthr.toNat (16 * cls) 16
  { c with
    mem := memPut c.mem e (bytesLE 2 new)
    acNotices := if thr ≠ 0 ∧ old + 1 = thr then c.acNotices ++ [(region, cls)] else c.acNotices }
/-- The lines of an access that the L2 controller performs, by class: 0 core, 1 copy engines, 2 remote, 3 stack engine; 4 stands for the accesses that no class counts. -/
def Cluster.count (c : Cluster) (cls pa n : Nat) : Cluster :=
  if c.acbase.getLsbD 0 ∧ cls < 4 then (linesOf pa n).foldl (fun c l => c.countLine cls l) c else c

/-! The error queue of a die (21 R428). -/

/-- Append a record at die `d`; a full ring advances OVF instead. -/
def State.errRecord (s : State) (d : Nat) (r : ErrRec) : State :=
  s.modDie d (fun x =>
    if x.wr - x.rd ≥ 4096 then { x with ovf := x.ovf + 1 }
    else { x with errq := SMap.put x.errq (x.wr % 4096) r, wr := x.wr + 1 })
/-- The first word of a record (21 R428). -/
def errWord (kind unit : Nat) (code : BitVec 16) (cluster ctx port stack : Nat) : Word :=
  BitVec.ofNat 64 (kind % 256 + 2 ^ 8 * (unit % 256) + 2 ^ 16 * code.toNat + 2 ^ 32 * (cluster % 64) + 2 ^ 38 * (ctx % 4)
    + 2 ^ 40 * (port % 64) + 2 ^ 46 * (stack % 16))
/-- A record about cluster `k`. -/
def State.errCluster (s : State) (k ctx kind unit : Nat) (code : BitVec 16) (addr info : Word) : State :=
  s.errRecord (dieOf k) { w0 := errWord kind unit code k ctx 63 15, addr := addr, info := info, time := (s.cluster k).clk }
/-- An UNCORR record (21 R429): `store` as INFO gives it. -/
def State.errUncorr (s : State) (k ctx unit store : Nat) (addr : Word) : State :=
  s.errCluster k ctx 1 unit cPOISON addr (BitVec.ofNat 64 store)
/-- Counters of a die controller: its clusters' SRAMs 0 to 11, its stacks 12 to 14, its ports' CRCERR from 15 (the spec gives them no numbers). A count that has reached its threshold queues one THRESH record until the counter is cleared. -/
def State.checkThreshold (s : State) (d n count : Nat) : State :=
  let x := s.die d
  let thr := (SMap.get 0 x.thresholds n).toNat
  if thr = 0 ∨ count < thr ∨ SMap.get false x.disarmed n then s
  else
    let cluster := if n < 12 then 12 * d + n else 63
    let stack := if 12 ≤ n ∧ n < 15 then 3 * d + (n - 12) else 15
    let port := if 15 ≤ n then 9 * d + (n - 15) else 63
    (s.modDie d (fun x => { x with disarmed := SMap.set false x.disarmed n true })).errRecord d
      { w0 := errWord 8 10 0 cluster 0 port stack, addr := 0, info := BitVec.ofNat 64 (n + 2 ^ 32 * count), time := (s.cluster (12 * d)).clk }
/-- The module physical address of an offset in slice `k` (01 R18). -/
def modulePa (k pa : Nat) : Word := BitVec.ofNat 64 (k * 2 ^ 34 + pa)

/-! Ports' counts (08 R175, R185, R203). -/

def Port.fill (p : Port) : Nat := (p.entries.takeWhile (·.ready)).length
/-- Rows of a generator's walk (08 R185). -/
def Gen.total (g : Gen) : Nat :=
  (field g.counts.toNat 0 16 + 1) * (field g.counts.toNat 16 16 + 1) * (field g.counts.toNat 32 16 + 1)
def Gen.left (g : Gen) : Nat := if g.active then g.total - g.asked else 0
/-- FILL of any Port (08 R175, R203). -/
def Context.fill (x : Context) (c : Nat) : Nat := (x.port c).fill
/-- PEND: for c12 the drain buffer, for c13 32 entries a tile in flight (08 R203). -/
def Context.pend (x : Context) (c : Nat) : Nat :=
  if c = 12 then x.drain.length
  else if c = 13 then 32 * x.pleat.tiles.length
  else (x.port c).entries.length - (x.port c).fill
def Context.depth (x : Context) (c : Nat) : Nat := if c = 12 then 16 else if c = 13 then 64 else (x.port c).depth
def Context.room (x : Context) (c : Nat) : Nat :=
  if c = 12 then 16 - x.fill 12 else x.depth c - x.fill c - x.pend c
/-- c12 and c13 are always there. -/
def Context.portOn (x : Context) (c : Nat) : Bool := decide (c = 12 ∨ c = 13) || (x.port c).on

/-- Some address generator of the core could request a row (08 R186). -/
def Cluster.genWants (c : Cluster) : Bool :=
  c.ctx.any (fun p => p.2.ports.any (fun q => decide (0 < q.2.gen.left ∧ 0 < p.2.room q.1)))

/-! Time (03 R60, 15 R324). -/

def Flight.tick (f : Flight) (clk ic : Nat) : Flight :=
  if f.pace ≠ .held ∧ f.remain = 0 then { f with late := f.late + clk }
  else match f.pace with
  | .held | .issue => f
  | .clk => { f with remain := f.remain - clk, late := clk - f.remain }
  | .ic => { f with remain := f.remain - ic, late := ic - f.remain }
/-- One ic of the core passes for a predicate's count (06 R126). -/
def Flight.countIssue (f : Flight) : Flight := if f.pace = .issue then { f with remain := f.remain - 1 } else f
def Context.countIssue (x : Context) : Context := { x with flights := x.flights.map Flight.countIssue }
/-- What `clk` clk and, for ic-paced counts, `ic` counts do to a Context. -/
def Context.pass (x : Context) (clk ic : Nat) : Context :=
  { x with
    flights := x.flights.map (·.tick clk ic)
    pleat := { x.pleat with tiles := x.pleat.tiles.map (fun t => { t with remain := t.remain - ic }) } }
/-- `clk` clk pass, of which `ic` advance the results that count in ic. -/
def Cluster.pass (c : Cluster) (clk ic : Nat) : Cluster :=
  { c with
    clk := c.clk + clk
    agClk := if c.genWants then c.agClk else c.clk + clk
    ctx := c.ctx.map (fun p => (p.1, p.2.pass clk ic))
    latchFlights := c.latchFlights.map (fun f => (f.1 - ic, f.2)) }
/-- Some Context is in state RUN. -/
def Cluster.running (c : Cluster) : Bool := ctxIds.any (fun i => (c.context i).st == .run)
/-- The Context that the core issues from, if any. -/
def Cluster.runCtx (c : Cluster) : Option Nat := ctxIds.find? (fun i => (c.context i).st == .run)
/-- One ic (an issue clk). -/
def Cluster.passIc (c : Cluster) : Cluster :=
  let c' := c.pass 1 1
  { c' with ic := c.ic + 1, ctx := c'.ctx.map (fun p => (p.1, p.2.countIssue)) }
/-- Clk without an ic: the counts in ic advance only while no Context is in RUN. -/
def Cluster.passClk (c : Cluster) (n : Nat) : Cluster := c.pass n (if c.running then 0 else n)

/-- A command that a blocked issue awaits, or one under the same Handle as such a command (15 R324). -/
def Cluster.awaited (c : Cluster) (on : List Nat) (id : Nat) : Bool :=
  on.contains id || c.cmds.any (fun a => on.contains a.id && (match a.remote with
    | some r => c.cmds.any (fun m => m.id == id && m.ctx == a.ctx && (match m.remote with | some q => q.hnd == r.hnd | none => false))
    | none => false))
/-- The numbers of the idle counters (05 R107): NOTASK 0, TOKEN 1, HANDLE 2, PEMPTY 3, PFULL 4, WFENCE 5, BARRIER 6, FAULT 7, LOAD 8, LINK 9, STOP 10. -/
def idleCounter (c : Cluster) (x : Context) : Nat :=
  match x.st with
  | .run | .ready => 8
  | .blocked =>
    match x.cause with
    | some .memory => 8
    | some .engine => if x.causeEng = .network then 2 else 1
    | some .token =>
      if c.cmds.any (fun m => x.awaits.contains m.id && decide (m.eng = .barrier)) then 6 else 1
    | some .barrier => 6
    | some .handle => if c.places.any (fun p => c.awaited x.awaits p.2.cmd && (p.2.retry.isSome || p.2.again)) then 9 else 2
    | some .portEmpty => 3
    | some .portFull => 4
    | some .window => 5
    | none => 8
  | .fault => 7
  | .parked | .double => 10
  | .free | .yield => if x.parkReq || x.stopf then 10 else 0
/-- `n` idle clk: each of the four Contexts counts them once, by its condition (15 R324). -/
def Cluster.idleClk (c : Cluster) (n : Nat) : Cluster :=
  let bump := fun (c : Cluster) (i : Nat) =>
    let x := c.context i
    let j := idleCounter c x
    c.setContext i { x with idle := setAt x.idle j (x.idle.getD j 0 + BitVec.ofNat 64 n) }
  (ctxIds.foldl bump c).passClk n

/-! The end of a task and the Kernel (05 R114, 13 R293). -/

/-- Task end: Tokens and Handles free, loop unit and sticky state clear, MODE 0, error bits clear. Access epochs and locks belong to the Context, and stay (17 R354, R355); H keeps its value until a task starts (assumption 89). -/
def Context.taskEnd (x : Context) (now : Nat) : Context :=
  { x with
    st := .free, live := false, cause := none, unparked := none, awaits := [], toks := [], hnds := [], loops := [], sticky := StickySet.none, mode := false,
    herr := false, terr := false, iter := 0, skipS := false, cont := none, tickets := [], epochs := [], errors := [],
    trapPending := none, leaf := false, freeAt := now }

/-- Give back a Kernel's clusters: its records are discarded, with what would still push one, and its Contexts freed (13 R293): registers keep their values until task start (05 R104, assumption 89). -/
def Cluster.dropKernel (c : Cluster) : Cluster :=
  { c with
    ctx := c.ctx.map (fun p =>
      (p.1, if p.2.live || p.2.st == .double || p.2.st == .parked
            then { p.2 with st := .free, live := false, freeAt := c.clk, parkReq := false, inFault := false, cause := none, awaits := [], unparked := none, cont := none }
            else { p.2 with parkReq := false }))
    levels := [], pushes := [], joins := [], cmds := c.cmds.filter (fun m => decide (m.eng ≠ .queue)), kernel := none
    faults := c.faults.filter (fun f => match f.waiter with | .ctx _ => false | _ => true) }
/-- A Kernel goes to FAULTED with a code (13 R293). -/
def State.faultKernel (s : State) (i : Nat) (code : BitVec 16) (badf : BitVec 8) : State :=
  let e := s.kernel i
  let s1 := (e.clusters.filter (fun k => (s.cluster k).kernel == some i)).foldl (fun s k => s.modCluster k Cluster.dropKernel) s
  s1.modKernel i (fun e =>
    { e with st := .faulted, code := code, badf := badf, held := false, clusters := [], heldClusters := [], place := [], saved := [],
             stopAt := [], drained := [], leafs := [], loading := [], wanted := false })
/-- The Kernel of cluster `k` is being stopped. -/
def State.stoppingAt (s : State) (k : Nat) : Bool :=
  match (s.cluster k).kernel with
  | some i => decide ((s.kernel i).st = .stopping)
  | none => false

/-- Task start, switch-in, trap entry and `eret` set the eight bytes of the scale latch to 0x7F (07 R156). -/
def Cluster.clearLatch (c : Cluster) : Cluster := { c with latch := 0x7F7F7F7F7F7F7F7F }

/-! Taking an exception (05 R120) and returning from one (05 R122). -/

/-- ESTAT (05 R121). -/
def estatWord (iter slot : Nat) (skips : Bool) : Word := BitVec.ofNat 64 (iter % 64 + 64 * (slot % 8) + 512 * bnat skips)

/-- A Group barrier read that a blocked `gbar` or `gbar.wait` repeats (15 R322). -/
def Cmd.isPoll (m : Cmd) : Bool := decide (m.eng = .barrier) && m.remote.isSome

/-- The eight words of a trap record (21 R424). -/
def Trap.words (t : Trap) (pc : Word) (rseq : BitVec 32) (pend : Nat) : List Word :=
  [ BitVec.ofNat 64 (t.code.toNat + 2 ^ 16 * (t.slot % 8) + 2 ^ 19 * (t.iter % 64) + 2 ^ 25 * (t.src % 8) + 2 ^ 28 * (t.engine % 16)
      + 2 ^ 32 * (t.token % 64) + 2 ^ 38 * (t.handle % 32) + 2 ^ 48 * t.arg.toNat),
    pc, t.origPc, BitVec.ofNat 64 (t.origIter % 64 + 2 ^ 8 * t.opcode.toNat), t.esw, t.addr, BitVec.ofNat 64 (t.step % 2 ^ 48),
    BitVec.ofNat 64 (rseq.toNat + 2 ^ 32 * Nat.min pend 65535) ]

/-- A precise trap of a slot, without an address. -/
def Trap.slotTrap (code : BitVec 16) (slot iter : Nat) : Trap :=
  { code := code, slot := slot, iter := iter, src := 0, engine := 0, token := 0, handle := 0, arg := 0, origPc := 0, origIter := 0,
    opcode := 0, esw := 0, addr := 0, step := 0 }
def Trap.withAddr (t : Trap) (a : Word) : Trap := { t with addr := a }

/-- DOUBLE (05 R104): the Context issues nothing more, the error queue receives a record, the Kernel stops. -/
def State.enterDouble (s : State) (k c : Nat) (second : BitVec 16) : State :=
  let x := s.context k c
  let first := field (x.trec.getD 0 0).toNat 0 16
  let s1 := s.modContext k c (fun x => { x with st := .double })
  let s2 := s1.errCluster k c 3 0 cDOUBLE x.pc (BitVec.ofNat 64 (second.toNat + 2 ^ 16 * first))
  let s3 := s2.modCluster k (fun cl => { cl with gap := 2 })
  match (s3.cluster k).kernel with
  | some i => s3.faultKernel i cDOUBLE 0
  | none => s3

/-- Trap entry on Context `c` of cluster `k` (05 R120), or DOUBLE while H = 1 (05 R104). The handler starts with no active loop level (05 R111). `skips` is set by `trap` and `sys` (05 R122). -/
def State.enterTrap (s : State) (k c : Nat) (t : Trap) (skips : Bool) : State :=
  let x := s.context k c
  if x.h then s.enterDouble k c t.code
  else
    let rseq := x.rseq + 1
    let ws := t.words x.pc rseq x.errors.length
    let x' := { x with
      epc := x.pc
      estat := estatWord t.iter t.slot (skips || x.skipS)
      saved := some { sticky := x.sticky, loops := x.loops, bcount := x.bcount, qpos := x.qpos, pc := x.pc, xferred := x.xferred, trap := x.trapPending }
      trapPending := none
      sticky := StickySet.none
      loops := []
      h := true
      trec := ws
      rseq := rseq
      pc := (s.cluster k).tvec
      iter := 0
      skipS := false
      xferred := true
      cause := none
      awaits := [] }
    let cl := ((s.cluster k).setContext c x').clearLatch
    let cl := { cl with cmds := cl.cmds.filter (fun m => !(m.ctx == c && m.isPoll)) }
    let at_ := field cl.trecBase.toNat 0 34 + 64 * c
    let cl' := cl.writeL2 at_ ((ws.map (fun w => bytesLE 8 w.toNat)).flatten) false
    s.setCluster k (cl'.passClk 24)

/-- The state of a Context after `eret` (05 R122): PC, H, the saved state, and the issue at which it resumes. Where the handler has redirected it, an epoch command of the interrupted issue blocks nothing more, and no ticket of a `gbar` that it has left stands. -/
def Context.trapReturn (x : Context) : Context :=
  let x' := match x.saved with
    | some v => { x with epochs := x.epochs.filter (fun p => decide (p.1 ≠ v.pc ∨ (v.pc = x.epc ∧ p.2.1 = field x.estat.toNat 0 6))), sticky := v.sticky, loops := v.loops, bcount := v.bcount, qpos := v.qpos, xferred := v.xferred || decide (v.pc ≠ x.epc), trapPending := if v.pc = x.epc then v.trap else none }
    | none => { x with xferred := true }
  { x' with
    tickets := x.tickets.filter (fun p => decide (p.2.1 = x.epc))
    pc := x.epc, h := false, saved := none, iter := field x.estat.toNat 0 6, skipS := x.estat.getLsbD 9 }
/-- The arrivals under way of `gbar` instructions that a return to `pc` leaves behind (15 R323). -/
def Cluster.leaveBars (c : Cluster) (i : Nat) (pc : Word) : Cluster :=
  { c with cmds := c.cmds.map (fun m => match m.instr with
    | .gbar .. => if m.ctx = i ∧ m.pc ≠ pc then { m with left := true } else m
    | _ => m) }

end Sys2Proof.Machine
end

