-- ==== Sys2Proof/Machine/Page.lean ====
section
/-! DEFINITION. Translation (19): the table walk, the TLBs, the fault ring and pending faults, invalidation. -/

namespace Sys2Proof.Machine

/-- What an access does to a page (19 R393). -/
inductive Access where
  | read | write | fetch
  deriving DecidableEq, Repr

/-- The index of a level in a virtual address (19 R390). -/
def levelIndex (level va : Nat) : Nat :=
  if level = 1 then field va 48 8 else field va (12 + 9 * (5 - level)) 9
/-- The checks of 19 R393 on a valid, good leaf: 3 privilege, 4 permission, 0 none. -/
def leafCheck (p : Word) (a : Access) (h : Bool) : Nat :=
  if !pteU p && !h then 3
  else match a with
    | .read => 0
    | .write => if pteW p then 0 else 4
    | .fetch => if pteX p then 0 else 4

/-- The result of a translation: an address with its leaf, or a cause and the level at which the walk stopped. -/
inductive Xlat where
  | ok (pa : Nat) (leaf : Word)
  | fail (cause level : Nat)
  deriving DecidableEq, Repr

/-- The entry for an address in a table entry's list: same ASID, address within its page (19 R395). -/
def tlbHit (asid : BitVec 16) (va : Nat) (e : TlbEntry) : Bool :=
  decide (e.asid = asid ∧ va / 2 ^ e.bits = e.base / 2 ^ e.bits)
/-- An entry serves an access whose checks it passes; one with D = 0 serves reads only (19 R394). -/
def tlbServes (a : Access) (h : Bool) (e : TlbEntry) : Bool :=
  decide (leafCheck e.leaf a h = 0) && (decide (a ≠ .write) || e.leaf.getLsbD 10)
def entryPa (e : TlbEntry) (va : Nat) : Nat := (pteFrame e.leaf * 4096 + va % 2 ^ e.bits) % 2 ^ 34

/-- Set A, and D for a write, by one read-modify-write of the leaf at the L2 slice, which writes the padding as zero (19 R394, 03 R81). A store to the entry that the L1D still holds comes first, and the update follows it (19 R396). -/
def Cluster.setAD (c : Cluster) (at_ : Nat) (p : Word) (wr : Bool) : Word × Cluster :=
  let ad : Word := (1 <<< 9) ||| (if wr then 1 <<< 10 else 0)
  if p ||| ad = p then (p, c)
  else
    let c := c.writeBack (linesOf at_ 8)
    (p ||| ad, c.writeL2 at_ (bytesLE 8 (setField (leNat (c.l2Bytes at_ 8) ||| ad.toNat) 40 12 0)) false)

/-- The entry that translates: itself, or, in a G64 group whose entries differ, one of the sixteen that the spec leaves open (19 R392, assumption 8). -/
def groupEntry (c : Cluster) (at_ : Nat) (p : Word) (pick : BitVec 4) : Nat × Word :=
  let base := at_ / 128 * 128
  let ent := fun (i : Nat) => (BitVec.ofNat 64 (leNat (c.l2Bytes (base + 8 * i) 8)) : Word)
  if (List.range 16).all (fun i => decide (pteCore (ent i) = pteCore p)) then (at_, p)
  else (base + 8 * pick.toNat, ent pick.toNat)

/-- The walk from a table on (19 R390-R394). `pick` chooses among differing G64 entries. -/
def Cluster.walkFrom (k : Nat) (va : Nat) (a : Access) (h : Bool) (pick : BitVec 4) :
    Nat → Nat → Nat → Cluster → Xlat × Cluster
  | 0, level, _, c => (.fail 2 level, c)
  | fuel + 1, level, table, c =>
    let at_ := table + 8 * levelIndex level va
    let (p, c) := match SMap.find c.ptrs at_ with
      | some p => (p, c)
      | none => ((BitVec.ofNat 64 (leNat (c.l2Bytes at_ 8)) : Word), c.count 0 at_ 8)
    if !pteV p then (.fail 1 level, c)
    else if pteBad k level p then (.fail 2 level, c)
    else if pteLeaf p then
      let (at_, p) := if pteG64 p then groupEntry c at_ p pick else (at_, p)
      if !pteV p then (.fail 1 level, c)
      else if pteBad k level p || !pteLeaf p then (.fail 2 level, c)
      else
        let e := leafCheck p a h
        if e ≠ 0 then (.fail e level, c)
        else
          let (p', c) := c.setAD at_ p (decide (a = .write))
          let bits := leafBits level p'
          let t : TlbEntry := { asid := field c.asid.toNat 0 16, base := va / 2 ^ bits * 2 ^ bits, bits := bits, leaf := p' }
          (.ok (entryPa t va) p', { c with tlb2 := (t :: c.tlb2).take Config.tlb2 })
    else
      let c := { c with ptrs := if c.ptrs.length < 64 then SMap.put c.ptrs at_ p else c.ptrs }
      Cluster.walkFrom k va a h pick fuel (level + 1) (pteFrame p * 4096 % 2 ^ 34) c

/-- The walk of an address (19 R390): bits [63:56] must be zero, and PTBASE must name a table of this slice. -/
def Cluster.walk (c : Cluster) (k va : Nat) (a : Access) (h : Bool) (pick : BitVec 4) : Xlat × Cluster :=
  let root := field c.ptbase.toNat 12 28
  if va / 2 ^ 56 ≠ 0 then (.fail 1 1, c)
  else if !frameOk k root 12 then (.fail 2 1, c)
  else Cluster.walkFrom k va a h pick 5 1 (root * 4096 % 2 ^ 34) c

/-- Translate one address. `core` accesses use the L1 TLB; every path uses the L2 TLB (19 R395). -/
def State.xlat (s : State) (k va : Nat) (a : Access) (h core : Bool) : Xlat × State :=
  let c := s.cluster k
  let asid : BitVec 16 := field c.asid.toNat 0 16
  let hit := fun (e : TlbEntry) => tlbHit asid va e && tlbServes a h e && decide (va / 2 ^ 56 = 0)
  match (if core then c.tlb1.find? hit else none) with
  | some e => (.ok (entryPa e va) e.leaf, s)
  | none =>
    match c.tlb2.find? hit with
    | some e =>
      (.ok (entryPa e va) e.leaf, if core then s.setCluster k { c with tlb1 := (e :: c.tlb1).take Config.tlb1 } else s)
    | none =>
      let (r, c') := c.walk k va a h (Config.freeG64 s.free)
      let c'' := match r, core, c'.tlb2 with
        | .ok _ _, true, e :: _ => { c' with tlb1 := (e :: c'.tlb1).take Config.tlb1 }
        | _, _, _ => c'
      (r, { s.setCluster k c'' with free := s.free + 1 })

/-- A piece of a range that lies within one 4 KiB page: offset in the range, physical address, length, leaf. -/
structure Chunk where
  off : Nat
  pa : Nat
  len : Nat
  leaf : Word
  deriving DecidableEq, Repr

/-- Translate a range page by page: every page before any byte moves. -/
def State.xlatFrom (k : Nat) (a : Access) (h core : Bool) : Nat → Nat → Nat → Nat → State → (Except (Nat × Nat × Nat) (List Chunk)) × State
  | 0, _, _, _, s => (.ok [], s)
  | fuel + 1, off, va, n, s =>
    if n = 0 then (.ok [], s)
    else
      let va := va % 2 ^ 64
      let len := Nat.min n (4096 - va % 4096)
      match s.xlat k va a h core with
      | (.fail cause level, s) => (.error (cause, level, va), s)
      | (.ok pa leaf, s) =>
        match State.xlatFrom k a h core fuel (off + len) (va + len) (n - len) s with
        | (.error e, s) => (.error e, s)
        | (.ok cs, s) => (.ok ({ off := off, pa := pa, len := len, leaf := leaf } :: cs), s)

def State.xlatRange (s : State) (k va n : Nat) (a : Access) (h core : Bool) : (Except (Nat × Nat × Nat) (List Chunk)) × State :=
  State.xlatFrom k a h core (n / 4096 + 2) 0 va n s

/-! The fault ring (19 R398). -/

/-- Entries of the ring: 2^LOGN. -/
def Cluster.ringSize (c : Cluster) : Nat := 2 ^ field c.frbase.toNat 0 5
/-- Entries written and not yet consumed by firmware. -/
def Cluster.ringUsed (c : Cluster) : Nat := (c.frWr - c.frRd).toNat
/-- Write one 32-byte entry at the L2 slice and advance WR. -/
def Cluster.ringWrite (c : Cluster) (va info pc pos : Word) : Cluster :=
  let at_ := (field c.frbase.toNat 12 28 * 4096 % 2 ^ 34) + 32 * (c.frWr.toNat % c.ringSize)
  let bs := bytesLE 8 (va.toNat % 2 ^ 56) ++ bytesLE 8 info.toNat ++ bytesLE 8 pc.toNat ++ bytesLE 8 pos.toNat
  { c.writeL2 at_ bs false with frWr := c.frWr + 1 }
/-- Write the entries of faults that waited for room, oldest first (19 R398). -/
def Cluster.flushRing (c : Cluster) : Cluster :=
  c.faults.foldl (fun c f =>
    match f.id with
    | some _ => c
    | none =>
      if c.ringUsed ≥ c.ringSize then c
      else
        let id : BitVec 16 := c.frWr.setWidth 16
        let info := f.info + BitVec.ofNat 64 (2 ^ 32 * id.toNat)
        let c1 := c.ringWrite f.va info f.pc f.pos
        { c1 with faults := c1.faults.map (fun g =>
            if g.waiter = f.waiter ∧ g.id = none then { g with id := some id, info := info } else g) }) c
/-- The second word of a ring entry, without ID (19 R398). -/
def ringInfo (path cause level wr ctx unit token : Nat) : Word :=
  BitVec.ofNat 64 (path + 2 ^ 4 * cause + 2 ^ 8 * level + 2 ^ 11 * wr + 2 ^ 12 * ctx + 2 ^ 14 * unit + 2 ^ 18 * token)
/-- A translation fault: its entry is written as soon as the ring has room, and it is pending from then on (19 R397-R399). -/
def State.raiseFault (s : State) (k : Nat) (w : Waiter) (va : Nat) (info pc pos : Word) : State :=
  let f : PFault := { id := none, waiter := w, va := BitVec.ofNat 64 va, info := info, pc := pc, pos := pos, answer := none }
  s.modCluster k (fun c => Cluster.flushRing { c with faults := c.faults ++ [f] })
/-- A notice, written only when at least eight entries are free (19 R398). -/
def Cluster.notice (c : Cluster) (va info pos : Word) : Cluster :=
  if c.ringUsed + 8 ≤ c.ringSize then c.ringWrite va info 0 pos else c

/-! Reads and writes through chunks. -/

/-- A page whose accesses are performed at the L2 slice (16 R326, R338). -/
def direct (leaf : Word) : Bool := pteNM leaf || pteSC leaf
def anyDirect (cs : List (List Chunk)) : Bool := cs.any (fun l => l.any (fun c => direct c.leaf))
def anySC (cs : List (List Chunk)) : Bool := cs.any (fun l => l.any (fun c => pteSC c.leaf))
/-- Bytes of a translated range as the core and its engines see them. -/
def Cluster.readChunks (c : Cluster) (cs : List Chunk) : List Byte := (cs.map (fun x => c.bytes x.pa x.len)).flatten
def Cluster.readChunksL2 (c : Cluster) (cs : List Chunk) : List Byte := (cs.map (fun x => c.l2Bytes x.pa x.len)).flatten
def Cluster.chunksPoisoned (c : Cluster) (cs : List Chunk) : Bool := cs.any (fun x => c.poisoned x.pa x.len)
/-- A mark that the core meets in a translated range. -/
def Cluster.chunksBad (c : Cluster) (cs : List Chunk) : Bool := cs.any (fun x => c.coreBad x.pa x.len)
/-- Write bytes over a translated range at the L2 slice. -/
def Cluster.writeChunks (c : Cluster) (cs : List Chunk) (bs : List Byte) (bad : Bool) : Cluster :=
  cs.foldl (fun c x => c.writeL2 x.pa ((bs.drop x.off).take x.len) bad) c
/-- Take the dirty bytes of a range out of the L1D (16 R328). -/
def Cluster.cleanChunks (c : Cluster) (cs : List Chunk) : Cluster :=
  c.writeBack ((cs.map (fun x => linesOf x.pa x.len)).flatten)
def Cluster.countChunks (c : Cluster) (cls : Nat) (cs : List Chunk) : Cluster := cs.foldl (fun c x => c.count cls x.pa x.len) c

/-- A read by an engine of the cluster, as a load of scope core: translated with H = 0, dirty bytes taken first (16 R328, 19 R393). Answers the bytes and whether a mark covers them. -/
def State.engineRead (s : State) (k va n cls : Nat) : (Except (Nat × Nat × Nat) (List Byte × Bool)) × State :=
  match s.xlatRange k va n .read false false with
  | (.error e, s) => (.error e, s)
  | (.ok cs, s) =>
    let c := ((s.cluster k).cleanChunks cs).countChunks cls cs
    (.ok (c.readChunksL2 cs, c.chunksPoisoned cs), s.setCluster k c)
/-- A read by a die controller: translated like an engine's, it sees what the L2 slice holds, and no byte that only the L1D has (16 R328). -/
def State.dieRead (s : State) (k va n : Nat) : (Except (Nat × Nat × Nat) (List Byte × Bool)) × State :=
  match s.xlatRange k va n .read false false with
  | (.error e, s) => (.error e, s)
  | (.ok cs, s) => (.ok ((s.cluster k).readChunksL2 cs, (s.cluster k).chunksPoisoned cs), s)
/-- A write by an engine of the cluster, performed at the L2 slice (16 R326). -/
def State.engineWrite (s : State) (k va cls : Nat) (bs : List Byte) (bad : Bool) : (Except (Nat × Nat × Nat) Unit) × State :=
  match s.xlatRange k va bs.length .write false false with
  | (.error e, s) => (.error e, s)
  | (.ok cs, s) => (.ok (), s.setCluster k (((s.cluster k).writeChunks cs bs bad).countChunks cls cs))

/-! Invalidation (19 R403). -/

/-- Remove the TLB entries that a test names, and, where asked, every walker pointer entry. Dirty lines are written back first. -/
def Cluster.invalidate (c : Cluster) (p : TlbEntry → Bool) : Cluster :=
  { c.writeBackAll with tlb1 := c.tlb1.filter (fun e => !p e), tlb2 := c.tlb2.filter (fun e => !p e), ptrs := [] }

/-! Firmware's answers to pending faults (19 R399). -/

/-- A code that firmware delivers: a reserved value becomes ILLEGAL (21 R423). -/
def deliveredCode (code : BitVec 16) : BitVec 16 := if 20 ≤ code.toNat then cILLEGAL else code
/-- A faulted Context becomes READY: to attempt its issue again, or with a trap pending (05 R104). -/
def Context.answerFault (x : Context) (now : Nat) (f : PFault) (answer : Option (BitVec 16)) : Context :=
  match answer with
  | none => { x with st := .ready, release := now }
  | some code =>
    { x with
      st := .ready, release := now
      trapPending := some { Trap.slotTrap (deliveredCode code) 7 x.iter with src := 4, addr := f.va } }
/-- FRCTL (19 R389, R399): act on the pending fault `id`. `answer` is none to replay, or the code to deliver. A walk whose fault is answered so attempts its access again, or ends in error, itself. -/
def Cluster.frctl (c : Cluster) (id : BitVec 16) (answer : Option (BitVec 16)) : Cluster :=
  match c.faults.find? (fun f => f.id == some id) with
  | none => c
  | some f =>
    let gone := { c with faults := c.faults.filter (fun g => g.id != some id) }
    match f.waiter with
    | .ctx i =>
      let x := c.context i
      if x.st = .fault then gone.setContext i (x.answerFault c.clk f answer)
      else if x.inFault then
        { c with faults := c.faults.map (fun g => if g.id = some id then { g with answer := some answer } else g) }
      else gone
    | .cmd m =>
      { gone with cmds := gone.cmds.map (fun q => if q.id = m then { q with fault := false, delivered := answer } else q) }
    | .chan n =>
      let h := c.chan n
      { gone.setChan n { h with st := if h.st = .firmware then .walk else h.st } with
        cmds := gone.cmds.map (fun q => if h.st = .firmware ∧ h.cmd = some q.id then { q with delivered := answer } else q) }
    | .push _ => gone

end Sys2Proof.Machine
end

