-- ==== Sys2Proof/Machine/Operands.lean ====
section
/-! DEFINITION. What one slot of an issue sees and does: operand reads with their interlocks, guards, addresses, Port reads and allocations (03, 06 R125-R127, 08 R174-R181). -/

namespace Sys2Proof.Machine

/-- Why a slot cannot act in this attempt (03 R59). -/
inductive Stop where
  /-- An interlocked operand has not arrived: the issue stalls (06 R126). -/
  | wait
  /-- A precise trap; the flag asks for SKIPS (05 R122). -/
  | trap (t : Trap) (skips : Bool)
  /-- A stall that holds the core (08 R179, R187). -/
  | stall
  /-- The Context blocks, waiting on some commands; `keep` is a state change that stands although the issue blocks (12 R284, 15 R323, 17 R352). -/
  | block (cause : Cause) (eng : Engine) (on : List Nat) (keep : Option (State → State))
  /-- An access of the issue faults in translation: the Context goes to FAULT (05 R104); `walked` is what the walks have done by then (19 R394, R400). -/
  | fault (va : Nat) (info : Word) (walked : State → State)

/-- How an instruction uses a Port in one issue (08 R177, R178). -/
structure PUse where
  port : Nat
  pops : Nat
  reads : Bool
  need : Nat
  alloc : Nat
  deriving DecidableEq, Repr

/-- One slot's view of an issue: the state at its start, its place, its word's issue number, and the issue's Port uses. -/
structure Issue where
  pre : State
  k : Nat
  c : Nat
  slot : Slot
  instr : Instr
  n : BitVec 32
  iter : Nat
  rep : Nat
  pc : Word
  len : Nat
  uses : List PUse

/-- What happens to the Context once every slot has acted. -/
inductive After where
  | stay
  /-- `endt` completed. -/
  | ended
  /-- `yield` with its continuation record. -/
  | yielded (rcd : BitVec 512)
  /-- `eret`. -/
  | returned
  /-- The Context parked itself. -/
  | park
  deriving DecidableEq, Repr

/-- The state as the slots of an issue build it. -/
structure Work where
  st : State
  jump : Option Word
  after : After
  /-- Changes that take effect for the next issue only (08 R200). -/
  ports : List (Nat × Port)
  gens : List (Nat × Gen)
  /-- Overhead clk beyond the ic. -/
  extra : Nat
  /-- Clk that the issue waits beyond its ic, counted as idle (16 R330). -/
  idle : Nat
  /-- `vcvts` words that have acted in this issue (02 R44). -/
  srUses : Nat

abbrev Res := Except Stop Work
/-- What a slot word does in an issue. -/
abbrev Effect := Issue → Work → Res

def Issue.x (ι : Issue) : Context := ι.pre.context ι.k ι.c
def Issue.cl (ι : Issue) : Cluster := ι.pre.cluster ι.k
def Work.modX (w : Work) (ι : Issue) (f : Context → Context) : Work := { w with st := w.st.modContext ι.k ι.c f }
def Work.modCl (w : Work) (ι : Issue) (f : Cluster → Cluster) : Work := { w with st := w.st.modCluster ι.k f }
def Work.x (w : Work) (ι : Issue) : Context := w.st.context ι.k ι.c
def Work.cl (w : Work) (ι : Issue) : Cluster := w.st.cluster ι.k

/-- A held write takes effect at a byte of a range of the slice. -/
def HeldWrite.touches (h : HeldWrite) (pa n : Nat) : Bool :=
  if h.rmw.isSome then overlap pa n h.pa h.len else h.bytes.any (fun b => decide (pa ≤ b.1 ∧ b.1 < pa + n))
/-- A held write of the Context to a byte of the access comes first (16 R329). -/
def Issue.heldBytes (ι : Issue) (cs : List (List Chunk)) : Except Stop Unit :=
  if ι.cl.heldWrites.any (fun h => h.ctx == ι.c && cs.any (fun l => l.any (fun x => h.touches x.pa x.len))) then .error .stall else .ok ()
/-- A precise trap of this slot (03 R59). -/
def Issue.trapOf (ι : Issue) (code : BitVec 16) : Trap := Trap.slotTrap code (slotCode ι.slot) ι.iter
def Issue.fail {α : Type} (ι : Issue) (code : BitVec 16) : Except Stop α := .error (.trap (ι.trapOf code) false)
def Issue.failAt {α : Type} (ι : Issue) (code : BitVec 16) (a : Word) : Except Stop α :=
  .error (.trap ((ι.trapOf code).withAddr a) false)
/-- POISON at a register's first reader, with the origin of the value (21 R425). -/
def Issue.poisonTrap {α : Type} (ι : Issue) (o : Origin) : Except Stop α :=
  .error (.trap { ι.trapOf cPOISON with
    src := 3, handle := o.handle, origPc := o.pc, origIter := o.iter, opcode := o.opcode, addr := o.addr } false)

/-! Operand reads (03 R60, 06 R126, 17 R360). -/

def Context.flying (x : Context) (d : Dest) : Bool := x.flights.any (fun f => f.dest == d)
/-- A predicate that a load has still to write (08 R191). -/
def Context.predLoading (x : Context) (r : Reg4) : Bool := x.flights.any (fun f => f.load && f.dest == .p r)

/-- An s-register, read once every result in flight for it has landed (06 R126, assumption 75), and the remote return that it awaits has come. -/
def Issue.rs (ι : Issue) (r : SReg) : Except Stop Word :=
  if r = 0 then .ok 0
  else if ι.x.flying (.s r) then .error .wait
  else match SMap.find ι.x.sWait r.toNat with
    | some m => .error (.block .handle .network [m] none)
    | none =>
      match SMap.find ι.x.sBad r.toNat with
      | some o => ι.poisonTrap o
      | none => .ok (ι.x.sreg r)
/-- An s-register whose value can make the word ILLEGAL, which is reported before any other fault of its slot (03 R59): `ok` says which values do not. -/
def Issue.rsLegal (ι : Issue) (r : SReg) (ok : Word → Bool) : Except Stop Word :=
  match ι.rs r with
  | .error (.trap t k) => if ok (ι.x.sreg r) then .error (.trap t k) else ι.fail cILLEGAL
  | e => e
/-- A word none of whose a-registers is still to be written by a result in flight. -/
def Issue.raReady (ι : Issue) (rs : List Reg4) : Except Stop Unit := if rs.any (fun r => ι.x.flying (.a r)) then .error .wait else .ok ()
def Issue.ra (ι : Issue) (r : Reg4) : Except Stop Word :=
  if ι.x.flying (.a r) then .error .wait
  else match SMap.find ι.x.aBad r.toNat with
    | some o => ι.poisonTrap o
    | none => .ok (ι.x.areg r)
def Issue.rp (ι : Issue) (r : Reg4) : Except Stop Mask :=
  if ι.x.predLoading r then .error .wait
  else match SMap.find ι.x.pBad r.toNat with
    | some o => ι.poisonTrap o
    | none => .ok (ι.x.preg r)
/-- An s-register that awaits a remote return may not be written (17 R360). -/
def Issue.ws (ι : Issue) (r : SReg) : Except Stop Unit :=
  match SMap.find ι.x.sWait r.toNat with
  | some m => .error (.block .handle .network [m] none)
  | none => .ok ()

/-- The guard of an S-slot, E-slot or plain A-slot word: act when lane 0 is enabled (03 R75). -/
def Issue.guarded (ι : Issue) (g : Reg4) (w : Work) (act : Work → Res) : Res :=
  match ι.rp g with
  | .error e => .error e
  | .ok m => if lane m 0 then act w else .ok w

/-! Results. -/

def Work.fly (w : Work) (ι : Issue) (f : Flight) : Work := w.modX ι (fun x => { x with flights := x.flights ++ [f] })
def flightS (r : SReg) (v : Word) (d : Nat) : Flight :=
  { dest := .s r, data := v.setWidth 8192, poison := none, pace := .clk, remain := d, load := false }
def flightA (r : Reg4) (v : Word) (d : Nat) : Flight :=
  { dest := .a r, data := v.setWidth 8192, poison := none, pace := .clk, remain := d, load := false }
/-- A pair of predicates, usable 3 ic after its issue, and no sooner by idle clk (03 R76, 06 R126, 07 R162, assumption 62). -/
def flightPair (e : Reg4) (m lanes : Mask) : Flight :=
  { dest := .pair e lanes, data := m.setWidth 8192, poison := none, pace := .issue, remain := 3, load := false }
/-- A scalar result due `d` clk after its issue (04 R97); s0 takes none. -/
def Issue.putS (ι : Issue) (r : SReg) (v : Word) (d : Nat) (w : Work) : Res := do
  ι.ws r
  if r = 0 then .ok w else .ok (w.fly ι (flightS r v d))
def Issue.putA (ι : Issue) (r : Reg4) (v : Word) (w : Work) : Res := .ok (w.fly ι (flightA r v 1))
/-- Lanes of a predicate pair that a flight writes, noted for the look-ahead (03 R77). -/
def Issue.putLanes (ι : Issue) (e : Reg4) (f : Flight) (w : Work) : Res :=
  .ok ((w.fly ι f).modX ι (fun x =>
    { x with predWrites := (ι.cl.ic, e.toNat) :: (ι.cl.ic, e.toNat + 1) :: x.predWrites }))

/-- The effective address of an A-slot word (03 R62). -/
def stepAddr (base : Word) (off : BitVec 20) (step : BitVec 12) (n : BitVec 32) (bytes : Nat) : Word :=
  base + sx64 off + BitVec.ofInt 64 (step.toInt * n.toNat * bytes)
def Issue.ea (ι : Issue) (m : AMem) : Except Stop Word := do
  let b ← ι.ra m.b
  .ok (stepAddr b m.off m.step ι.n m.w.bytes)

def Issue.putPair (ι : Issue) (e : Reg4) (m : Mask) (w : Work) : Res := ι.putLanes e (flightPair e m (BitVec.allOnes 256)) w

/-! Ports (08 R175-R181). -/

/-- Entries that an issue requires of a Port it reads (08 R178). -/
def required (uses : List PUse) (c m : Nat) : Nat :=
  let us := uses.filter (fun u => u.port == c && u.reads)
  let p := (us.map (·.pops)).foldl (· + ·) 0
  let q := (us.map (·.need)).foldl Nat.max 1
  Nat.max p 1 * Nat.min q m

/-- Whether a read of Port `c` is admitted, and if not how it waits; a Context that this Port's vector results blocked stays so until every required entry is ready (08 R179). -/
def Issue.portRead (ι : Issue) (c : Nat) : Except Stop Unit :=
  let x := ι.x
  let req := required ι.uses c (ι.rep + 1 - ι.iter)
  if !x.portOn c then ι.fail cPORT
  else if req ≤ x.fill c then .ok ()
  else if 12 ≤ c then .error (.block .portEmpty .matrix [] none)
  else if x.fill c + x.pend c + (x.port c).gen.left < req then ι.fail cPORT
  else if ((x.port c).entries.take req).any (fun e => !e.ready && e.fromV) then .error (.block .portEmpty .matrix [c] none)
  else if x.st = .blocked ∧ x.cause = some .portEmpty ∧ x.awaits.contains c then .error (.block .portEmpty .matrix [c] none)
  else .error .stall
/-- Whether the issue's allocations into Port `c` are admitted (08 R177). -/
def Issue.portAlloc (ι : Issue) (c : Nat) : Except Stop Unit :=
  let x := ι.x
  let allocs := ((ι.uses.filter (·.port == c)).map (·.alloc)).foldl (· + ·) 0
  let pops := ((ι.uses.filter (·.port == c)).map (·.pops)).foldl (· + ·) 0
  if !x.portOn c then ι.fail cPORT
  else if (x.port c).gen.active then ι.fail cPORT
  else if x.room c + pops < allocs then .error (.block .portFull .matrix [] none)
  else .ok ()

/-- Remove `n` entries from the head; they count as taken (08 R182), also while no generator is set (assumption 91). -/
def Port.drop (p : Port) (n : Nat) : Port :=
  { p with entries := p.entries.drop n, gen := { p.gen with taken := p.gen.taken + n } }
/-- The Ports without the entries that a word pops: a word of the issue that stops leaves them to no later word (08 R181). -/
def Work.popped (w : Work) (k c : Nat) (us : List PUse) : Work :=
  { w with st := us.foldl (fun s u => s.modContext k c (fun x => x.setPort u.port ((x.port u.port).drop u.pops))) w.st }
/-- Pop the head of Port `c` (03 R79); a poisoned entry traps and stays (08 R180). -/
def Issue.pop (ι : Issue) (c : Nat) (w : Work) : Except Stop (Vec × Work) := do
  ι.portRead c
  match ((w.x ι).port c).entries with
  | [] => ι.fail cPORT
  | e :: _ =>
    if e.poison then ι.fail cPOISON
    else .ok (e.data, w.modX ι (fun x => x.setPort c ((x.port c).drop 1)))
/-- Peek at the head as it stood at the start of the issue (08 R181). -/
def Issue.peek (ι : Issue) (c : Nat) : Except Stop Vec := do
  ι.portRead c
  match (ι.x.port c).entries with
  | [] => ι.fail cPORT
  | e :: _ => if e.poison then ι.fail cPOISON else .ok e.data
/-- Claim a pending entry at the tail of Port `c` (08 R175). -/
def Issue.alloc (ι : Issue) (c : Nat) (fromV : Bool) (w : Work) : Except Stop (Nat × Work) := do
  ι.portAlloc c
  let p := (w.x ι).port c
  let e : PEntry := { id := p.nextId, ready := false, poison := false, fromV := fromV, data := 0 }
  .ok (p.nextId, w.modX ι (fun x => x.setPort c { p with entries := p.entries ++ [e], nextId := p.nextId + 1 }))

/-- The Ports that a V word names among its sources, each once (03 R61). -/
def vPorts (f : VF) : List Nat := ([f.s1, f.s2, f.s3].filter isPort |>.map (fun x => x.toNat - 16)).eraseDups
/-- The Port uses of a slot instruction whose guard is `m` (08 R177, R178). -/
def portUses (x : Context) (i : Instr) (m : Mask) : List PUse :=
  let on := lane m 0
  let any := m != 0
  let pop := fun (c k : Nat) => ({ port := c, pops := k, reads := true, need := 0, alloc := 0 } : PUse)
  let put := fun (c : Nat) => ({ port := c, pops := 0, reads := false, need := 0, alloc := 1 } : PUse)
  match i with
  | .ldv _ c => if any then [put c.toNat] else []
  | .stv _ c => if any then [pop c.toNat 1] else []
  | .ldg _ c => if any then [put c.toNat, pop (x.port c.toNat).idx 1] else []
  | .sts _ c => if any then [pop c.toNat 1, pop (x.port c.toNat).idx 1] else []
  | .ldb _ _ c => if on then [put c.toNat] else []
  | .stb _ _ c => if on then [pop c.toNat 1] else []
  | .padv _ c k => if on then [pop c.toNat k.toNat] else []
  | _ => []
/-- The Port uses of a V word. -/
def vPortUses (f : VF) (m : Mask) : List PUse :=
  if m = 0 then []
  else (vPorts f).map (fun c => { port := c, pops := if f.peek then 0 else 1, reads := true, need := f.need.toNat, alloc := 0 })
    ++ (if isPort f.d then [{ port := f.d.toNat - 16, pops := 0, reads := false, need := 0, alloc := 1 }] else [])

/-! Loads' times (04 R98). -/

/-- The clk until load data arrives: the earliest time, and what the environment adds (assumption 10). -/
def Work.lag (w : Work) (base : Nat) : Nat × Work :=
  match w.st.lags with
  | [] => (base, w)
  | l :: t => (base + l, { w with st := { w.st with lags := t } })

end Sys2Proof.Machine
end

