-- ==== Sys2Proof/Machine/Flags.lean ====
section
/-! DEFINITION. Conditions, predicates and guards: comparisons (06 R139), predicate pairs (06 R137), stage predicates (03 R66), the look-ahead nullifier (03 R77, R78), and the properties of a word found at decode (03 R63, R65, 04 R93, 05 R110). -/

namespace Sys2Proof.Machine

/-- Whether a condition holds between two values of `n` bits (06 R139). -/
def condHolds (n : Nat) (cc : Cond) (x y : Nat) : Bool :=
  let x := x % 2 ^ n
  let y := y % 2 ^ n
  let sx := sintOf n x
  let sy := sintOf n y
  match cc with
  | .eq => decide (x = y)
  | .ne => decide (x ≠ y)
  | .lt => decide (sx < sy)
  | .ge => decide (sx ≥ sy)
  | .le => decide (sx ≤ sy)
  | .gt => decide (sx > sy)
  | .ltn => decide (x < y)
  | .gen => decide (x ≥ y)
  | .len => decide (x ≤ y)
  | .gtn => decide (x > y)
/-- All lanes or none (06 R139). -/
def allLanes (b : Bool) : Mask := if b then BitVec.allOnes 256 else 0
/-- The lanes from `first`, `count` of them (06 R141). -/
def laneRun (first count : Nat) : Mask := BitVec.ofNat 256 ((2 ^ count - 1) * 2 ^ first)
def popCount (n : Nat) (v : Nat) : Nat := ((List.range n).filter (fun i => v.testBit i)).length

/-- The predicates that an instruction writes by itself (05 R110). -/
def predsWritten : Instr → List Nat
  | .cmp _ e _ _ _ => [e.toNat, e.toNat + 1]
  | .cmpi _ e _ _ _ => [e.toNat, e.toNat + 1]
  | .pand _ e _ _ => [e.toNat, e.toNat + 1]
  | .por _ e _ _ => [e.toNat, e.toNat + 1]
  | .pxor _ e _ _ => [e.toNat, e.toNat + 1]
  | .pandn _ e _ _ => [e.toNat, e.toNat + 1]
  | .psetImm _ e _ _ => [e.toNat, e.toNat + 1]
  | .psetReg _ e _ => [e.toNat, e.toNat + 1]
  | .ttestPred _ e _ _ _ _ => [e.toNat, e.toNat + 1]
  | .ttestPredReg _ e _ => [e.toNat, e.toNat + 1]
  | .htestPred _ _ e _ _ _ _ => [e.toNat, e.toNat + 1]
  | .htestPredReg _ _ e _ => [e.toNat, e.toNat + 1]
  | .ld _ (.p r) => [r.toNat]
  | .loopSwp .. => [8, 9, 10, 11, 12, 13, 14, 15]
  | .vcmp f => if immE f = 0 then [] else [(immE f).toNat, (immE f).toNat + 1]
  | .vfcmp f => if immE f = 0 then [] else [(immE f).toNat, (immE f).toNat + 1]
  | .vclass f => if immE f = 0 then [] else [(immE f).toNat, (immE f).toNat + 1]
  | _ => []

/-- Operations that may not stand in a repeated bundle (03 R63, R65). -/
def nonRepeatable (sl : Slot) (i : Instr) : Bool :=
  match sl with
  | .s => true
  | _ =>
    match i with
    | .fence .. | .waitm .. | .pcfg .. | .pwaitFill .. | .pwaitFree .. | .pquery .. | .agset .. | .agsetDetach .. | .tlbinv .. | .tlbinvAll ..
    | .tlbinvAsid .. | .mxcfgLoad .. | .mxcfgStore .. | .xcfg .. | .chset .. | .tjoin .. | .wfence .. | .wpost .. | .wstart ..
    | .wcomplete .. | .wwait .. | .wlock .. | .wunlock .. | .wexpose .. | .wrevoke .. | .nmbias .. | .nmfence .. | .gdisp .. | .hem .. => true
    | _ => false

/-- Control registers that only privileged code writes (05 R107, 12 R280, 19 R389, 20 R417). -/
def ctlPrivileged (num : Nat) : Bool := decide (0x40 ≤ num)
/-- Privileged operations (04 R93), and an `mts` to a PW register (05 R118). -/
def privileged : Instr → Bool
  | .eret .. | .rdtr .. | .ctxsave .. | .ctxload .. | .park .. | .ptest .. | .tlbinv .. | .tlbinvAll .. | .tlbinvAsid .. => true
  | .mts _ _ num => ctlPrivileged num.toNat
  | _ => false

/-- The guard predicate of a slot instruction. -/
def guardOf (i : Instr) : Reg4 := (wordOf i).extractLsb' 60 4

/-- What decode finds wrong with an instruction in a slot of a bundle, whatever its guard (03 R75, R80): ILLEGAL before PRIV. `sticky` words were checked when they were present; the stage-mode check is made at every issue (05 R110). -/
def decodeFault (x : Context) (sl : Slot) (i : Instr) (rep : Nat) (sticky : Bool) : Option (BitVec 16) :=
  if !sticky && (!legal i || (decide (rep ≠ 0) && nonRepeatable sl i)) then some cILLEGAL
  else if x.mode && (predsWritten i).any (fun p => decide (8 ≤ p)) then some cILLEGAL
  else if !sticky && privileged i && !x.h then some cPRIV
  else none

/-! RSTEP (03 R66). -/

/-- The shift of the stage predicates and FEED. -/
def Context.stageShift (x : Context) : Context :=
  if x.mode then
    let p' := (List.range 7).foldl (fun p i => SMap.set 0 p (15 - i) (SMap.get 0 x.p (14 - i))) x.p
    let b' := (List.range 7).foldl (fun p i =>
      match SMap.find x.pBad (14 - i) with
      | some o => SMap.put p (15 - i) o
      | none => SMap.del p (15 - i)) x.pBad
    { x with
      p := SMap.set 0 p' 8 (if x.feed ≠ 0 then BitVec.allOnes 256 else 0)
      pBad := SMap.del b' 8
      feed := if x.feed ≠ 0 then x.feed - 1 else 0 }
  else x
/-- ROT steps down by one, and in stage mode the stage predicates shift. -/
def Context.rstep (x : Context) : Context := { x.stageShift with rot := x.rot - 1 }

/-! Look-ahead (03 R77). -/

/-- No instruction issued at an ic t with lo < t ≤ hi writes predicate `p`. -/
def quietPred (x : Context) (p : Nat) (lo hi : Int) : Bool :=
  x.predWrites.all (fun w => decide (w.2 ≠ p) || decide ((w.1 : Int) ≤ lo) || decide (hi < (w.1 : Int)))
def quietAt (o : Option Int) (lo hi : Int) : Bool :=
  match o with
  | none => true
  | some t => decide (t < lo) || decide (hi < t)
/-- The guard `p` is settled for an issue at ic `i` (03 R77). -/
def settled (x : Context) (p i : Nat) : Bool :=
  quietPred x p ((i : Int) - 6) ((i : Int) - 3) && quietAt x.lastXfer ((i : Int) - 3) ((i : Int) - 1)
    && quietAt x.lastStage ((i : Int) - 3) ((i : Int) - 1)
/-- The guard `p` is settled for every later issue of the bundle too (03 R78). A `loop.swp` that its guard disabled has changed nothing and is not counted (assumption 78). -/
def settledLater (x : Context) (p i : Nat) : Bool :=
  quietPred x p ((i : Int) - 6) ((i : Int) - 1) && quietAt x.lastStage ((i : Int) - 5) ((i : Int) - 1)

end Sys2Proof.Machine
end

