-- ==== Sys2Proof/Machine/Rdma.lean ====
section
/-! DEFINITION. The queue pairs of the host port (20 R419): Reliable Connected service as RoCEv2 defines it (00 R3), as far as the manual's limits and answers need it. An event of a request names its queue pair in `arg.c`, its sequence number in `arg.j` and the key it shows in bits [63:32] of `arg.v` (assumption 70). -/

namespace Sys2Proof.Machine

def State.qpair (s : State) (q : Nat) : QPair := SMap.get QPair.reset s.qps q
def State.setQpair (s : State) (q : Nat) (x : QPair) : State := { s with qps := SMap.put s.qps q x }
/-- The port answers a request. -/
def State.answered (s : State) (os : List Output) : State := { s with outbox := s.outbox ++ os }
/-- The key that the event shows is that of a memory region: 0 the control region, 1 + k aperture k (20 R420). -/
def State.keyOk (s : State) (region : Nat) : Bool := SMap.get 0 s.keys region == s.arg.v.extractLsb' 32 32
/-- The request's number is behind the one that its queue pair expects: it has been taken before. -/
def State.behind (s : State) : Bool :=
  let x := s.qpair s.arg.c
  decide (s.arg.j ≠ x.psn ∧ (x.psn + 2 ^ 24 - s.arg.j % 2 ^ 24) % 2 ^ 24 < 2 ^ 23)
/-- A request takes its place on its queue pair: a number ahead of the one expected gets a sequence NAK, one behind it an acknowledgement, once its packet has one; a pair that is not connected gives no answer, and a pair beyond the 64 that there are a NAK (16 R343, 20 R419, R422, assumptions 70 and 87). None where the request is the one expected. -/
def State.outOfTurn (s : State) : Option (List Output) :=
  let x := s.qpair s.arg.c
  if !s.hostUp then some []
  else if Config.queuePairs ≤ s.arg.c then some [.hostInvalid]
  else if !x.on then some []
  else if s.arg.j = x.psn then none
  else if !s.behind then some [.hostNak s.arg.c x.psn]
  else if x.held.any (fun p => p.1 == s.arg.j) then some []
  else some [.hostAck]
/-- An RDMA READ that was taken before, on a connected pair: the port executes it again (assumption 70). -/
def State.readsAgain (s : State) : Bool :=
  s.hostUp && decide (s.arg.c < Config.queuePairs) && (s.qpair s.arg.c).on && s.behind
/-- A connection ends or begins anew: its unfinished write is dropped from the buffers, and nothing that it has sent is acknowledged any more (assumption 70). -/
def State.reconnect (s : State) (q : Nat) (x : QPair) : State :=
  let old := s.qpair q
  let keep := fun (g : Ingress) => g.last || (match old.msg with | some m => g.msg != m.id | none => true)
  let t : State := { s with
    clusters := s.clusters.map (fun p => (p.1, { p.2 with ingress := p.2.ingress.filter keep }))
    stagingBuf := (s.stagingBuf.filter (fun p => keep p.2)).map (fun p => (p.1, if p.2.qp = q then { p.2 with psns := [] } else p.2)) }
  t.setQpair q x
/-- A NAK after which the responder's queue pair is in error: it answers nothing until it is connected again. -/
def Output.closes : Output → Bool
  | .hostError | .hostInvalid => true
  | _ => false
/-- A request is answered and has no other effect; an invalid request and a refused access leave the pair in error (20 R419). -/
def State.refused (s : State) (os : List Output) : State :=
  let s1 := s.answered os
  if s.arg.c < Config.queuePairs ∧ os.any Output.closes then s1.reconnect s.arg.c { s.qpair s.arg.c with on := false, msg := none, held := [] } else s1
/-- Packets of a pair reach an ingress buffer: those are acknowledged that no earlier packet of the pair holds back (16 R343, 20 R422). -/
def QPair.entered (x : QPair) (psns : List Nat) : QPair × Nat :=
  let h := x.held.map (fun p => (p.1, p.2 || psns.contains p.1))
  ({ x with held := h.dropWhile (·.2) }, (h.takeWhile (·.2)).length)
def State.entered (s : State) (q : Nat) (psns : List Nat) : State :=
  if psns.isEmpty then s
  else
    let r := (s.qpair q).entered psns
    (s.setQpair q r.1).answered (List.replicate r.2 .hostAck)
/-- A request of `n` sequence numbers is taken on its queue pair, with the port's answers. -/
def State.taken (s : State) (n : Nat) (os : List Output) : State :=
  let x := s.qpair s.arg.c
  (s.setQpair s.arg.c { x with psn := (x.psn + n) % 2 ^ 24 }).answered os
/-- What refuses a request of one packet to a memory region, or to the mailbox where no region is named: its turn, a message in progress on its pair, or its key. Its answer would acknowledge what came before on its pair, so it gets none while an earlier write stands in the staging buffer (16 R343). -/
def State.refusal (s : State) (region : Option Nat) : Option (List Output) :=
  s.outOfTurn.or (
    if (s.qpair s.arg.c).msg.isSome then some [.hostInvalid]
    else if !(s.qpair s.arg.c).held.isEmpty then some []
    else if (match region with | some r => s.keyOk r | none => true) then none else some [.hostError])
/-- The state once a write of one packet has been taken and acknowledged. -/
def State.acked (s : State) : State := s.taken 1 [.hostAck]
/-- A write of one packet of `n` bytes to the control region, whose key it shows (20 R420): the port acknowledges it and it acts. -/
def State.controlWrite (s : State) (n : Nat) (act : State → State) : State :=
  match s.refusal (some 0) with
  | some os => s.refused os
  | none => if Config.mtu < n then s.refused [.hostInvalid] else act s.acked

end Sys2Proof.Machine
end

