-- ==== Sys2Proof/Machine/Issue.lean ====
section
/-! DEFINITION. One issue of a bundle (03 R59-R66): all or nothing, its header effects, the loop unit's back edges (05 R111), and what becomes of the Context (05 R104). -/

namespace Sys2Proof.Machine

/-! Host ingress (16 R342). -/

/-- The bytes of an ingress buffer that writes hold, those still to arrive included. -/
def Cluster.ingressUsed (c : Cluster) : Nat := (c.ingress.map (·.len)).foldl (· + ·) 0
/-- Let writes that wait in the staging buffer into an ingress buffer that has room, in order, and acknowledge them (20 R422, 16 R343). -/
def State.drainStaging (s : State) (k : Nat) : State :=
  let r := s.stagingBuf.foldl (fun (a : State × List (Nat × Ingress) × Bool) p =>
    if p.1 = k ∧ a.2.2 ∧ (a.1.cluster k).ingressUsed + p.2.len ≤ Config.ingressBytes then
      ((a.1.modCluster k (fun c => { c with ingress := c.ingress ++ [{ p.2 with qp := 0, psns := [] }] })).entered p.2.qp p.2.psns, a.2.1, true)
    else (a.1, a.2.1 ++ [p], a.2.2 && decide (p.1 ≠ k))) (s, [], true)
  { r.1 with stagingBuf := r.2.1 }
/-- Apply the pending writes, those whose last byte has arrived, that satisfy a test, in arrival order, each at the L2 slice. Answers the bytes applied. -/
def State.applyIngress (s : State) (k : Nat) (p : Ingress → Bool) : Nat × State :=
  let c := s.cluster k
  let due := fun (g : Ingress) => g.last && p g
  let gs := c.ingress.filter due
  let c1 := gs.foldl (fun c g => (c.writeL2 g.pa g.bytes false).count 2 g.pa g.bytes.length) c
  let s1 := s.setCluster k { c1 with ingress := c.ingress.filter (fun g => !due g) }
  ((gs.map (fun g => g.bytes.length)).foldl (· + ·) 0, s1.drainStaging k)

/-! The words of an issue. -/

/-- The header of the bundle in issue. -/
structure Header where
  rep : Nat
  hwin : Bool
  keep : Bool
  rstep : Bool
  rsv : BitVec 18
  len : Nat
  deriving DecidableEq, Repr

/-- A word that takes part in an issue: present in the bundle, or sticky. -/
structure Item where
  slot : Slot
  word : Word
  res : Except Reject Instr
  n : BitVec 32
  sticky : Bool
  eff : Effect

/-- The V fields of a word. -/
def vfOfWord (sl : VSlot) (w : Word) : VF :=
  let x := VWord.unpack w
  { slot := sl, g := x.g, d := x.d, s1 := x.s1, s2 := x.s2, s3 := x.s3, ty := x.ty, rnd := x.rnd, ftz := bit x.ftz, peek := bit x.peek,
    need := x.need, imm := x.imm }

/-- The Port uses of an item (08 R177, R178). -/
def Item.uses (x : Context) (it : Item) : List PUse :=
  match it.res with
  | .error _ => []
  | .ok i =>
    let m := x.preg (guardOf i)
    match it.slot with
    | .v0 => vPortUses (vfOfWord .v0 it.word) m
    | .v1 => vPortUses (vfOfWord .v1 it.word) m
    | _ => portUses x i m

/-- What one item does in the issue: its decode faults first, then its effect (03 R59, R75). -/
def Item.run (s : State) (k c : Nat) (h : Header) (uses : List PUse) (it : Item) (w : Work) : Res :=
  let x := s.context k c
  let t := fun (code : BitVec 16) => (Except.error (.trap (Trap.slotTrap code (slotCode it.slot) x.iter) false) : Res)
  match it.res with
  | .error _ => t cILLEGAL
  | .ok i =>
    match decodeFault x it.slot i h.rep it.sticky with
    | some code => t code
    | none =>
      it.eff { pre := s, k := k, c := c, slot := it.slot, instr := i, n := it.n, iter := x.iter, rep := h.rep, pc := x.pc, len := h.len,
               uses := uses } w

/-- The stop that prevails: an operand still to arrive first, then the first trap in slot order, then the first block, then a stall (03 R59, assumption 32). -/
def worseStop (a : Option Stop) (b : Stop) : Stop :=
  match a, b with
  | none, b => b
  | some .wait, _ => .wait
  | some _, .wait => .wait
  | some (.trap t k), _ => .trap t k
  | some _, .trap t k => .trap t k
  | some .stall, b => b
  | some (.block .portEmpty g on k), .block .portEmpty _ on' _ => .block .portEmpty g (on ++ on') k
  | some a, _ => a
/-- Go on with the first of two operands of one word; where it stops the word, the other may stop it with what prevails (03 R59, assumption 32). -/
def firstOf {α β γ : Type} (a : Except Stop α) (other : Except Stop β) (go : α → Except Stop γ) : Except Stop γ :=
  match a, other with
  | .ok v, _ => go v
  | .error e, .ok _ => .error e
  | .error e, .error e' => .error (worseStop (some e) e')

/-- Run the items in slot order; every item is tried, so that a trap of a later slot is found, with the entries before it popped (08 R181). -/
def runItems (s : State) (k c : Nat) (h : Header) (uses : List PUse) : List Item → Option Stop → Work → Res
  | [], none, w => .ok w
  | [], some e, _ => .error e
  | it :: t, st, w =>
    match it.run s k c h uses w with
    | .ok w' => runItems s k c h uses t st w'
    | .error e => runItems s k c h uses t (some (worseStop st e)) (w.popped k c (it.uses (s.context k c)))

/-- One attempt at an issue by Context `c` of cluster `k`. -/
def attempt (s : State) (k c : Nat) (h : Header) (items : List Item) : Res :=
  let x := s.context k c
  if h.rsv ≠ 0 then .error (.trap (Trap.slotTrap cILLEGAL 7 x.iter) false)
  else
    let items := items.filter (fun it => !(x.skipS && decide (it.slot = .s)))
    let (n, s1) := if h.hwin ∧ x.iter = 0 then s.applyIngress k (fun _ => true) else (0, s)
    let w : Work := { st := s1, jump := none, after := .stay, ports := [], gens := [], extra := (n + 63) / 64, idle := 0, srUses := 0 }
    runItems s1 k c h ((items.map (Item.uses x)).flatten) items none w

/-! After a successful issue. -/

/-- The sticky state of a slot after an issue (03 R64). -/
def stickyAfter (items : List Item) (keep : Bool) (sl : Slot) (old : Option Sticky) : Option Sticky :=
  match items.find? (fun it => decide (it.slot = sl)) with
  | some it =>
    match it.res with
    | .ok i => if nonRepeatable sl i then none else some { word := it.word, n := it.n }
    | .error _ => old
  | none => if keep then old else none

/-- The bundle at `pc` of `len` bytes is the end bundle of a level (05 R111). -/
def isEndBundle (pc : Word) (len : Nat) (l : Level) : Bool := decide ((l.stop - 1 - pc).toNat < len)
/-- The back edges of the loop unit, innermost level first; a bundle reached by a transfer ends no level but the innermost (05 R111). While H = 1 BCOUNT does not change (05 R112). -/
def backEdges (pc : Word) (len : Nat) : Nat → Context → Context
  | 0, x => x
  | fuel + 1, x =>
    match x.loops with
    | [] => x
    | l :: rest =>
      if !isEndBundle pc len l then x
      else
        let off := if l.swp then false else x.mode
        let bc := if x.h then x.bcount else 0
        if l.count - 1 = 0 then
          let x := { x with loops := rest, mode := off, pc := l.stop, bcount := bc }
          if x.xferred then x else backEdges pc len fuel x
        else if x.stopf then { x with loops := rest, mode := off, pc := l.yield, bcount := bc }
        else { x with loops := { l with count := l.count - 1 } :: rest, pc := l.start, bcount := bc }

/-- Task end of a RUN or YIELD Context, with the Kernel's count of tasks ended by `endt` (05 R114, 13 R292). A stop puts a park request on a Context that becomes FREE (13 R297). -/
def State.endTask (s : State) (k c : Nat) (byEndt : Bool) : State :=
  let cl := s.cluster k
  let x := (cl.context c).taskEnd cl.clk
  let leaf := (cl.context c).leaf
  let x := if x.parkReq || s.stoppingAt k then { x with st := .parked, parkReq := true } else x
  let s1 := s.setCluster k { cl.setContext c x with gap := if byEndt then 2 else cl.gap }
  match byEndt && leaf, cl.kernel with
  | true, some i => s1.modKernel i (fun e => { e with ended := if e.ended = BitVec.allOnes 32 then e.ended else e.ended + 1 })
  | _, _ => s1

/-- A `loop.swp`: its stage settings stand for the next issue, and the shift of its own bundle does not act on them (05 R117). -/
def Item.isLoopSwp (it : Item) : Bool :=
  match it.res with
  | .ok (.loopSwp ..) => true
  | _ => false
/-- Context bookkeeping of an issue that took place: sticky state, BCOUNT, RSTEP, and the place of the next issue. BCOUNT counts a bundle at its first issue, ITER 0: one that a redirected `eret` enters at a later issue is not counted (05 R112, assumption 89). -/
def Context.issued (x : Context) (h : Header) (items : List Item) (jump : Option Word) (ic : Nat) : Context :=
  let x := { x with
    sticky := { a := stickyAfter items h.keep .a x.sticky.a, v0 := stickyAfter items h.keep .v0 x.sticky.v0,
                v1 := stickyAfter items h.keep .v1 x.sticky.v1, e := stickyAfter items h.keep .e x.sticky.e }
    bcount := if x.iter = 0 ∧ !x.h then x.bcount + 1 else x.bcount
    skipS := false
    predWrites := x.predWrites.filter (fun p => decide (ic < p.1 + 8)) }
  let x := if h.rstep then (if items.any Item.isLoopSwp then { x with rot := x.rot - 1 } else x.rstep) else x
  if x.iter < h.rep then { x with iter := x.iter + 1 }
  else
    match jump with
    | some t => { x with iter := 0, pc := t, lastXfer := some (ic : Int), xferred := true }
    | none => { backEdges x.pc h.len 4 { x with iter := 0, pc := x.pc + BitVec.ofNat 64 h.len } with xferred := false }

/-- The state after an issue in which every slot acted. The stage shift overwrites results of earlier issues that land in the same ic (03 R60, R66). A generator that is detached keeps its count, the pops of this issue included. A scale that a `vbmax` writes in the clk in which an `eret` clears the latch lands after that (07 R156, assumption 90). -/
def finishIssue (k c : Nat) (h : Header) (items : List Item) (w : Work) : State :=
  let cl := w.st.cluster k
  let ic := cl.ic
  let x0 := cl.context c
  let x0 := if h.rstep && x0.mode && !items.any Item.isLoopSwp then x0.overtake 1 Dest.isStage else x0
  let x := x0.issued h items w.jump ic
  let x := w.ports.foldl (fun x p => x.setPort p.1 p.2) x
  let x := w.gens.foldl (fun x p => x.setPort p.1 { x.port p.1 with gen := if p.2.active then p.2 else { (x.port p.1).gen with active := false } }) x
  let cl := (cl.setContext c x).passIc
  let cl := (cl.idleClk w.idle).passClk (w.extra + (if w.jump.isSome then 2 else 0))
  let cl := { cl with pushes := cl.pushes.map (fun p => if p.since.isNone then { p with since := some cl.clk } else p) }
  let s := w.st.setCluster k cl
  match w.after with
  | .stay => s
  | .ended => s.endTask k c true
  | .yielded rcd => s.modCluster k (fun cl => { cl.modContext c (fun x => { x with st := .yield, cont := some rcd, freeAt := cl.clk }) with gap := 2 })
  | .returned =>
    s.modCluster k (fun cl => ((cl.leaveBars c (cl.context c).epc).modContext c (fun x => { x.trapReturn with lastXfer := some (ic : Int) })).clearLatch.passClk 2)
  | .park => s.modCluster k (fun cl => { cl.modContext c (fun x => { x with st := .parked, cause := none }) with gap := 2 })

/-- What becomes of an issue that could not take place (03 R59, 05 R104). -/
def stopIssue (s : State) (k c : Nat) : Stop → State
  | .wait => s.modCluster k (fun cl => cl.idleClk 1)
  | .stall => s.modCluster k (fun cl => cl.idleClk 1)
  | .trap t skips => s.enterTrap k c t skips
  | .block cause eng on keep =>
    (match keep with | some f => f s | none => s).modCluster k (fun cl =>
      { cl.modContext c (fun x => { x with st := .blocked, cause := some cause, causeEng := eng, awaits := on }) with gap := 2 })
  | .fault va info walked =>
    let x := s.context k c
    let s1 := (walked s).modCluster k (fun cl => { cl.modContext c (fun x => { x with st := .fault }) with gap := 2 })
    s1.raiseFault k (.ctx c) va info x.pc (BitVec.ofNat 64 x.iter)

/-- A bundle that would be counted as bundle SMAX + 1 raises RUNAWAY at its first issue (05 R112). -/
def runaway (cl : Cluster) (x : Context) : Bool :=
  decide (x.iter = 0) && !x.h && decide (cl.smax ≠ 0) && decide (cl.smax.toNat ≤ x.bcount.toNat)

/-- The result of an issue before anything is done about it: what stops it, or the work of its slots. -/
def issueResult (s : State) (k c : Nat) (h : Header) (items : List Item) : Res :=
  let x := s.context k c
  if h.rep < x.iter then .error (.trap (Trap.slotTrap cILLEGAL 7 x.iter) false)
  else if runaway (s.cluster k) x then .error (.trap (Trap.slotTrap cRUNAWAY 7 x.iter) false)
  else attempt s k c h items

/-- One issue by Context `c` of cluster `k` (03 R59). -/
def issueBy (s : State) (k c : Nat) (h : Header) (items : List Item) : State :=
  match issueResult s k c h items with
  | .ok w => finishIssue k c h (items.filter (fun it => !((s.context k c).skipS && decide (it.slot = .s)))) w
  | .error e => stopIssue s k c e

/-- One issue by the RUN Context of the current core. -/
def issue (h : Header) (items : Context → List Item) (s : State) : Out :=
  if Config.clusters ≤ s.cur then .fault .noSuchCluster
  else match (s.cluster s.cur).runCtx with
    | none => .fault .noRunningContext
    | some c => .next (issueBy s s.cur c h (items (s.context s.cur c)))

/-- The header of a plain bundle of one word. -/
def plainHeader : Header := { rep := 0, hwin := false, keep := false, rstep := false, rsv := 0, len := 12 }
/-- The one item of a plain bundle. A word that `legal` rejects is no instruction (03 R80). -/
def plainItem (i : Instr) (e : Effect) (x : Context) : Item :=
  { slot := (slotOf i).getD .s, word := wordOf i, res := if legal i then .ok i else .error .reservedOperand,
    n := BitVec.ofNat 32 x.iter, sticky := false, eff := e }
/-- Issue of a plain bundle that holds one slot instruction. -/
def issuePlain (i : Instr) (e : Effect) (s : State) : Out := issue plainHeader (fun x => [plainItem i e x]) s

end Sys2Proof.Machine
end

