-- ==== Sys2Proof/Machine/Control.lean ====
section
/-! DEFINITION. The control registers (05 R107-R109, 12 R278, R280, 15 R314, 17 R346, 19 R389, 20 R417) and their access codes (00 R8). -/

namespace Sys2Proof.Machine

/-- STAGE (05 R109). -/
def Context.stageWord (x : Context) : Word := BitVec.ofNat 64 (bnat x.mode + 2 ^ 16 * x.feed.toNat)
/-- STATUS (05 R108). -/
def Context.statusWord (x : Context) : Word :=
  BitVec.ofNat 64 (bnat x.h + 2 * bnat x.stopf + 4 * bnat x.herr + 8 * bnat x.terr)

/-- The 64-bit value that `mfs` reads (05 R118). `pc` is the address of the issuing bundle. -/
def ctlRead (cl : Cluster) (x : Context) (k c : Nat) (pc : Word) (num : Nat) : Word :=
  if 0x08 ≤ num ∧ num ≤ 0x0F then (x.lvl.getD (num - 8) 0).setWidth 64
  else if 0x20 ≤ num ∧ num ≤ 0x2A then x.idle.getD (num - 0x20) 0
  else match num with
  | 0x00 => pc
  | 0x01 => x.rot.setWidth 64
  | 0x02 => x.stageWord
  | 0x03 => BitVec.ofNat 64 c
  | 0x04 => BitVec.ofNat 64 k
  | 0x05 => cl.device.setWidth 64
  | 0x10 => BitVec.ofNat 64 (bnat x.tail)
  | 0x11 => x.seed
  | 0x12 => x.srcount
  | 0x13 => BitVec.ofNat 64 (bnat x.lsig)
  | 0x14 => x.statusWord
  | 0x15 => x.bcount
  | 0x16 => x.prec.setWidth 64
  | 0x17 => x.ppeer.setWidth 64
  | 0x40 => cl.tvec
  | 0x41 => cl.trecBase
  | 0x42 => BitVec.ofNat 64 (bnat x.stopf)
  | 0x43 => cl.lmax
  | 0x44 => cl.smax
  | 0x45 => x.splim
  | 0x46 => x.epc
  | 0x47 => x.estat
  | 0x48 => x.tscr
  | 0x49 => cl.asid
  | 0x4A => cl.ptbase
  | 0x4B => cl.frbase
  | 0x4C => BitVec.ofNat 64 (cl.frWr.toNat + 2 ^ 32 * cl.frRd.toNat)
  | 0x4E => cl.basteDrop
  | 0x4F => cl.acbase
  | 0x50 => cl.agelo
  | 0x51 => cl.agehi
  | 0x52 => cl.qrbase
  | 0x53 => cl.qrsize
  | 0x54 => cl.acthr
  | 0x55 => cl.ordbase
  | 0x58 => cl.winbase
  | 0x59 => cl.peerbase
  | 0x5A => cl.hemcfg
  | _ => 0

/-- Bits `lo` to `lo + n - 1` of a word, in place. -/
def keepBits (v : Word) (lo n : Nat) : Word := BitVec.ofNat 64 (field v.toNat lo n * 2 ^ lo)
/-- An area of `n` bytes at a module physical address lies in slice `k` below the metadata area (19 R401). -/
def inSlice (k pa n : Nat) : Bool := decide (pa / 2 ^ 34 = k ∧ pa % 2 ^ 34 + n ≤ Config.metaBase)

/-- A write to a register of the Context (05 R107). RO registers ignore it. -/
def Context.ctlWrite (x : Context) (num : Nat) (v : Word) (ic : Nat) : Context :=
  match num with
  | 0x01 => { x with rot := v.setWidth 6 }
  | 0x02 => { x with mode := v.getLsbD 0, feed := v.extractLsb' 16 32, lastStage := some (ic : Int) }
  | 0x11 => { x with seed := v }
  | 0x12 => { x with srcount := v }
  | 0x14 => { x with herr := x.herr && !v.getLsbD 2, terr := x.terr && !v.getLsbD 3 }
  | 0x42 => { x with stopf := v.getLsbD 0 }
  | 0x45 => { x with splim := v }
  | 0x46 => { x with epc := v }
  | 0x47 => { x with estat := keepBits v 0 10 }
  | 0x48 => { x with tscr := v }
  | _ => x

/-- A write to a register of the cluster: TVEC is taken as written, whatever its low bits (assumption 94) (05 R107, 12 R280, 15 R314, 17 R346, 19 R389, 20 R417). -/
def Cluster.ctlWrite (c : Cluster) (k num : Nat) (v : Word) : Cluster :=
  match num with
  | 0x40 => { c with tvec := v }
  | 0x41 => if v.toNat % 64 = 0 ∧ inSlice k v.toNat 256 then { c with trecBase := v } else c
  | 0x43 => { c with lmax := v }
  | 0x44 => { c with smax := v }
  | 0x49 => { c with asid := keepBits v 0 16 }
  | 0x4A => { c with ptbase := keepBits v 12 28 }
  | 0x4B =>
    let n := field v.toNat 0 5
    let base := field v.toNat 12 28 * 4096
    if 7 ≤ n ∧ n ≤ 16 ∧ inSlice k base (32 * 2 ^ n) then { c with frbase := keepBits v 0 5 ||| keepBits v 12 28 } else c
  | 0x4C => Cluster.flushRing { c with frRd := v.extractLsb' 32 32 }
  | 0x4D =>
    match field v.toNat 16 2 with
    | 0 => c.frctl (v.extractLsb' 0 16) none
    | 1 => c.frctl (v.extractLsb' 0 16) (some (v.extractLsb' 32 16))
    | _ => c
  | 0x4E => { c with basteDrop := v }
  | 0x4F => { c with acbase := keepBits v 0 1 ||| keepBits v 21 19 }
  | 0x50 => { c with agelo := v }
  | 0x51 => { c with agehi := keepBits v 0 48 }
  | 0x52 => { c with qrbase := keepBits v 0 56 }
  | 0x53 =>
    let n := field v.toNat 0 5
    if 6 ≤ n ∧ n ≤ 16 ∧ c.levels.all (fun p => p.2.len == 0) then { c with qrsize := keepBits v 0 5 } else c
  | 0x54 => { c with acthr := v }
  | 0x55 => { c with ordbase := keepBits v 18 22 }
  | 0x58 => { c with winbase := keepBits v 0 56 }
  | 0x59 => { c with peerbase := keepBits v 0 56 }
  | 0x5A => { c with hemcfg := keepBits v 0 1 ||| keepBits v 4 2 ||| keepBits v 16 16 }
  | _ => c

/-- A round in which no cluster takes part has nothing to wait for: it ends in each clk, and the next takes every HEMCFG written by then (15 R316, assumption 11). -/
def State.clks (s : State) : List Nat := clusterIds.map (fun k => (s.cluster k).clk)
/-- Cluster clk counts are not tied to each other (assumption 5): a new Hem round begins once any cluster's clk has passed. -/
def State.hemBegun (s : State) : Bool := decide (s.hemAt ≠ s.clks)
/-- Every HEMCFG takes effect for the round that begins next (15 R314). -/
def State.hemNext (s : State) : State :=
  { s with clusters := s.clusters.map (fun p => (p.1, { p.2 with hemcfgRound := p.2.hemcfg })), hemAt := s.clks }
/-- After a write of HEMCFG: it is in time for the next round where that has not begun. -/
def State.hemRefresh (s : State) : State :=
  if s.hemBegun ∧ clusterIds.any (fun i => (s.cluster i).hemcfgRound.getLsbD 0) then s else s.hemNext

/-- A write to control register `num` for Context `c` of cluster `k`, the access rights already checked. -/
def State.ctlWrite (s : State) (k c num : Nat) (v : Word) : State :=
  let cl := s.cluster k
  let s1 := s.setCluster k ((cl.modContext c (fun x => x.ctlWrite num v cl.ic)).ctlWrite k num v)
  if num = 0x5A then s1.hemRefresh else s1

end Sys2Proof.Machine
end

