-- ==== Sys2Proof/Machine/Link.lean ====
section
/-! DEFINITION. The fabric ports (20): packets as header and payload beats, routes, replay buffers, acceptance and go-back. Events read `arg.k`, the port. -/

namespace Sys2Proof.Machine

/-! Kinds (20 R406). -/

def kPUT : BitVec 8 := 0x01
def kGETREQ : BitVec 8 := 0x02
def kACCF : BitVec 8 := 0x03
def kACCI : BitVec 8 := 0x04
def kRAMO : BitVec 8 := 0x05
def kRCAS : BitVec 8 := 0x06
def kSPAWN : BitVec 8 := 0x07
def kJOIN : BitVec 8 := 0x08
def kARRIVE : BitVec 8 := 0x09
def kMARKER : BitVec 8 := 0x0A
def kPOST : BitVec 8 := 0x0B
def kCOMPLETE : BitVec 8 := 0x0C
def kLOCK : BitVec 8 := 0x0D
def kUNLOCK : BitVec 8 := 0x0E
def kMGMT : BitVec 8 := 0x10
def kDONE : BitVec 8 := 0x20
def kGETDATA : BitVec 8 := 0x21
def kATOMRET : BitVec 8 := 0x22
def kFAIL : BitVec 8 := 0x23
def kGRANT : BitVec 8 := 0x24
def kENACK : BitVec 8 := 0x25
def kACK : BitVec 8 := 0x30
def kLINKID : BitVec 8 := 0x31
/-- Kinds whose packets carry payload beats. -/
def carriesData (k : BitVec 8) : Bool :=
  [kPUT, kACCF, kACCI, kRAMO, kRCAS, kSPAWN, kARRIVE, kMGMT, kGETDATA, kATOMRET].contains k
def knownKind (k : BitVec 8) : Bool :=
  let n := k.toNat
  decide ((1 ≤ n ∧ n ≤ 14) ∨ n = 16 ∨ (0x20 ≤ n ∧ n ≤ 0x25) ∨ n = 0x30 ∨ n = 0x31)
/-- Payload beats (20 R404). -/
def beats (k : BitVec 8) (elems : Nat) : Nat := if carriesData k then (4 * elems + 31) / 32 else 0
/-- Bytes that a packet occupies (20 R411). -/
def Packet.bytes (p : Packet) : Nat := 32 * (1 + beats p.kind p.elems)

/-! CRC-32C (20 R405). -/

def crcBit (c : BitVec 32) : BitVec 32 := if c.getLsbD 0 then (c >>> 1) ^^^ 0x82F63B78 else c >>> 1
def crcByte (c : BitVec 32) (b : Byte) : BitVec 32 :=
  (List.range 8).foldl (fun c _ => crcBit c) (c ^^^ b.setWidth 32)
def crc32c (l : List Byte) : BitVec 32 := ~~~ (l.foldl crcByte (BitVec.allOnes 32))

/-! The header beat (20 R405). -/

/-- A header read into the packet's fields; the payload stands as given. `tag` and `acq` are the collective tag (17 R353) and the mark of an acquiring GETREQ (16 R334) or an exclusive LOCK (17 R355), which the map does not place (assumption 18). -/
def headerPacket (h : Nat) (payload : List Byte) (tag : BitVec 8) (acq : Bool) : Packet :=
  { kind := BitVec.ofNat 8 (field h 40 8), ordered := field h 34 2 == 1, rpl := h.testBit 38, pois := h.testBit 39, sdev := field h 48 11
    scl := field h 59 6, ddev := field h 65 11, dcl := field h 76 6, hop := field h 36 2, via := field h 82 11, ph := h.testBit 93
    rtag := field h 94 10, win := field h 104 12, wid := BitVec.ofNat 12 (field h 116 12), oseq := BitVec.ofNat 16 (field h 128 16)
    off := field h 144 40, elems := field h 184 6 + 1, arg := BitVec.ofNat 32 (field h 192 32), payload := payload, tag := tag, acq := acq, adm := false }
/-- The header bits [223:0] of a packet, without its link fields SEQ, ACKN and NAK. -/
def Packet.header (p : Packet) : Nat :=
  2 ^ 34 * (if p.ordered then 1 else 2) + 2 ^ 36 * (p.hop % 4) + 2 ^ 38 * bnat p.rpl + 2 ^ 39 * bnat p.pois + 2 ^ 40 * p.kind.toNat
    + 2 ^ 48 * (p.sdev % 2048) + 2 ^ 59 * (p.scl % 64) + 2 ^ 65 * (p.ddev % 2048) + 2 ^ 76 * (p.dcl % 64) + 2 ^ 82 * (p.via % 2048)
    + 2 ^ 93 * bnat p.ph + 2 ^ 94 * (p.rtag % 1024) + 2 ^ 104 * (p.win % 4096) + 2 ^ 116 * p.wid.toNat + 2 ^ 128 * p.oseq.toNat
    + 2 ^ 144 * (p.off % 2 ^ 40) + 2 ^ 184 * ((p.elems - 1) % 64) + 2 ^ 192 * p.arg.toNat
/-- The beats of a packet as sent, the CRC in its place. -/
def wire (seq ackn : BitVec 16) (p : Packet) : List Byte :=
  let pay := padTo (32 * beats p.kind p.elems) p.payload
  let h := bytesLE 28 (seq.toNat + 2 ^ 16 * ackn.toNat + p.header)
  h ++ bytesLE 4 (crc32c (h ++ pay)).toNat ++ pay
/-- The beat of a link control packet (20 R405, R406): CTRL, MODE relaxed, RPL (assumption 69); a LINKID names the sender in SDEV. -/
def controlWire (ackn : BitVec 16) (nak : Bool) (kind : BitVec 8) (dev : Nat) : List Byte :=
  let h := bytesLE 28 (2 ^ 16 * ackn.toNat + 2 ^ 32 * bnat nak + 2 ^ 33 + 2 ^ 35 + 2 ^ 38 + 2 ^ 40 * kind.toNat + 2 ^ 48 * (dev % 2048))
  h ++ bytesLE 4 (crc32c h).toNat
/-- The beats that an output puts on the lanes of a fabric port. -/
def Output.wire : Output → List Byte
  | .link _ ackn l => Machine.wire l.seq ackn l.pkt
  | .ack _ ackn nak => controlWire ackn nak kACK 0
  | .linkid _ dev => controlWire 0 false kLINKID dev
  | _ => []
/-- The CRC of a received packet is good, and its length is that of its kind. -/
def wireGood (l : List Byte) : Bool :=
  let h := leNat (l.take 32)
  decide (32 ≤ l.length) && decide (l.length = 32 * (1 + beats (BitVec.ofNat 8 (field h 40 8)) (field h 184 6 + 1)))
    && decide (crc32c (l.take 28 ++ l.drop 32) = BitVec.ofNat 32 (field h 224 32))
/-- A malformed packet (20 R407): a link control packet has the kind ACK or LINKID, and no other packet has. -/
def malformed (h : Nat) : Bool :=
  let kind : BitVec 8 := BitVec.ofNat 8 (field h 40 8)
  !knownKind kind || decide (h.testBit 33 ≠ (decide (kind = kACK ∨ kind = kLINKID))) || decide (field h 34 2 = 0 ∨ field h 34 2 = 3) || decide (Config.maxDevice < field h 65 11)
    || decide (47 < field h 76 6)

/-! Sending (20 R408, R413-R415). -/

/-- The device number of the module (01 R33). -/
def State.deviceNo (s : State) : Nat := (s.cluster 0).device.toNat
def routeValid (r : BitVec 128) : Bool := r.getLsbD 7 && decide (field r.toNat 0 6 ≤ 34)
def State.route (s : State) (d : Nat) : BitVec 128 := SMap.get 0 s.routes d
def State.mport (s : State) (d : Nat) : Nat := field (s.route d).toNat 0 6
/-- A packet enters the replay buffer of an UP port and goes out, or waits. Sending it acknowledges what the port has accepted (20 R409). -/
def FPort.send (x : FPort) (p : Packet) : FPort × Option LinkPacket :=
  if x.st = .up ∧ x.replay.length < 1024 ∧ x.waiting.isEmpty then
    let l : LinkPacket := { seq := x.seq, pkt := p }
    ({ x with seq := x.seq + 1, replay := x.replay ++ [l], unacked := 0, ackTime := if x.replay.isEmpty then x.time else x.ackTime }, some l)
  else ({ x with waiting := x.waiting ++ [p] }, none)
def State.portSend (s : State) (n : Nat) (p : Packet) : State :=
  let (x, o) := (s.port n).send p
  let s := s.modPort n (fun _ => x)
  match o with
  | some l => { s with outbox := s.outbox ++ [.link n x.exp l] }
  | none => s
/-- The cost of a port: the depth of its output queue, or none where it is not UP (20 R415). -/
def State.portCost (s : State) (n : Nat) : Option Nat :=
  let x := s.port n
  if x.st = .up then some x.waiting.length else none
/-- The choice of a relaxed packet: the intermediate device and the first port (20 R415). The entry of the device's own number is not read (20 R413). -/
def State.choosePath (s : State) (d : Nat) : Nat × Nat :=
  let r := s.route d
  let first := (d, s.mport d, s.portCost (s.mport d))
  let vias := (List.range 8).map (fun i =>
    let v := field r.toNat (24 + 11 * i) 11
    (v, s.mport v, if v ≠ s.deviceNo ∧ routeValid (s.route v) then (s.portCost (s.mport v)).map (2 * ·) else none))
  let best := vias.foldl (fun (b : Nat × Nat × Option Nat) c =>
    match b.2.2, c.2.2 with
    | _, none => b
    | none, some _ => c
    | some x, some y => if y < x then c else b) first
  (best.1, best.2.1)
/-- A packet leaves a cluster: over the on-package network, or, once it has a route, through a fabric port. A bridge between dies takes no time here, so no packet waits at one (assumption 83). A packet whose target's route is not VALID is kept until firmware writes a route (20 R418). -/
def State.netSend (s : State) (p : Packet) : State :=
  if p.ddev = s.deviceNo then s.modCluster p.dcl (fun c => { c with inbox := c.inbox ++ [p] })
  else if !routeValid (s.route p.ddev) then { s with stranded := s.stranded ++ [p] }
  else if p.ordered then s.portSend (s.mport p.ddev) { p with via := p.ddev }
  else
    let (v, n) := s.choosePath p.ddev
    s.portSend n { p with via := v }
/-- Firmware has written a route: the packets that were kept for want of one try again. -/
def State.unstrand (s : State) : State := s.stranded.foldl State.netSend { s with stranded := [] }
/-- A packet in transit leaves through the port toward VIA, or toward its target once VIA is reached: the route entry it needs is VALID, or it has none yet. -/
def State.transit (s : State) (p : Packet) : Option Nat × Packet :=
  let p := { p with hop := p.hop + 1, ph := p.ph || decide (p.via = s.deviceNo) }
  let d := if p.ph then p.ddev else p.via
  (if routeValid (s.route d) then some (s.mport d) else none, p)
/-- A reply to a request. -/
def replyTo (p : Packet) (kind : BitVec 8) : Packet :=
  { kind := kind, ordered := false, rpl := true, pois := false, sdev := p.ddev, scl := p.dcl, ddev := p.sdev, dcl := p.scl, hop := 0,
    via := p.sdev, ph := false, rtag := p.rtag, win := p.win, wid := 0, oseq := 0, off := p.off, elems := 1, arg := 0, payload := [],
    tag := 0, acq := false, adm := false }
def State.reply (s : State) (p : Packet) (kind : BitVec 8) : State := s.netSend (replyTo p kind)
/-- FAIL with a code (17 R351). -/
def State.failReply (s : State) (p : Packet) (code : BitVec 16) : State := s.netSend { replyTo p kFAIL with arg := code.setWidth 32 }

/-! Moving on (20 R409, R411). -/

/-- Packets that wait at port `n` enter its replay buffer while there is room. -/
def FPort.pump : Nat → FPort → List LinkPacket × FPort
  | 0, x => ([], x)
  | fuel + 1, x =>
    match x.waiting with
    | [] => ([], x)
    | p :: rest =>
      match ({ x with waiting := [] } : FPort).send p with
      | (y, some l) =>
        let (ls, z) := FPort.pump fuel { y with waiting := rest }
        (l :: ls, z)
      | (_, none) => ([], x)
def State.pumpPort (s : State) (n : Nat) : State :=
  let (ls, x) := (s.port n).pump 1024
  let s := s.modPort n (fun _ => x)
  { s with outbox := s.outbox ++ ls.map (fun l => Output.link n x.exp l) }
/-- Packets in transit that stand in input buffers move on where their port can send. -/
def State.pumpInputs (s : State) : State :=
  (List.range 35).foldl (fun s i =>
    (s.port i).input.foldl (fun s cp =>
      match s.transit cp.2 with
      | (none, _) => s
      | (some n, p) =>
        let x := s.port n
        if x.st = .up ∧ x.replay.length < 1024 ∧ x.waiting.isEmpty then
          (s.modPort i (fun y => { y with input := y.input.erase cp })).portSend n p
        else s) s) s
def State.pump (s : State) (n : Nat) : State := (s.pumpPort n).pumpInputs

/-- The requests of this module among some packets wait, or no longer wait, for a port's resend (15 R324, 20 R418). -/
def State.markAgain (s : State) (ls : List LinkPacket) (b : Bool) : State :=
  (ls.filter (fun l => l.pkt.sdev == s.deviceNo && !l.pkt.rpl)).foldl (fun s l =>
    s.modCluster l.pkt.scl (fun c => { c with places := c.places.map (fun q =>
      if q.1 = l.pkt.rtag ∧ q.2.pkt.no = l.pkt.no then (q.1, { q.2 with again := b }) else q) })) s
/-- What a received ACKN and NAK do (20 R409): entries below ACKN are freed; on NAK the rest are sent again. -/
def State.ackReceived (s : State) (n : Nat) (ackn : BitVec 16) (nak : Bool) : State :=
  let x := s.port n
  let behind := fun (l : LinkPacket) => decide ((ackn - l.seq).toNat ≤ 1024 ∧ ackn ≠ l.seq)
  let moved := x.replay.any behind
  let x := { x with
    replay := x.replay.filter (fun l => !behind l), lastAck := ackn, ackTime := if moved then x.time else x.ackTime
    rounds := if moved then 0 else x.rounds }
  let again := if nak then x.replay else []
  let x := if nak ∧ !again.isEmpty then { x with rounds := x.rounds + 1, unacked := 0 } else x
  let s := ((s.modPort n (fun _ => x)).markAgain ((s.port n).replay.filter behind) false).markAgain again true
  ({ s with outbox := s.outbox ++ again.map (fun l => Output.link n x.exp l) }).pump n

/-- A control packet goes out. -/
def State.sendAck (s : State) (n : Nat) (nak : Bool) : State :=
  let x := s.port n
  let s := s.modPort n (fun x => { x with unacked := 0, nakTime := if nak then some x.time else x.nakTime, naks := if nak ∧ x.naks ≠ BitVec.allOnes 16 then x.naks + 1 else x.naks })
  { s with outbox := s.outbox ++ [.ack n x.exp nak] }
/-- NAK for EXP, unless one went out less than 512 clk ago (20 R408). -/
def State.nak (s : State) (n : Nat) : State :=
  let x := s.port n
  match x.nakTime with
  | some t => if x.time < t + 512 then s else s.sendAck n true
  | none => s.sendAck n true
/-- The die of a fabric port (01 R17); the number of its CRC counter there is assumption 16. -/
def portDie (n : Nat) : Nat := n / 9
/-- A record about a fabric port. -/
def State.errPort (s : State) (n kind : Nat) (code : BitVec 16) (info : Word) : State :=
  s.errRecord (portDie n) { w0 := errWord kind 8 code 63 0 n 15, addr := 0, info := info, time := (s.port n).time }
def sat16 (v : BitVec 16) : BitVec 16 := if v = BitVec.allOnes 16 then v else v + 1
/-- Room of a class at an input port (20 R411). -/
def FPort.classUsed (x : FPort) (cls : Nat) : Nat := ((x.input.filter (fun q => q.1 == cls)).map (fun q => q.2.bytes)).foldl (· + ·) 0

/-- The lanes of a training port are trained and LINKID is exchanged: the port is UP (20 R410). -/
def State.linkUp (s : State) (n dev : Nat) : State :=
  if n < Config.ports ∧ (s.port n).st = .train then
    (s.modPort n (fun x => { x with
      st := .up, nbr := BitVec.ofNat 11 dev, rounds := 0, ackTime := x.time, unacked := 0, nakTime := none })).pump n
  else s
/-- An accepted packet: to its endpoint, or onward. -/
def State.deliverPacket (s : State) (n cls : Nat) (p : Packet) : State :=
  if p.ddev = s.deviceNo then
    if p.kind = kMGMT then s.modDie (p.dcl / 12) (fun d => { d with mgmt := d.mgmt ++ [p.payload] })
    else s.modCluster p.dcl (fun c => { c with inbox := c.inbox ++ [p] })
  else (s.modPort n (fun x => { x with input := x.input ++ [(cls, p)] })).pumpInputs
/-- LINK_PACKET_RECEIVE (20 R407-R411): `arg.bytes` arrive on port `arg.k` when its clk count is `arg.v`; `arg.w` and `arg.flag` are the collective tag and the mark beside the header. -/
def State.linkReceive (s : State) : State :=
  let n := s.arg.k
  let l := s.arg.bytes
  if Config.ports ≤ n then s else
  let s := s.modPort n (fun x => { x with time := Nat.max x.time s.arg.v.toNat })
  let x := s.port n
  let h := leNat (l.take 32)
  if x.st = .train ∧ wireGood l ∧ h.testBit 33 ∧ field h 40 8 = kLINKID.toNat ∧ !malformed h then s.linkUp n (field h 48 11)
  else if x.st ≠ .up then s
  else if !wireGood l then ((s.modPort n (fun x => { x with crcerr := sat16 x.crcerr })).checkThreshold (portDie n) (15 + n % 9) (sat16 x.crcerr).toNat).nak n
  else
    let s := s.ackReceived n (BitVec.ofNat 16 (field h 16 16)) (h.testBit 32)
    if h.testBit 33 then (if malformed h then s.errPort n 5 0 (BitVec.ofNat 64 (h % 2 ^ 64)) else s)
    else
      let seq : BitVec 16 := BitVec.ofNat 16 (field h 0 16)
      let p := headerPacket h (l.drop 32) (s.arg.w.setWidth 8) s.arg.flag
      let x := s.port n
      let cls := p.hop + 4 * bnat p.rpl
      if seq = x.exp then
        if 65536 < x.classUsed cls + p.bytes then (s.modPort n (fun x => { x with room := sat16 x.room })).nak n
        else
          let s := s.modPort n (fun x =>
            { x with exp := x.exp + 1, nakTime := none, unacked := x.unacked + 1, unackedSince := if x.unacked = 0 then x.time else x.unackedSince })
          if malformed h then s.errPort n 5 0 (BitVec.ofNat 64 (h % 2 ^ 64)) else s.deliverPacket n cls p
      else if (seq - x.exp).toNat ≤ 32767 then s
      else s.sendAck n false
def execLinkPacketReceive (s : State) : Out := .next s.linkReceive
/-- ACK (20 R409): an ACK control packet arrives on port `arg.k` at clk `arg.v`, with ACKN `arg.w` and NAK `arg.flag`. -/
def execAck (s : State) : Out :=
  let s1 := s.modPort s.arg.k (fun x => { x with time := Nat.max x.time s.arg.v.toNat })
  .next (if s.arg.k < Config.ports ∧ (s.port s.arg.k).st = .up then s1.ackReceived s.arg.k (s.arg.w.setWidth 16) s.arg.flag else s)
/-- ACK_TIMER (20 R409): at clk `arg.v`, port `arg.k` acknowledges 64 packets, or the first after 128 clk. -/
def State.ackTimer (s : State) : State :=
  let n := s.arg.k
  if Config.ports ≤ n then s else
  let s1 := s.modPort n (fun x => { x with time := Nat.max x.time s.arg.v.toNat })
  let x := s1.port n
  if x.st = .up ∧ (64 ≤ x.unacked ∨ (x.unacked ≠ 0 ∧ x.unackedSince + 128 ≤ x.time)) then s1.sendAck n false else s
def execAckTimer (s : State) : Out := .next s.ackTimer
/-- REPLAY_TIMEOUT (20 R409): at clk `arg.v`, port `arg.k` resends from its oldest entry after 4,096 clk without progress; the time of the next resend counts from this one (assumption 85). -/
def State.replayTimeout (s : State) : State :=
  let n := s.arg.k
  if Config.ports ≤ n then s else
  let s1 := s.modPort n (fun x => { x with time := Nat.max x.time s.arg.v.toNat })
  let x := s1.port n
  if x.st = .up ∧ !x.replay.isEmpty ∧ x.ackTime + 4096 ≤ x.time then
    let s2 := s1.modPort n (fun x => { x with ackTime := x.time, rounds := x.rounds + 1, unacked := 0 })
    { s2.markAgain x.replay true with outbox := s2.outbox ++ x.replay.map (fun l => Output.link n x.exp l) }
  else s
def execReplayTimeout (s : State) : Out := .next s.replayTimeout

/-! Port states (20 R410). -/

/-- Firmware, once it runs (22 R432), enables a DOWN port: training starts, and the module sends its own LINKID; firmware has taken what it wants of the replay buffer (assumption 17). -/
def State.enablePort (s : State) (n : Nat) : State :=
  if n < Config.ports ∧ (s.port n).st = .down ∧ 2 ≤ s.stage.toNat then
    let s1 := s.modPort n (fun x => { x with st := .train, seq := 0, exp := 0, replay := [] })
    { s1 with outbox := s.outbox ++ [.linkid n s.deviceNo] }
  else s
/-- PORT_ENABLE: port `arg.k`. -/
def execPortEnable (s : State) : Out := .next (s.enablePort s.arg.k)
/-- LINKID: the lanes of port `arg.k` are trained and the neighbour's LINKID names it `arg.i`. -/
def execLinkid (s : State) : Out := .next (s.linkUp s.arg.k s.arg.i)
/-- LINK_FAIL: 32 resend rounds in a row without progress. -/
def execLinkFail (s : State) : Out :=
  .next (if (s.port s.arg.k).st = .up ∧ 32 ≤ (s.port s.arg.k).rounds then
    (s.modPort s.arg.k (fun x => { x with st := .failed })).errPort s.arg.k 6 cLINK ((s.port s.arg.k).lastAck.setWidth 64)
  else s)
/-- PORT_DISABLE: the port goes DOWN; its replay buffer is kept. -/
def State.disablePort (s : State) (n : Nat) : State := if n < Config.ports then s.modPort n (fun x => { x with st := .down }) else s
def execPortDisable (s : State) : Out := .next (s.disablePort s.arg.k)
/-- MGMT (01 R27): the die controller of die `arg.k` receives a message from another; `arg.bytes` is its content. -/
def execMgmt (s : State) : Out :=
  .next (if s.arg.k < Config.dies then s.modDie s.arg.k (fun d => { d with mgmt := d.mgmt ++ [s.arg.bytes] }) else s)

end Sys2Proof.Machine
end

