-- ==== Sys2Proof/Machine/Token.lean ====
section
/-! DEFINITION. Tokens and engine commands from their issue to their finish (11 R252-R261, 04 R100, 21 R426-R427). -/

namespace Sys2Proof.Machine

/-! Production and capture (11 R253, R254). -/

/-- A Token after one more command is produced into it. -/
def Token.produce (t : Token) (id : Nat) : Token :=
  if t.st = .pending then { t with count := t.count + 1, seq := t.seq + 1, cmds := t.cmds ++ [id] }
  else { Token.free with st := .pending, count := 1, seq := t.seq + 1, cmds := [id] }
/-- The unfinished commands that some Tokens capture. -/
def Context.captured (x : Context) (ks : List Nat) : List Nat :=
  ((ks.filter (· ≠ 0)).map (fun k => if (x.tok k).st = .pending then (x.tok k).cmds else [])).flatten.eraseDups
/-- The code of a command of the captured generations that has ended in error. -/
def Context.capturedError (x : Context) (ks : List Nat) : Option (BitVec 16) :=
  (ks.filter (· ≠ 0)).findSome? (fun k =>
    if ((x.tok k).st = .pending ∨ (x.tok k).st = .error) ∧ (x.tok k).errSeen then some (x.tok k).code else none)
/-- A Token is resolved when FREE, DONE or ERROR (11 R252). -/
def Context.resolved (x : Context) (k : Nat) : Bool := k == 0 || (x.tok k).st != .pending

/-- The copy channel that an E-slot instruction names. -/
def channelOf : Instr → Option Nat
  | .chgo _ n => some n.toNat
  | .chset _ n _ _ => some n.toNat
  | .chq _ n _ _ _ => some n.toNat
  | _ => none
/-- Commands that hold places in the queue that a new command would enter, and the places it has (04 R100). -/
def queueUse (cl : Cluster) (c : Nat) (eng : Engine) (i : Instr) : Nat × Nat :=
  let n := fun (p : Cmd → Bool) => (cl.cmds.filter (fun m => m.queued && decide (m.eng = eng) && p m)).length
  match eng with
  | .matrix => (n (fun _ => true), 32)
  | .pleat => (n (fun _ => true), 4)
  | .channel => (n (fun m => decide (channelOf m.instr = channelOf i)), 4)
  | .network => (n (fun m => m.ctx == c), 64)
  | .stack => (n (fun _ => true), 64)
  | .queue => (n (fun _ => true), 8)
  | .barrier => (n (fun m => m.ctx == c), 1)
/-- Entries used of the issue log that a new command needs (21 R426). -/
def logUse (cl : Cluster) (c : Nat) (eng : Engine) : Nat :=
  let n := fun (p : Cmd → Bool) => (cl.cmds.filter (fun m => m.logged && p m)).length
  match eng with
  | .matrix | .pleat => n (fun m => decide (m.eng = .matrix ∨ m.eng = .pleat))
  | .network => n (fun m => decide (m.eng = .network) && m.ctx == c)
  | e => n (fun m => decide (m.eng = e))

/-- A new command as its issue makes it. -/
def newCmd (ι : Issue) (id : Nat) (eng : Engine) (tok : Nat) (regs : List Word) (waits : List Nat) (inh : Option (BitVec 16))
    (queued logged : Bool) (remote : Option Remote) : Cmd :=
  { id := id, ctx := ι.c, eng := eng, instr := ι.instr, n := ι.n, regs := regs, tok := tok, pc := ι.pc, iter := ι.iter, waits := waits,
    inh := inh, queued := queued, logged := logged, started := false, pos := 0, phase := 0, data := [], fault := false,
    delivered := none, notBefore := 0, remote := remote }

/-- Issue one command of an E word (11 R253, R254): a full queue, for a command that takes a place in it, or a full log blocks (04 R100, 21 R426). Answers its number. -/
def Issue.produceIn (ι : Issue) (queued : Bool) (eng : Engine) (e : EF) (regs : List Word) (remote : Option Remote) (w : Work) : Except Stop (Nat × Work) :=
  let cl := w.cl ι
  let (used, cap) := queueUse cl ι.c eng ι.instr
  if (queued ∧ cap ≤ used) ∨ 64 ≤ logUse cl ι.c eng then .error (.block .engine eng [] none)
  else
    let ks := [e.ka.toNat, e.kb.toNat, e.kc.toNat]
    let m := newCmd ι cl.nextCmd eng e.kp.toNat regs (ι.x.captured ks) (ι.x.capturedError ks) queued true remote
    let cl' := { cl with cmds := cl.cmds ++ [m], nextCmd := cl.nextCmd + 1 }
    let cl' := cl'.modContext ι.c (fun x => x.setTok e.kp.toNat ((x.tok e.kp.toNat).produce m.id))
    .ok (m.id, { w with st := w.st.setCluster ι.k cl' })
def Issue.produce (ι : Issue) (eng : Engine) (e : EF) (regs : List Word) (remote : Option Remote) (w : Work) : Except Stop (Nat × Work) :=
  ι.produceIn true eng e regs remote w

/-! Finishing (11 R255, R256). -/

/-- How a command finishes (11 R255). -/
inductive Finish where
  | normal
  | stopped
  | error (code : BitVec 16) (esw addr : Word) (step : Nat)
  | inherited (code : BitVec 16)
  deriving DecidableEq, Repr

def Finish.code? : Finish → Option (BitVec 16)
  | .error c _ _ _ => some c
  | .inherited c => some c
  | _ => none

/-- A Token after one of its commands has finished. -/
def Token.finish (t : Token) (id : Nat) (f : Finish) : Token :=
  if !t.cmds.contains id then t
  else
    let t := { t with cmds := t.cmds.filter (· ≠ id), count := t.count - 1 }
    let t := match f with
      | .normal => t
      | .stopped => { t with stopped := true }
      | .error c _ _ _ => if t.errSeen then t else { t with errSeen := true, code := c }
      | .inherited c => if t.errSeen then t else { t with errSeen := true, code := c, inherited := true }
    if t.count = 0 then { t with st := if t.errSeen then .error else .done } else t

/-- The trap record of a late engine error, from its issue log entry (21 R427). -/
def errorTrap (m : Cmd) (code : BitVec 16) (esw addr : Word) (step : Nat) : Trap :=
  { Trap.slotTrap code 7 0 with
    src := 2, engine := m.eng.code, token := m.tok, origPc := m.pc, origIter := m.iter, opcode := opcodeOf m.instr, esw := esw,
    addr := addr, step := step }

/-- Record a delivered error at its Context (11 R256): TERR, and a BLOCKED Context becomes READY. While H = 1 the trap waits, and a BLOCKED Context stays as it is (assumption 95). -/
def Context.deliver (x : Context) (now : Nat) (t : Trap) : Context :=
  let x := { x with terr := true, errors := x.errors ++ [t] }
  if x.st = .blocked ∧ !x.h then { x with st := .ready, release := now, cause := none } else x

/-- A command finishes (11 R255): it leaves its engine, its Token's count falls, and the commands that captured it wait no longer. -/
def Cluster.finish (c : Cluster) (m : Cmd) (f : Finish) : Cluster :=
  let cmds := (c.cmds.filter (fun q => q.id ≠ m.id)).map (fun q =>
    if q.waits.contains m.id then { q with waits := q.waits.filter (· ≠ m.id), inh := q.inh.or f.code? } else q)
  let c1 := { c with cmds := cmds }
  let mine := ((c1.context m.ctx).tok m.tok).cmds.contains m.id
  let c2 := c1.modContext m.ctx (fun x => if m.tok = 0 then x else x.setTok m.tok ((x.tok m.tok).finish m.id f))
  let c2 := c2.modContext m.ctx (fun x => { x with epochs := x.epochs.map (fun e => if e.2.2.1 = m.id then (e.1, e.2.1, e.2.2.1, true) else e) })
  match f with
  | .error code esw addr step =>
    if mine then c2.modContext m.ctx (fun x => x.deliver c2.clk (errorTrap m code esw addr step)) else c2
  | _ => c2
def State.finish (s : State) (k : Nat) (m : Cmd) (f : Finish) : State := s.modCluster k (fun c => c.finish m f)
/-- The command may start: every captured command has finished, none in error (11 R73, R255). -/
def Cmd.startable (m : Cmd) : Bool := m.waits.isEmpty && m.inh.isNone

/-- Deliver the oldest pending error of a RUN Context with H = 0 (11 R256, 21 R427). -/
def State.deliverError (s : State) (k c : Nat) : State :=
  let x := s.context k c
  match x.errors with
  | [] => s
  | t :: rest =>
    if x.st = .run ∧ !x.h then
      (s.modContext k c (fun x => { x with errors := rest })).enterTrap k c { t with iter := x.iter } false
    else s

/-! What engines share. -/

/-- The command stands at the head of its queue (04 R100). -/
def Cluster.queueHead (c : Cluster) (m : Cmd) : Bool :=
  m.queued && (match c.cmds.find? (fun q => q.queued && decide (q.eng = m.eng)
      && (match m.eng with
        | .channel => decide (channelOf q.instr = channelOf m.instr)
        | .network | .barrier => q.ctx == m.ctx
        | _ => true)) with
    | some q => q.id == m.id
    | none => false)
/-- It may start (11 R73), the local joins before it performed (12 R285). -/
def Cluster.mayStart (c : Cluster) (m : Cmd) : Bool := m.startable && !c.joinsBefore m
/-- It stands at the head and may start. -/
def Cluster.atHead (c : Cluster) (m : Cmd) : Bool := c.queueHead m && c.mayStart m
/-- A command as its engine takes it: it leaves the queue. -/
def Cmd.taken (m : Cmd) : Cmd := { m with queued := false, started := true }
/-- A translation fault of an engine command (19 R397): the command waits for firmware's answer. -/
def State.cmdFault (s : State) (k : Nat) (m : Cmd) (path : Nat) (f : Nat × Nat × Nat) (wr unit pos : Nat) : State :=
  let s := s.modCluster k (fun c => c.setCmd { m with fault := true })
  s.raiseFault k (.cmd m.id) f.2.2 (ringInfo path f.1 f.2.1 wr m.ctx unit m.tok) m.pc (BitVec.ofNat 64 pos)
/-- The physical address of a byte that an engine reads, for an error record. -/
def State.paOf (s : State) (k va : Nat) : Word :=
  match (s.xlat k va .read false false).1 with
  | .ok pa _ => modulePa k pa
  | .fail _ _ => 0
/-- The command that an event names, on cluster `arg.k` by its number `arg.i`, where it does not wait on a fault. -/
def State.argCmd (s : State) : Option Cmd :=
  match (s.cluster s.arg.k).cmd s.arg.i with
  | some m => if m.fault then none else some m
  | none => none

/-! Token instructions (11 R258-R261). -/

def tokSet (a : Word) : List Nat := (List.range 64).filter (fun k => k ≠ 0 && a.getLsbD k)
/-- `twait` (11 R259). -/
def waitTokens (ι : Issue) (ks : List Nat) (w : Work) : Res :=
  let on := ι.x.captured ks
  if on.isEmpty then .ok w else .error (.block .token .matrix on none)
def effTwaitImm (g : Reg4) (k1 k2 k3 k4 : Tok) : Effect := fun ι w =>
  ι.guarded g w fun w => waitTokens ι [k1.toNat, k2.toNat, k3.toNat, k4.toNat] w
def effTwaitReg (g : Reg4) (a : SReg) : Effect := fun ι w =>
  ι.guarded g w fun w => do
    let v ← ι.rs a
    waitTokens ι (tokSet v) w
/-- `ttest` into a pair (11 R260). -/
def testTokens (ι : Issue) (e : Reg4) (ks : List Nat) (w : Work) : Res :=
  ι.putPair e (allLanes (ks.all (fun k => ι.x.resolved k))) w
def effTtestPred (g : Reg4) (e : Reg4) (k1 k2 k3 k4 : Tok) : Effect := fun ι w =>
  ι.guarded g w fun w => testTokens ι e [k1.toNat, k2.toNat, k3.toNat, k4.toNat] w
def effTtestPredReg (g : Reg4) (e : Reg4) (a : SReg) : Effect := fun ι w =>
  ι.guarded g w fun w => do
    let v ← ι.rs a
    testTokens ι e (tokSet v) w
/-- The status word of a Token (11 R260). k0 names no Token and reads as FREE. -/
def Token.word (t : Token) : Word :=
  BitVec.ofNat 64 (t.st.code + 4 * bnat t.stopped + 8 * bnat t.inherited + 2 ^ 16 * Nat.min t.count 65535
    + 2 ^ 32 * (if t.st = .error then t.code.toNat else 0))
def effTtestScalar (g : Reg4) (d : SReg) (k : Tok) : Effect := fun ι w =>
  ι.guarded g w fun w => ι.putS d (if k = 0 then Token.free.word else (ι.x.tok k.toNat).word) 1 w
/-- `tjoin` (11 R261): a command outside every queue that finishes when its captured Tokens are complete. -/
def effTjoin (e : EF) : Effect := fun ι w =>
  ι.guarded e.g w fun w =>
    let ks := [e.ka.toNat, e.kb.toNat, e.kc.toNat]
    let cl := w.cl ι
    let m := newCmd ι cl.nextCmd .matrix e.kp.toNat [] (ι.x.captured ks) (ι.x.capturedError ks) false false none
    let cl' := { cl with cmds := cl.cmds ++ [m], nextCmd := cl.nextCmd + 1 }
    let cl' := cl'.modContext ι.c (fun x => x.setTok e.kp.toNat ((x.tok e.kp.toNat).produce m.id))
    let cl' := if m.waits.isEmpty then cl'.finish m (match m.inh with | some c => .inherited c | none => .normal) else cl'
    .ok { w with st := w.st.setCluster ι.k cl' }

/-! Whole steps: each instruction as the issue of a plain bundle that holds it. -/

def execTwaitImm (g : Reg4) (k1 k2 k3 k4 : Tok) (s : State) : Out :=
  issuePlain (.twaitImm g k1 k2 k3 k4) (effTwaitImm g k1 k2 k3 k4) s
def execTwaitReg (g : Reg4) (a : SReg) (s : State) : Out :=
  issuePlain (.twaitReg g a) (effTwaitReg g a) s
def execTtestPred (g : Reg4) (e : Reg4) (k1 k2 k3 k4 : Tok) (s : State) : Out :=
  issuePlain (.ttestPred g e k1 k2 k3 k4) (effTtestPred g e k1 k2 k3 k4) s
def execTtestPredReg (g : Reg4) (e : Reg4) (a : SReg) (s : State) : Out :=
  issuePlain (.ttestPredReg g e a) (effTtestPredReg g e a) s
def execTtestScalar (g : Reg4) (d : SReg) (k : Tok) (s : State) : Out :=
  issuePlain (.ttestScalar g d k) (effTtestScalar g d k) s
def execTjoin (e : EF) (s : State) : Out :=
  issuePlain (.tjoin e) (effTjoin e) s

end Sys2Proof.Machine
end

