-- ==== Sys2Proof/Machine/Task.lean ====
section
/-! DEFINITION. The Queue unit (12): records, levels, spill rings, pops, ageing and pushes; task start (05 R106, 12 R278) and the choice of the Context that issues (05 R105). The events here read `arg.k`, the cluster. -/

namespace Sys2Proof.Machine

/-! Continuation records (12 R277), held as 512 bits. -/

def recField (r : BitVec 512) (lo n : Nat) : Nat := field r.toNat lo n
def recSet (r : BitVec 512) (lo n x : Nat) : BitVec 512 := BitVec.ofNat 512 (setField r.toNat lo n x)
def recCode (r : BitVec 512) : Word := BitVec.ofNat 64 (recField r 0 64)
def recFrame (r : BitVec 512) : Word := BitVec.ofNat 64 (recField r 64 64)
def recJoin (r : BitVec 512) : Nat := recField r 128 32
def recPrio (r : BitVec 512) : Nat := recField r 160 3
def recTail (r : BitVec 512) : Bool := recField r 163 1 == 1
def recPrem (r : BitVec 512) : Bool := recField r 164 1 == 1
def recOprio (r : BitVec 512) : Nat := recField r 165 3
def recPpeer (r : BitVec 512) : Nat := recField r 168 12
def recParent (r : BitVec 512) : Nat := recField r 192 56
def recLvl (r : BitVec 512) (j : Nat) : BitVec 24 := BitVec.ofNat 24 (recField r (256 + 24 * j) 24)
def recStamp (r : BitVec 512) : Nat := recField r 448 64
/-- The LVL fields as one number. -/
def lvlBits (l : List (BitVec 24)) : Nat := packElems 24 (l.map BitVec.toNat)
def mkRecord (code frame : Word) (prio : Nat) (tail prem : Bool) (oprio ppeer parent lvls : Nat) : BitVec 512 :=
  BitVec.ofNat 512 (code.toNat + 2 ^ 64 * frame.toNat + 2 ^ 160 * (prio % 8) + 2 ^ 163 * bnat tail + 2 ^ 164 * bnat prem
    + 2 ^ 165 * (oprio % 8) + 2 ^ 168 * (ppeer % 4096) + 2 ^ 192 * (parent % 2 ^ 56) + 2 ^ 256 * (lvls % 2 ^ 192))
/-- A record as hardware writes it: its padding is zero (03 R81, 12 R277). -/
def recClean (r : BitVec 512) : BitVec 512 := recSet (recSet r 180 12 0) 248 8 0
def recBytes (r : BitVec 512) : List Byte := bytesLE 64 (recClean r).toNat
def recOfBytes (l : List Byte) : BitVec 512 := BitVec.ofNat 512 (leNat (l.take 64))

/-! Levels (12 R279, R280). -/

def Cluster.ringSlots (c : Cluster) : Nat := 2 ^ field c.qrsize.toNat 0 5
/-- The virtual address of a slot of the ring of level `j`; slots are used in turn, from slot 0 (assumption 12). -/
def Cluster.ringSlot (c : Cluster) (j i : Nat) : Nat := c.qrbase.toNat + 64 * c.ringSlots * j + 64 * (i % c.ringSlots)
def QLevel.size (l : QLevel) : Nat := l.chip.length + l.len
/-- Places of a level that local spawns have reserved (12 R284). -/
def Cluster.reserved (c : Cluster) (j : Nat) : Nat :=
  (c.pushes.filter (fun p => decide (p.src = .spawn) && recPrio p.rcd == j)).length
/-- A level that its ring's slots or its count leave no place in, whatever is reserved (12 R280, assumption 36). -/
def Cluster.noPlace (c : Cluster) (j : Nat) : Bool := decide (64 + c.ringSlots ≤ (c.level j).size ∨ c.ringSlots ≤ (c.level j).len)
/-- A level in which nothing but a reserved place is left. -/
def Cluster.levelFull (c : Cluster) (j : Nat) : Bool :=
  decide (64 + c.ringSlots ≤ (c.level j).size + c.reserved j) || c.noPlace j
/-- A push for the Queue unit's next push step (12 R281). -/
def Cluster.enqueue (c : Cluster) (src : PushSrc) (r : BitVec 512) (leaf : Bool := false) : Cluster :=
  { c with pushes := c.pushes ++ [{ src := src, rcd := r, since := some c.clk, leaf := leaf }] }

/-- Append a record at the tail of its level, on chip or in the ring. Answers false where the ring's page faults. -/
def State.append (s : State) (k : Nat) (r : BitVec 512) (leaf : Bool) : Bool × State :=
  let c := s.cluster k
  let j := recPrio r
  let l := c.level j
  if l.len = 0 ∧ l.chip.length < 64 then (true, s.setCluster k (c.setLevel j { l with chip := l.chip ++ [r], leafs := l.leafs ++ [leaf] }))
  else
    let va := c.ringSlot j (l.first + l.len)
    if c.faults.any (fun f => f.waiter == .push j) then (false, s)
    else match s.engineWrite k va 4 (recBytes r) false with
    | (.error (cause, level, va), s) => (false, s.raiseFault k (.push j) va (ringInfo 6 cause level 1 0 0 0) 0 0)
    | (.ok _, s) => (true, s.modCluster k (fun c => c.setLevel j { l with len := l.len + 1, leafs := l.leafs ++ [leaf] }))
/-- A push in clk `now`: STAMP, and OPRIO := PRIO unless the record keeps the one it was saved with (12 R277). -/
def State.push (s : State) (k now : Nat) (r : BitVec 512) (keepOprio leaf : Bool) : Bool × State :=
  let r := recSet r 448 64 now
  s.append k (if keepOprio then r else recSet r 165 3 (recPrio r)) leaf

/-- The Queue unit is at a part of a clk that has come (12 R281). -/
def Cluster.queueAt (c : Cluster) (phase : Nat) : Bool := decide (c.qphase = phase ∧ c.qclk ≤ c.clk)
def Cluster.queueDone (c : Cluster) (phase : Nat) : Cluster := { c with qphase := phase }

/-- Move one record of a level from its ring to chip (12 R279). -/
def State.refillLevel (s : State) (k j : Nat) : State :=
  let c := s.cluster k
  let l := c.level j
  if l.len = 0 ∨ 64 ≤ l.chip.length ∨ c.faults.any (fun f => f.waiter == .push j) then s
  else match s.engineRead k (c.ringSlot j l.first) 64 4 with
    | (.error (cause, level, va), s) => s.raiseFault k (.push j) va (ringInfo 6 cause level 0 0 0 0) 0 0
    | (.ok (bs, _), s) =>
      s.modCluster k (fun c => c.setLevel j
        { l with chip := l.chip ++ [recOfBytes bs], first := (l.first + 1) % c.ringSlots, len := l.len - 1 })
def levelIds : List Nat := [0, 1, 2, 3, 4, 5, 6, 7]
/-- One record of each level, once in a clk. -/
def State.refill (s : State) (k : Nat) : State :=
  if (s.cluster k).queueAt 0 then (levelIds.foldl (fun s j => s.refillLevel k j) s).modCluster k (·.queueDone 1) else s

/-! Pop and task start (12 R281, 05 R106, 12 R278). -/

/-- A Context as the start of a task sets it. Results on their way to an s-, a- or predicate register are dropped, which the task's cleared registers do not take; those for vector registers and Ports stay in flight (assumption 89). -/
def Context.taskStart (x : Context) (r : BitVec 512) (now : Nat) : Context :=
  { x with
    st := .ready, h := false, cause := none, awaits := [], inFault := false, live := true, release := now, notBefore := now + 10,
    pc := recCode r, rot := 0, mode := false, feed := 0, lvl := (List.range 8).map (recLvl r), tail := recTail r, lsig := false,
    herr := false, terr := false, bcount := 0,
    prec := BitVec.ofNat 56 (recParent r), ppeer := BitVec.ofNat 13 (recPpeer r + 4096 * bnat (recPrem r)), oprio := BitVec.ofNat 3 (recOprio r),
    s := [], a := SMap.set 0 [] 15 (recFrame r), p := [], sBad := [], aBad := [], pBad := [], sWait := [],
    flights := x.flights.filter (fun f => match f.dest with | .vec _ _ => true | .port _ _ => true | _ => false),
    loops := [], sticky := StickySet.none, iter := 0, skipS := false, saved := none, cont := none, errors := [], trapPending := none,
    predWrites := [], lastXfer := none, lastStage := none, xferred := false, unparked := none, toks := [], hnds := [], tickets := [], epochs := [], leaf := false }

/-- The Context that takes a record in clk `now`: FREE since then at the latest, without a park request, and FREE longest; a tie goes to the lower number. -/
def Cluster.popper (c : Cluster) (now : Nat) : Option Nat :=
  ctxIds.foldl (fun b i =>
    let x := c.context i
    if x.st = .free ∧ !x.parkReq ∧ x.freeAt ≤ now then
      match b with
      | none => some i
      | some j => if x.freeAt < (c.context j).freeAt then some i else b
    else b) none
/-- The highest level that holds a record. -/
def Cluster.topLevel (c : Cluster) : Option Nat := levelIds.reverse.find? (fun j => (c.level j).size != 0)
/-- Give the head record of the highest non-empty level to a FREE Context. A head that is still in its ring reaches chip in the next clk's refill. -/
def State.popOne (s : State) (k : Nat) : State :=
  let c := s.cluster k
  match c.popper c.qclk, c.topLevel with
  | some i, some j =>
    match (c.level j).chip with
    | [] => s
    | r :: rest =>
      let l := c.level j
      s.setCluster k ((c.setLevel j { l with chip := rest, leafs := l.leafs.tail }).modContext i (fun x =>
        { x.taskStart r c.qclk with leaf := l.leafs.headD false })).clearLatch
  | _, _ => s
/-- The pops of one clk: a record for each FREE Context. -/
def State.pops (s : State) (k : Nat) : State :=
  if (s.cluster k).queueAt 1 then (ctxIds.foldl (fun s _ => s.popOne k) s).modCluster k (·.queueDone 2) else s
/-- QUEUE_POP. -/
def execQueuePop (s : State) : Out := .next (s.pops s.arg.k)

/-! Ageing (12 R281). -/

/-- The length of a clk at the current step of 2.1, 1.8, 1.5 or 1.2 GHz, in parts of 1/126,000 µs (22 R438). -/
def State.tick (s : State) : Nat := match s.pstep.toNat with | 0 => 60 | 1 => 70 | 2 => 84 | _ => 105
/-- The first clk by which a time has passed since clk `start`, through the steps of the clock that have ended and the one of now. -/
def clkAfter (time tick : Nat) : List (Nat × Nat) → Nat → Nat
  | [], start => start + (time + tick - 1) / tick
  | (stop, t) :: rest, start =>
    if stop ≤ start then clkAfter time tick rest start
    else if time ≤ (stop - start) * t then start + (time + t - 1) / t
    else clkAfter (time - (stop - start) * t) tick rest stop
/-- The ageing time of a level in µs; 0 for none (12 R280). -/
def Cluster.ageTime (c : Cluster) (j : Nat) : Nat :=
  if j < 4 then field c.agelo.toNat (16 * j) 16 else if j < 7 then field c.agehi.toNat (16 * (j - 4)) 16 else 0
/-- The clk from which the head of a level may rise: its time in µs has passed, at whatever steps the clock stood. A head that only the ring holds rises once it is on chip (12 R281, assumption 96). -/
def Cluster.ageDue (c : Cluster) (tick j : Nat) : Option Nat :=
  match (c.level j).chip with
  | [] => none
  | r :: _ => if c.ageTime j = 0 then none else some (clkAfter (c.ageTime j * 126000) tick c.steps (recStamp r))
def State.ageLevel (s : State) (k j : Nat) : State :=
  let c := s.cluster k
  match (c.level j).chip, c.ageDue s.tick j with
  | r :: rest, some t =>
    if c.qclk < t ∨ c.levelFull (j + 1) then s
    else
      let r := recSet (recSet r 160 3 (j + 1)) 448 64 c.qclk
      let l := c.level j
      let s1 := s.setCluster k (c.setLevel j { l with chip := rest, leafs := l.leafs.tail })
      match s1.append k r (l.leafs.headD false) with
      | (true, s2) => s2
      | (false, s2) => s2.modCluster k (fun c' => c'.setLevel j (c.level j))
  | _, _ => s
/-- Levels 6 down to 0 in turn, once in a clk. -/
def State.ageing (s : State) (k : Nat) : State :=
  if (s.cluster k).queueAt 2 then ([6, 5, 4, 3, 2, 1, 0].foldl (fun s j => s.ageLevel k j) s).modCluster k (·.queueDone 3) else s
/-- QUEUE_AGEING. -/
def execQueueAgeing (s : State) : Out := .next (s.ageing s.arg.k)

/-! Pushes (12 R281). -/

/-- The order of the push step: spawns, gdisp, joins, arrivals, the controller. -/
def PushSrc.rank : PushSrc → Nat
  | .spawn => 0 | .gdisp _ => 1 | .join => 2 | .joinReply _ => 2 | .arrival _ => 3 | .controller => 4
/-- Append what the push step can: one pass over the waiting records by rank, a full level keeping its own back. -/
def State.pushPass (k rank : Nat) : List Push → State → State
  | [], s => s
  | p :: t, s =>
    let j := recPrio p.rcd
    let c := s.cluster k
    let blocked := (c.pushes.takeWhile (fun q => q != p)).any (fun q => (recPrio q.rcd == j || 3 ≤ rank) && q.src.rank == rank)
    let soon : Bool := match p.since with | some t => decide (c.qclk < t) | none => false
    let full := if rank = 0 then c.noPlace j else c.levelFull j
    if p.src.rank ≠ rank ∨ soon ∨ blocked ∨ full then State.pushPass k rank t s
    else
      match s.push k c.qclk p.rcd (decide (p.src = .controller) && decide (recField p.rcd 448 64 ≠ 0)) p.leaf with
      | (false, s) => State.pushPass k rank t s
      | (true, s) =>
        let s := s.modCluster k (fun c => { c with pushes := c.pushes.erase p })
        let s := match p.src with
          | .arrival q => s.netSend q
          | .joinReply q => s.netSend q
          | .gdisp id => s.modCluster k (fun c => { c with cmds := c.cmds.map (fun m => if m.id = id then { m with pos := m.pos + 1, notBefore := c.qclk + 1 } else m) })
          | _ => s
        State.pushPass k rank t s
/-- A `gdisp` has experts to push or to join for. -/
def Cluster.dispatching (c : Cluster) : Bool := c.cmds.any (fun m => decide (m.eng = .queue ∧ m.phase = 4) && m.started)
/-- The next clk in which the Queue unit has work: the next one, unless nothing but a push or a record's ageing is to come. -/
def Cluster.queueNext (c : Cluster) (tick : Nat) : Nat :=
  let starts := c.pushes.filterMap (·.since) ++ (ctxIds.filter (fun i => decide ((c.context i).st = .yield))).map (fun i => (c.context i).freeAt)
  let busy := starts.any (fun t => decide (t ≤ c.qclk)) || levelIds.any (fun j => decide (0 < (c.level j).len ∧ (c.level j).chip.length < 64))
    || (ctxIds.any (fun i => decide ((c.context i).st = .free) && !(c.context i).parkReq) && c.topLevel.isSome) || c.dispatching
  if busy then c.qclk + 1
  else Nat.max (c.qclk + 1) ((starts ++ levelIds.filterMap (c.ageDue tick)).foldl Nat.min (c.clk + 1))
/-- The pushes of one clk, which end the Queue unit's work in it. -/
def State.pushStep (s : State) (k : Nat) : State :=
  if (s.cluster k).queueAt 3 then
    let s' := [0, 1, 2, 3, 4].foldl (fun s r => State.pushPass k r (s.cluster k).pushes s) s
    s'.modCluster k (fun c => { c with qphase := 0, qclk := c.queueNext s'.tick })
  else s
/-- QUEUE_PUSH. -/
def execQueuePush (s : State) : Out := .next (s.pushStep s.arg.k)
/-- SPILL_RING_REFILL: at most one record for each level. -/
def execSpillRingRefill (s : State) : Out := .next (s.refill s.arg.k)

/-! Joins at the slice (12 R285). -/

/-- The read-modify-write of JOIN of the record at `pa`; a counter that reaches zero pushes the record. `va` names it in an error record. -/
def State.joinAt (s : State) (k ctx pa : Nat) (va : Word) (src : PushSrc) : Bool × State :=
  let c := (s.cluster k).writeBack (linesOf pa 64)
  let j := leNat (c.l2Bytes (pa + 16) 4)
  let s := s.setCluster k c
  if j = 0 then (false, s.errCluster k ctx 4 6 0 va 0)
  else
    let c := c.writeL2 (pa + 16) (bytesLE 4 (j - 1)) false
    if j = 1 then (true, s.setCluster k (c.enqueue src (recOfBytes (c.l2Bytes pa 64))))
    else (false, s.setCluster k c)
/-- The decrement of the record at `pa` reads data that carries an uncorrectable error: its counter, or the record it pushes. -/
def Cluster.joinBad (c : Cluster) (pa : Nat) : Bool :=
  c.poisoned (pa + 16) 4 || (decide (leNat ((c.writeBack (linesOf pa 64)).l2Bytes (pa + 16) 4) = 1) && c.poisoned pa 64)
/-- The oldest local join before which no held write of its Context has still to take effect (12 R285). -/
def Cluster.joinDue (c : Cluster) : Option Join :=
  c.joins.find? (fun q => !c.heldWrites.any (fun h => h.ctx == q.ctx && decide (h.seq ≤ q.seq)))
/-- JOIN_DECREMENT: perform the oldest local join that can be. -/
def State.joinStep (s : State) (k : Nat) : State :=
  match (s.cluster k).joinDue with
  | none => s
  | some q => ((s.modCluster k (fun c => { c with joins := c.joins.erase q })).joinAt k q.ctx q.pa q.va .join).2
def execJoinDecrement (s : State) : Out := .next (s.joinStep s.arg.k)

/-! Continuations (05 R115). -/

/-- CONTINUATION_ACCEPT: in the push step of a clk, before the other pushes, the Queue accepts the continuation of a Context in YIELD since then at the latest, if its level has room, and the task ends (12 R281, assumption 36). `arg.c` is the Context. -/
def State.acceptCont (s : State) (k i : Nat) : State :=
  let c := s.cluster k
  let x := c.context i
  match x.st, x.cont with
  | .yield, some r =>
    if c.queueAt 3 ∧ x.freeAt ≤ c.qclk ∧ !c.levelFull (recPrio r) then
      match s.push k c.qclk r false x.leaf with
      | (true, s) => (s.endTask k i false).modContext k i (fun x => { x with freeAt := c.qclk })
      | (false, s) => s
    else s
  | _, _ => s
def execContinuationAccept (s : State) : Out := .next (s.acceptCont s.arg.k s.arg.c)

/-! The choice of the Context that issues (05 R105). -/

/-- The READY Context with the earliest release time; a tie goes to the lower number. -/
def Cluster.chooser (c : Cluster) : Option Nat :=
  ctxIds.foldl (fun b i =>
    let x := c.context i
    if x.st = .ready then
      match b with
      | none => some i
      | some j => if x.release < (c.context j).release then some i else b
    else b) none
/-- SWITCH_IN: the chosen Context becomes RUN after the overhead clk that are still owed. -/
def State.switchIn (s : State) (k : Nat) : State :=
  let c := s.cluster k
  match c.runCtx, c.chooser with
  | none, some i =>
    let x := c.context i
    let n := Nat.max c.gap (x.notBefore - c.clk)
    let c := (c.pass n (n - c.gap)).clearLatch
    s.setCluster k { c.modContext i (fun x =>
      { x with st := .run, cause := none, awaits := [], lastXfer := some ((c.ic : Int) - 1) }) with
        gap := 0, latchFlights := c.latchFlights.filter (fun f => f.2.1 ≠ i) }
  | _, _ => s
def execSwitchIn (s : State) : Out := .next (s.switchIn s.arg.k)

/-- A Context leaves PARKED (05 R104, R123): FREE without a task; FAULT, BLOCKED or READY with one. Where a blocking cause is recorded, `settleUnparked` finds whether it is still held. -/
def Cluster.release (c : Cluster) (i : Nat) : Cluster :=
  let x := c.context i
  if x.st ≠ .parked then (if x.st = .free then c.setContext i { x with parkReq := false } else c)
  else
    let x := { x with parkReq := false, release := c.clk, unparked := some c.clk }
    if !x.live then c.setContext i { x with st := .free, freeAt := c.clk }
    else if x.inFault then
      let c1 := c.setContext i { x with st := .fault, inFault := false }
      match c.faults.find? (fun f => f.waiter == .ctx i && f.answer.isSome) with
      | some f => match f.id, f.answer with
        | some id, some a => c1.frctl id a
        | _, _ => c1
      | none => c1
    else if x.cause.isSome ∧ x.trapPending.isNone ∧ (x.errors.isEmpty ∨ x.h) then c.setContext i { x with st := .blocked }
    else c.setContext i { x with st := .ready, cause := none, awaits := [] }
/-- Park Context `i` unless it is issuing (05 R123). -/
def Cluster.park (c : Cluster) (i : Nat) : Cluster :=
  let x := c.context i
  match x.st with
  | .free | .yield => c.setContext i { x with parkReq := true }
  | .ready | .blocked | .run => c.setContext i { x with st := .parked }
  | .fault => c.setContext i { x with st := .parked, inFault := true }
  | .parked | .double => c

end Sys2Proof.Machine
end

