-- ==== Sys2Proof/Machine/Context.lean ====
section
/-! DEFINITION. Control flow, the loop unit, control registers, traps, parking and the context save image (05 R114-R124). -/

namespace Sys2Proof.Machine

/-! Branches and calls (05 R116). -/

/-- PopLevels (05 R116). -/
def Context.popLevels (x : Context) (n : Nat) : Context :=
  { x with loops := x.loops.drop n, mode := if (x.loops.take n).any (·.swp) then false else x.mode }
/-- A transfer to `target` that removes `n` loop levels. More levels than are active raise ILLEGAL; a target that is not a multiple of 4 raises ALIGN. -/
def transfer (ι : Issue) (n : Nat) (target : Word) (w : Work) : Res :=
  if ι.x.loops.length < n then ι.fail cILLEGAL
  else if target.toNat % 4 ≠ 0 then ι.failAt cALIGN target
  else .ok { w.modX ι (fun x => x.popLevels n) with jump := some target }
/-- The return address: the bundle after this one. -/
def Issue.next (ι : Issue) : Word := ι.pc + BitVec.ofNat 64 ι.len

def effBr (g : Reg4) (pop : BitVec 2) (imm : BitVec 32) : Effect := fun ι w =>
  ι.guarded g w fun w => transfer ι pop.toNat (ι.pc + sx64 imm) w
def effBrx (g : Reg4) (a : SReg) (pop : BitVec 2) : Effect := fun ι w =>
  ι.guarded g w fun w => do
    let t ← ι.rsLegal a (fun _ => decide (pop.toNat ≤ ι.x.loops.length))
    transfer ι pop.toNat t w
def effCall (g : Reg4) (d : SReg) (imm : BitVec 32) : Effect := fun ι w =>
  ι.guarded g w fun w => do
    let w ← transfer ι 0 (ι.pc + sx64 imm) w
    ι.putS d ι.next 1 w
def effCallx (g : Reg4) (d a : SReg) : Effect := fun ι w =>
  ι.guarded g w fun w => do
    let t ← ι.rs a
    let w ← transfer ι 0 t w
    ι.putS d ι.next 1 w
def effRet (g : Reg4) (a : SReg) : Effect := fun ι w =>
  ι.guarded g w fun w => do
    let t ← ι.rs a
    transfer ι 0 t w

/-! The loop unit (05 R117). -/

/-- Nothing of 05 R117 that raises ILLEGAL holds: a fifth active level, a body of no words, `loop.swp` while MODE = 1. -/
def levelOk (x : Context) (len : BitVec 16) (trips : Nat) (swp : Bool) : Bool :=
  decide (len ≠ 0) && (decide (trips = 0) || decide (x.loops.length < 4)) && !(swp && x.mode)
/-- Push a level of `len` words with a trip count, or pass it over when `trips` is 0: a taken transfer to the body's end, which wins over an outer back edge and reaches the bundle there by a transfer (05 R111, assumption 65). `stages` is the number of stages of a `loop.swp`, whose settings overwrite results of earlier issues that land in its ic (03 R60). -/
def pushLevel (ι : Issue) (len y : BitVec 16) (trips : Nat) (stages : Option Nat) (w : Work) : Res :=
  if !levelOk ι.x len trips stages.isSome then ι.fail cILLEGAL
  else
    let stop := ι.next + BitVec.ofNat 64 (4 * len.toNat)
    if trips = 0 then
      let w := if stages.isSome then w.modX ι (fun x => { x with lastStage := some (ι.cl.ic : Int) }) else w
      .ok { w with jump := some stop }
    else
      let l : Level := { count := trips + stages.getD 1 - 1, start := ι.next, stop := stop, yield := ι.pc + 4 * sx64 y, swp := stages.isSome }
      .ok (w.modX ι (fun x =>
        let x := { x with loops := l :: x.loops }
        match stages with
        | none => x
        | some _ =>
          { x.overtake 1 Dest.isStage with
            mode := true, feed := BitVec.ofNat 32 (trips - 1), lastStage := some (ι.cl.ic : Int)
            p := (List.range 8).foldl (fun p i => SMap.set 0 p (8 + i) (if i = 0 then BitVec.allOnes 256 else 0)) x.p
            pBad := (List.range 8).foldl (fun p i => SMap.del p (8 + i)) x.pBad }))
def effLoop (g : Reg4) (a : SReg) (len y : BitVec 16) : Effect := fun ι w =>
  ι.guarded g w fun w => do
    let v ← ι.rsLegal a (fun v => levelOk ι.x len (field v.toNat 0 32) false)
    pushLevel ι len y (field v.toNat 0 32) none w
def effLoopi (g : Reg4) (count : BitVec 15) (len y : BitVec 16) : Effect := fun ι w =>
  ι.guarded g w fun w => pushLevel ι len y count.toNat none w
def effLoopSwp (g : Reg4) (a : SReg) (sm1 : BitVec 3) (len y : BitVec 16) : Effect := fun ι w =>
  ι.guarded g w fun w => do
    let v ← ι.rsLegal a (fun v => levelOk ι.x len (field v.toNat 0 32) true)
    pushLevel ι len y (field v.toNat 0 32) (some (sm1.toNat + 1)) w

/-! Ending and yielding (05 R114, R115). -/

def HState.pending : HState → Bool
  | .issued | .localDone => true
  | _ => false
def pendingToks (x : Context) : List Nat := (x.toks.filter (fun p => decide (p.2.st = .pending))).map (·.1)
def pendingHnds (x : Context) : List Nat := (x.hnds.filter (fun p => p.2.st.pending)).map (·.1)
/-- The unfinished commands under some Handles of Context `c`. -/
def Cluster.handleCmds (cl : Cluster) (c : Nat) (hs : List Nat) : List Nat :=
  (cl.cmds.filter (fun m => m.ctx == c && (match m.remote with | some r => hs.contains r.hnd | none => false))).map (·.id)
/-- Every Token and Handle of Context `c` is complete or in ERROR; else the issue blocks, with cause Token before Handle. -/
def quiesced (ι : Issue) (c : Nat) : Except Stop Unit :=
  let x := ι.cl.context c
  if !(pendingToks x).isEmpty then .error (.block .token .matrix (x.captured (pendingToks x)) none)
  else if !(pendingHnds x).isEmpty then .error (.block .handle .network (ι.cl.handleCmds c (pendingHnds x)) none)
  else .ok ()
/-- A task does not end before its local joins are performed (12 R285, 13 R296), nor before the writes that its Context has still under way have taken effect, so that a Kernel that is done has stored its results (26 R456, assumption 88): the issue stalls. -/
def Issue.settledWork (ι : Issue) : Except Stop Unit :=
  if ι.cl.joins.any (fun q => q.ctx == ι.c) || ι.cl.heldWrites.any (fun h => h.ctx == ι.c) then .error .stall else .ok ()
/-- `endt` (05 R114): while Tokens are pending it blocks with cause Token, and then, while Handles are, with cause Handle (assumption 89). -/
def effEndt (g : Reg4) : Effect := fun ι w =>
  ι.guarded g w fun w => do
    quiesced ι ι.c
    ι.settledWork
    .ok { w with after := .ended }
/-- The continuation record of `yield` (05 R115). -/
def Context.continuation (x : Context) (target frame : Word) : BitVec 512 :=
  mkRecord target frame x.oprio.toNat x.tail (x.ppeer.getLsbD 12) x.oprio.toNat (field x.ppeer.toNat 0 12) x.prec.toNat (lvlBits x.lvl)
def effYield (g : Reg4) (imm : BitVec 32) : Effect := fun ι w =>
  ι.guarded g w fun w => do
    quiesced ι ι.c
    ι.settledWork
    let f ← ι.ra 15
    .ok { w with after := .yielded (ι.x.continuation (ι.pc + sx64 imm) f) }

/-! Control registers and traps (05 R118-R122). -/

def effMfs (g : Reg4) (d : SReg) (num : BitVec 8) : Effect := fun ι w =>
  ι.guarded g w fun w => ι.putS d (ctlRead ι.cl ι.x ι.k ι.c ι.pc num.toNat) 1 w
def effMts (g : Reg4) (a : SReg) (num : BitVec 8) : Effect := fun ι w =>
  ι.guarded g w fun w => do
    let v ← ι.rs a
    .ok { w with st := w.st.ctlWrite ι.k ι.c num.toNat v }
def effTrap (g : Reg4) (code : BitVec 16) : Effect := fun ι w =>
  ι.guarded g w fun _ => .error (.trap { ι.trapOf cTRAPCALL with arg := code } true)
def effSys (g : Reg4) (code : BitVec 16) : Effect := fun ι w =>
  ι.guarded g w fun _ => .error (.trap { ι.trapOf cSYSCALL with arg := code } true)
def effEret (g : Reg4) : Effect := fun ι w =>
  ι.guarded g w fun w =>
    if ι.x.epc.toNat % 4 ≠ 0 then ι.failAt cALIGN ι.x.epc else .ok { w with after := .returned }
def effRdtr (g : Reg4) (d : SReg) (i : BitVec 3) : Effect := fun ι w =>
  ι.guarded g w fun w => ι.putS d (ι.x.trec.getD i.toNat 0) 1 w

/-! Parking (05 R123). -/

/-- The Context that s[A][1:0] names. -/
def ctxOf (v : Word) : Nat := field v.toNat 0 2
/-- The state that others see: a FREE Context with a standing park request reports PARKED (05 R123). -/
def Context.shown (x : Context) : CState := if x.st = .free ∧ x.parkReq then .parked else x.st
/-- The word of `ptest`. A FREE Context with a standing park request reports PARKED. -/
def Context.ptestWord (x : Context) : Word :=
  let cause := if x.st = .blocked then (match x.cause with | some c => c.code | none => 0) else 0
  BitVec.ofNat 64 (x.shown.code + 16 * bnat x.h + 2 ^ 8 * cause)
/-- A release of Context `i`. While its Kernel is being stopped, a Context that becomes FREE gets a park request at once (13 R297). -/
def State.releaseCtx (s : State) (k i : Nat) : State :=
  let s1 := s.modCluster k (fun c => c.release i)
  if s.stoppingAt k then s1.modContext k i (fun x => if x.st = .free then { x with parkReq := true } else x) else s1
def effPark (g : Reg4) (a : SReg) (release : Bool) : Effect := fun ι w =>
  ι.guarded g w fun w => do
    let v ← ι.rs a
    let i := ctxOf v
    if release then .ok (if i = ι.c then w else { w with st := w.st.releaseCtx ι.k i })
    else .ok (if i = ι.c then { w with after := .park } else w.modCl ι (fun cl => cl.park i))
def effPtest (g : Reg4) (d a : SReg) : Effect := fun ι w =>
  ι.guarded g w fun w => do
    let v ← ι.rs a
    ι.putS d ((ι.cl.context (ctxOf v)).ptestWord) 1 w

/-! The context save image (05 R124). -/

def imageBytes : Nat := 139264
def words (l : List Word) : List Byte := (l.map (fun w => bytesLE 8 w.toNat)).flatten
/-- The loop levels of an image, the outermost first (05 R124, assumption 72). -/
def levelWords (l : List Level) : List Word :=
  (l.reverse.map (fun v => [BitVec.ofNat 64 v.count, v.start, v.stop, v.yield ||| BitVec.ofNat 64 (bnat v.swp)])).flatten
/-- Sticky words, each with its n; a slot without one stands as zeros. -/
def stickyWords (s : StickySet) : List Word :=
  ([s.a, s.v0, s.v1, s.e].map (fun o => match o with
    | some t => [t.word, t.n.setWidth 64]
    | none => [0, 0])).flatten
/-- The 64 bytes of a Port (08 R182). c12 and c13 hold only LOST (09 R226, R238). -/
def portImage (x : Context) (c : Nat) : List Byte :=
  let p := x.port c
  let lost := BitVec.ofNat 64 (x.fill c + x.pend c)
  if 12 ≤ c then padTo 64 (words [0, if c ≤ 13 then lost else 0])
  else
    padTo 64 (words [BitVec.ofNat 64 (p.depth % 64 + 2 ^ 6 * (p.idx % 16) + 2 ^ 10 * bnat p.idxv + 2 ^ 11 * bnat p.gen.active + 2 ^ 12 * bnat p.on),
      lost, p.gen.start, p.gen.counts, p.gen.strides] ++ bytesLE 8 p.gen.s0.toNat ++ bytesLE 8 p.gen.taken)
def tokenByte (t : Token) : Byte := BitVec.ofNat 8 (t.st.code + 4 * bnat t.stopped + 8 * bnat t.inherited)
/-- The 32 bytes of a Handle (17 R364). -/
def handleImage (x : Context) (h : Nat) : List Byte :=
  let t := x.hnd h
  words [BitVec.ofNat 64 (t.st.code + 2 ^ 16 * t.code.toNat + 2 ^ 32 * t.ecount.toNat), BitVec.ofNat 64 (field t.foff.toNat 0 40),
    BitVec.ofNat 64 t.ops, 0]
/-- The image of a Context (05 R124), every result in flight landed. Bytes that the table does not list are zero (03 R81); h1 to h31 stand at 0x1000 + 32i, so the Handle area's first 32 bytes are zero (assumption 89). -/
def ctxImage (x0 : Context) : List Byte :=
  let x := x0.settled
  let cause := match x.cause with | some c => c.code | none => 0
  padTo 0x2000 (padTo 0x1000 (padTo 0xC00 (padTo 0x800 (padTo 0x400
    (padTo 0x100 (words [x.pc, x.rot.setWidth 64, x.stageWord, x.seed, x.srcount, x.statusWord, x.bcount, x.epc, x.estat, x.tscr,
        x.splim, BitVec.ofNat 64 (bnat x.stopf), BitVec.ofNat 64 (x.shown.code + 16 * bnat x.h + 2 ^ 8 * cause), x.oprio.setWidth 64])
      ++ padTo 128 (words (levelWords x.loops)) ++ words (stickyWords x.sticky) ++ words [BitVec.ofNat 64 x.qpos])
    ++ words ((List.range 32).map (fun i => x.sreg (BitVec.ofNat 5 i)))
    ++ words ((List.range 16).map (fun i => x.areg (BitVec.ofNat 4 i)))
    ++ ((List.range 16).map (fun i => bytesLE 32 (x.preg (BitVec.ofNat 4 i)).toNat)).flatten)
    ++ ((List.range 16).map (portImage x)).flatten)
    ++ (0 :: (List.range 63).map (fun i => tokenByte (x.tok (i + 1)))))
    ++ List.replicate 32 0 ++ ((List.range 31).map (fun i => handleImage x (i + 1))).flatten)
    ++ ((List.range 128).map (fun i => bytesLE 1024 (x.vec i).toNat)).flatten

/-- The word at an offset of the image. -/
def imgWord (l : List Byte) (o : Nat) : Word := BitVec.ofNat 64 (leNat ((l.drop o).take 8))
def imgLevels (l : List Byte) (o : Nat) : List Level :=
  ((List.range 4).map (fun i =>
    let at_ := o + 32 * i
    let y := imgWord l (at_ + 24)
    ({ count := (imgWord l at_).toNat, start := imgWord l (at_ + 8), stop := imgWord l (at_ + 16), yield := keepBits y 1 63,
       swp := y.getLsbD 0 } : Level))).filter (fun v => v.count != 0) |>.reverse
def imgSticky (l : List Byte) (o : Nat) : StickySet :=
  let at_ := fun (i : Nat) =>
    let t : Sticky := { word := imgWord l (o + 16 * i), n := (imgWord l (o + 16 * i + 8)).setWidth 32 }
    if t.word = 0 ∧ t.n = 0 then none else some t
  { a := at_ 0, v0 := at_ 1, v1 := at_ 2, e := at_ 3 }
/-- A map from keys to values that are not the default. -/
def mapOf {α : Type} [DecidableEq α] (d : α) (n : Nat) (f : Nat → α) : SMap α :=
  (List.range n).foldl (fun m i => SMap.set d m i (f i)) []
/-- A Port as its image gives it: empty, its generator at the row after the last one taken. -/
def imgPort (l : List Byte) (o : Nat) : Port :=
  let w := (imgWord l o).toNat
  let taken := (imgWord l (o + 0x30)).toNat
  { on := field w 12 1 == 1, depth := field w 0 6, idx := field w 6 4, idxv := field w 10 1 == 1, entries := [], nextId := 0
    gen := { active := field w 11 1 == 1, start := imgWord l (o + 0x10), counts := imgWord l (o + 0x18), strides := imgWord l (o + 0x20),
             s0 := (imgWord l (o + 0x28)).setWidth 32, since := 0, asked := taken, taken := taken } }
def tstateOf (n : Nat) : TState := if n = 2 then .done else if n = 3 then .error else if n = 1 then .pending else .free
def hstateOf (n : Nat) : HState :=
  if n = 1 then .issued else if n = 2 then .localDone else if n = 3 then .remoteDone else if n = 4 then .error else .free
def imgToken (b : Byte) : Token :=
  { Token.free with st := tstateOf (field b.toNat 0 2), stopped := b.getLsbD 2, inherited := b.getLsbD 3, errSeen := field b.toNat 0 2 == 3 }
def imgHandle (l : List Byte) (o : Nat) : Handle :=
  let w := (imgWord l o).toNat
  { st := hstateOf (field w 0 3), localLeft := 0, left := 0, code := BitVec.ofNat 16 (field w 16 16), ecount := BitVec.ofNat 32 (field w 32 32),
    foff := keepBits (imgWord l (o + 8)) 0 40, ops := (imgWord l (o + 16)).toNat, errs := field w 0 3 == 4 }
/-- What the full state of a Context has beyond the fields that the image's table lists: the blocked issue's place, the trap state, a sticky word of zeros, Group barrier tickets and the rest of the task's state (05 R124, 15 R323, assumption 13). -/
def Context.withRest (x y : Context) : Context :=
  { x with
    lvl := y.lvl, tail := y.tail, lsig := y.lsig, prec := y.prec, ppeer := y.ppeer, sBad := y.sBad, aBad := y.aBad, pBad := y.pBad
    causeEng := y.causeEng, iter := y.iter, skipS := y.skipS, xferred := y.xferred, trapPending := y.trapPending, saved := y.saved
    trec := y.trec, rseq := y.rseq, errors := y.errors, starts := y.starts, locks := y.locks, tickets := y.tickets, epochs := y.epochs
    leaf := y.leaf, live := y.live, sticky := y.sticky }
/-- A Context loaded from an image (05 R124): every listed field; it is PARKED, holds a task (unless the Context saved held none, `withRest`), and has nothing in flight. -/
def Context.load (x : Context) (l : List Byte) : Context :=
  let stage := imgWord l 0x10
  let status := imgWord l 0x28
  let est := (imgWord l 0x60).toNat
  { x with
    st := .parked, live := true, parkReq := false, pc := imgWord l 0, rot := (imgWord l 0x08).setWidth 6
    mode := stage.getLsbD 0, feed := stage.extractLsb' 16 32, seed := imgWord l 0x18, srcount := imgWord l 0x20
    herr := status.getLsbD 2, terr := status.getLsbD 3, bcount := imgWord l 0x30, epc := imgWord l 0x38, estat := keepBits (imgWord l 0x40) 0 10
    tscr := imgWord l 0x48, splim := imgWord l 0x50, stopf := (imgWord l 0x58).getLsbD 0
    h := field est 4 1 == 1, cause := causeOf (field est 8 4), causeEng := .matrix, oprio := (imgWord l 0x68).setWidth 3
    loops := imgLevels l 0x100, sticky := imgSticky l 0x180, qpos := (imgWord l 0x1C0).toNat % 16
    s := SMap.del (mapOf 0 32 (fun i => imgWord l (0x400 + 8 * i))) 0
    a := mapOf 0 16 (fun i => imgWord l (0x500 + 8 * i))
    p := SMap.del (SMap.del (mapOf 0 16 (fun i => BitVec.ofNat 256 (leNat ((l.drop (0x580 + 32 * i)).take 32)))) 0) 1
    sBad := [], aBad := [], pBad := [], vBad := [], sWait := [], flights := []
    ports := (List.range 12).map (fun c => (c, imgPort l (0x800 + 64 * c))), drain := [], pleat := Pleat.off
    toks := mapOf Token.free 64 (fun k => if k = 0 then Token.free else imgToken (l.getD (0xC00 + k) 0))
    hnds := mapOf Handle.free 32 (fun h => if h = 0 then Handle.free else imgHandle l (0x1000 + 32 * h))
    v := mapOf 0 128 (fun i => BitVec.ofNat 8192 (leNat ((l.drop (0x2000 + 1024 * i)).take 1024)))
    iter := 0, skipS := false, inFault := false, trapPending := none, saved := none, errors := [], tickets := [],
    epochs := [], awaits := [], cont := none, predWrites := [], lastXfer := none, lastStage := none, xferred := false, unparked := none,
    notBefore := 0, leaf := false }
/-- A Context saved, so that its image gives it back. -/
def State.keepImage (s : State) (x : Context) : State :=
  { s with images := x :: s.images.filter (fun y => decide (ctxImage y ≠ ctxImage x)) }
/-- Context `i` of cluster `k` loaded from an image: a saved Context whose image it is gives the state that the table does not list. A Context that was parked out of FAULT waits on for its fault while that is pending here. -/
def State.loadImage (s : State) (k i : Nat) (l : List Byte) : State :=
  s.modContext k i (fun x =>
    match s.images.find? (fun y => decide (ctxImage y = l)) with
    | none => x.load l
    | some y =>
      { (x.load l).withRest y with
        inFault := y.inFault && (s.cluster k).faults.any (fun f => decide (f.waiter = .ctx i ∧ f.pc = y.pc)) })

/-- The translated image at a[B] (05 R124): 4 KiB-aligned, by the issuing Context's page table; earlier writes of that Context to it come first (16 R329). -/
def imageChunks (ι : Issue) (b : Reg4) (a : Access) (w : Work) : Except Stop (List Chunk × Work) := do
  let va ← ι.ra b
  if va.toNat % 4096 ≠ 0 then ι.failAt cALIGN va
  else
    let walk := fun (s : State) => s.xlatRange ι.k va.toNat imageBytes a ι.x.h true
    match walk w.st with
    | (.error (cause, level, va), _) =>
      .error (.fault va (ringInfo 0 cause level (bnat (decide (a = .write))) ι.c 0 0) (fun s => (walk s).2))
    | (.ok cs, st) => do
      ι.heldBytes [cs]
      .ok (cs, { w with st := st })
/-- A store of the core over translated chunks (16 R326). -/
def Cluster.storeChunks (c : Cluster) (cs : List Chunk) (bs : List Byte) : Cluster :=
  (if anyDirect [cs] then c.storeL2 else c.storeCore) ((cs.map (fun x => (((bs.drop x.off).take x.len).zipIdx x.pa).map (fun q => (q.2, q.1)))).flatten)
/-- Marks with those of an image: its vectors that an uncorrectable error has struck (21 R463). -/
def imageMarks (m : SMap Bool) (cs : List Chunk) (x : Context) : SMap Bool :=
  (x.vBad.filter (·.2)).foldl (fun m p => (cs.filter (fun q => overlap q.off q.len (0x2000 + 1024 * p.1) 1024)).foldl (fun m q =>
      let lo := Nat.max q.off (0x2000 + 1024 * p.1)
      markUnits 32 m (q.pa + (lo - q.off)) (Nat.min (q.off + q.len) (0x2000 + 1024 * p.1 + 1024) - lo) true) m) m
/-- The result of `ctxsave` and `ctxload`: 0 when it acts, 1 when it refuses, written when the instruction completes, so over what has landed by then (04 R97, 06 R127). -/
def answer (ι : Issue) (d : SReg) (v : Word) (w : Work) : Res := do
  ι.ws d
  .ok (w.modX ι (fun x => (x.overtake (1 + w.idle) (fun q => q == .s d)).setS d v))
/-- `ctxsave` (05 R124). A FREE Context with a standing park request reports PARKED (05 R123), and is saved like one (assumption 89). -/
def effCtxsave (g : Reg4) (d a : SReg) (b : Reg4) : Effect := fun ι w =>
  ι.guarded g w fun w => do
    let v ← ι.rs a
    let va ← ι.ra b
    let i := ctxOf v
    let x := ι.cl.context i
    if va.toNat % 4096 ≠ 0 then ι.failAt cALIGN va
    else if i = ι.c ∨ x.shown ≠ .parked then answer ι d 1 w
    else
      match quiesced ι i with
      | .error (.block _ _ on _) => .error (.block .token .matrix on none)
      | _ => do
        let (cs, w) ← imageChunks ι b .write w
        let w := w.modCl ι (fun cl =>
          let cl := cl.storeChunks cs (ctxImage x)
          if anyDirect [cs] then { cl with poison := imageMarks cl.poison cs x } else { cl with l1Bad := imageMarks cl.l1Bad cs x })
        let w := { w with st := w.st.keepImage x }
        answer ι d 0 { w with idle := w.idle + 544 }
def effCtxload (g : Reg4) (d a : SReg) (b : Reg4) : Effect := fun ι w =>
  ι.guarded g w fun w => do
    let v ← ι.rs a
    let va ← ι.ra b
    let i := ctxOf v
    let x := ι.cl.context i
    if va.toNat % 4096 ≠ 0 then ι.failAt cALIGN va
    else if i = ι.c ∨ (x.st ≠ .free ∧ x.st ≠ .parked) ∨ !(pendingToks x).isEmpty ∨ !(pendingHnds x).isEmpty then answer ι d 1 w
    else do
      let (cs, w) ← imageChunks ι b .read w
      let cl := w.cl ι
      if cl.chunksBad cs then ι.failAt cPOISON va
      else
        let bs := cl.readChunks cs
        let w := { w with st := w.st.loadImage ι.k i bs }
        answer ι d 0 { w with idle := w.idle + 544 }

/-! Whole steps: each instruction as the issue of a plain bundle that holds it. -/

def execBr (g : Reg4) (pop : BitVec 2) (imm : BitVec 32) (s : State) : Out :=
  issuePlain (.br g pop imm) (effBr g pop imm) s
def execBrx (g : Reg4) (a : SReg) (pop : BitVec 2) (s : State) : Out :=
  issuePlain (.brx g a pop) (effBrx g a pop) s
def execCall (g : Reg4) (d : SReg) (imm : BitVec 32) (s : State) : Out :=
  issuePlain (.call g d imm) (effCall g d imm) s
def execCallx (g : Reg4) (d a : SReg) (s : State) : Out :=
  issuePlain (.callx g d a) (effCallx g d a) s
def execRet (g : Reg4) (a : SReg) (s : State) : Out :=
  issuePlain (.ret g a) (effRet g a) s
def execLoop (g : Reg4) (a : SReg) (len y : BitVec 16) (s : State) : Out :=
  issuePlain (.loop g a len y) (effLoop g a len y) s
def execLoopi (g : Reg4) (count : BitVec 15) (len y : BitVec 16) (s : State) : Out :=
  issuePlain (.loopi g count len y) (effLoopi g count len y) s
def execLoopSwp (g : Reg4) (a : SReg) (sm1 : BitVec 3) (len y : BitVec 16) (s : State) : Out :=
  issuePlain (.loopSwp g a sm1 len y) (effLoopSwp g a sm1 len y) s
def execEndt (g : Reg4) (s : State) : Out :=
  issuePlain (.endt g) (effEndt g) s
def execYield (g : Reg4) (imm : BitVec 32) (s : State) : Out :=
  issuePlain (.yield g imm) (effYield g imm) s
def execMfs (g : Reg4) (d : SReg) (num : BitVec 8) (s : State) : Out :=
  issuePlain (.mfs g d num) (effMfs g d num) s
def execMts (g : Reg4) (a : SReg) (num : BitVec 8) (s : State) : Out :=
  issuePlain (.mts g a num) (effMts g a num) s
def execTrap (g : Reg4) (code : BitVec 16) (s : State) : Out :=
  issuePlain (.trap g code) (effTrap g code) s
def execSys (g : Reg4) (code : BitVec 16) (s : State) : Out :=
  issuePlain (.sys g code) (effSys g code) s
def execEret (g : Reg4) (s : State) : Out :=
  issuePlain (.eret g) (effEret g) s
def execRdtr (g : Reg4) (d : SReg) (i : BitVec 3) (s : State) : Out :=
  issuePlain (.rdtr g d i) (effRdtr g d i) s
def execPtest (g : Reg4) (d a : SReg) (s : State) : Out :=
  issuePlain (.ptest g d a) (effPtest g d a) s
def execCtxsave (g : Reg4) (d a : SReg) (b : Reg4) (s : State) : Out :=
  issuePlain (.ctxsave g d a b) (effCtxsave g d a b) s
def execCtxload (g : Reg4) (d a : SReg) (b : Reg4) (s : State) : Out :=
  issuePlain (.ctxload g d a b) (effCtxload g d a b) s

end Sys2Proof.Machine
end

