-- ==== Sys2Proof/Machine/Num.lean ====
section
/-! DEFINITION. Numbers (02): formats, exact values, rounding, the correctly rounded functions, stochastic rounding, window sums and the other helpers of 02 R56. -/

namespace Sys2Proof.Machine

/-! Formats (02 R34, R37). -/

/-- Which NaNs a format has. -/
inductive NanKind where
  | ieee | e4m3 | none
  deriving DecidableEq, Repr

/-- A floating format: bits, mantissa bits, bias, the magnitude patterns of the largest finite value and of the infinity, its NaNs. -/
structure Fmt where
  bits : Nat
  man : Nat
  bias : Nat
  maxP : Nat
  infP : Option Nat
  nan : NanKind
  deriving DecidableEq, Repr

def fF32 : Fmt := { bits := 32, man := 23, bias := 127, maxP := 0x7F7FFFFF, infP := some 0x7F800000, nan := .ieee }
def fBF16 : Fmt := { bits := 16, man := 7, bias := 127, maxP := 0x7F7F, infP := some 0x7F80, nan := .ieee }
def fF16 : Fmt := { bits := 16, man := 10, bias := 15, maxP := 0x7BFF, infP := some 0x7C00, nan := .ieee }
def fE4M3 : Fmt := { bits := 8, man := 3, bias := 7, maxP := 0x7E, infP := none, nan := .e4m3 }
def fE5M2 : Fmt := { bits := 8, man := 2, bias := 15, maxP := 0x7B, infP := some 0x7C, nan := .ieee }
def fE2M3 : Fmt := { bits := 6, man := 3, bias := 1, maxP := 0x1F, infP := none, nan := .none }
def fE3M2 : Fmt := { bits := 6, man := 2, bias := 3, maxP := 0x1F, infP := none, nan := .none }
def fE2M1 : Fmt := { bits := 4, man := 1, bias := 1, maxP := 0x7, infP := none, nan := .none }
/-- The floating format of a type code (03 R70). -/
def fmtOf (t : Nat) : Option Fmt :=
  match t with
  | 6 => some fF32 | 7 => some fBF16 | 8 => some fF16 | 9 => some fE4M3 | 10 => some fE5M2 | 11 => some fE2M3 | 12 => some fE3M2
  | 13 => some fE2M1 | _ => none
/-- FP32, BF16 and FP16: the formats that a flush concerns (02 R49). -/
def Fmt.wide (f : Fmt) : Bool := decide (16 ≤ f.bits)
/-- The exponent of the smallest subnormal. -/
def Fmt.qmin (f : Fmt) : Int := 1 - (f.bias : Int) - (f.man : Int)
def Fmt.sign (f : Fmt) (p : Nat) : Bool := p.testBit (f.bits - 1)
def Fmt.mag (f : Fmt) (p : Nat) : Nat := p % 2 ^ (f.bits - 1)
def Fmt.withSign (f : Fmt) (s : Bool) (p : Nat) : Nat := p + (if s then 2 ^ (f.bits - 1) else 0)

/-! Values. -/

/-- A value before it is rounded. A NaN holds its sign and its payload at the top of 23 bits; a finite value is m times 2 to the e, and, where `more`, lies strictly between m and m + 1 units. -/
inductive Ex where
  | nan (s : Bool) (frac : Nat)
  | inf (s : Bool)
  | fin (s : Bool) (m : Nat) (e : Int) (more : Bool)
  deriving DecidableEq, Repr

/-- The default NaN (02 R46). -/
def Ex.invalid : Ex := .nan false (2 ^ 22)
def Ex.zero (s : Bool) : Ex := .fin s 0 0 false
def Ex.isNan : Ex → Bool
  | .nan .. => true
  | _ => false
def Ex.isZero : Ex → Bool
  | .fin _ 0 _ false => true
  | _ => false
def Ex.signBit : Ex → Bool
  | .nan s _ => s
  | .inf s => s
  | .fin s _ _ _ => s
def Ex.neg : Ex → Ex
  | .nan s f => .nan s f
  | .inf s => .inf (!s)
  | .fin s m e t => .fin (!s) m e t

/-- A pattern is a NaN. -/
def Fmt.isNan (f : Fmt) (p : Nat) : Bool :=
  match f.nan with
  | .ieee => match f.infP with | some i => decide (i < f.mag p) | none => false
  | .e4m3 => decide (f.mag p = 0x7F)
  | .none => false
/-- A pattern is a subnormal. -/
def Fmt.isSub (f : Fmt) (p : Nat) : Bool := decide (0 < f.mag p ∧ f.mag p < 2 ^ f.man)
/-- Decode (02 R35, R46). A NaN of E4M3 or E5M2 becomes the default NaN with its sign. -/
def Fmt.decode (f : Fmt) (p : Nat) : Ex :=
  let p := p % 2 ^ f.bits
  let s := f.sign p
  let g := f.mag p
  if f.isNan p then
    if f.wide then .nan s (g % 2 ^ f.man * 2 ^ (23 - f.man)) else .nan s (2 ^ 22)
  else if f.infP = some g then .inf s
  else if g < 2 ^ f.man then .fin s g f.qmin false
  else .fin s (2 ^ f.man + g % 2 ^ f.man) (f.qmin + (g / 2 ^ f.man - 1 : Nat)) false
/-- An E8M0 scale (02 R37). -/
def decodeE8 (v : Nat) : Ex := if v % 256 = 255 then .invalid else .fin false 1 ((v % 256 : Nat) - 127 : Int) false
/-- FlushIn (02 R49). -/
def Fmt.flush (f : Fmt) (ftz : Bool) (p : Nat) : Nat :=
  if ftz && f.wide && f.isSub p then f.withSign (f.sign p) 0 else p
/-- A NaN in a format (02 R46): quieted, the payload kept or cut to fit. -/
def Fmt.encNan (f : Fmt) (s : Bool) (frac : Nat) : Nat :=
  if f.wide then
    f.withSign s ((f.infP.getD 0) + (frac / 2 ^ (23 - f.man) ||| 2 ^ (f.man - 1)))
  else match f.nan with
    | .ieee => f.withSign s 0x7E
    | .e4m3 => f.withSign s 0x7F
    | .none => 0

/-! Rounding (02 R41, R42). -/

/-- Rounding modes, codes 0 to 3. -/
inductive RMode where
  | rne | rz | ru | rd
  deriving DecidableEq, Repr
def rmodeOf (r : Nat) : RMode := if r = 1 then .rz else if r = 2 then .ru else if r = 3 then .rd else .rne

/-- Whether a magnitude `k` units and a remainder moves up: `rest` is 0 for none, 1 below half, 2 half, 3 above half. -/
def roundsUp (mode : RMode) (s : Bool) (k rest : Nat) : Bool :=
  match mode with
  | .rne => decide (rest = 3 ∨ (rest = 2 ∧ k % 2 = 1))
  | .rz => false
  | .ru => decide (rest ≠ 0) && !s
  | .rd => decide (rest ≠ 0) && s
/-- The class of the remainder when `d` low bits of `m` are cut off. -/
def restClass (m d : Nat) (more : Bool) : Nat :=
  let r := m % 2 ^ d
  let h := 2 ^ (d - 1)
  if r = 0 ∧ !more then 0 else if r < h then 1 else if r = h ∧ !more then 2 else 3
/-- What an overflow gives (02 R42). -/
def Fmt.overflow (f : Fmt) (mode : RMode) (sat s : Bool) : Nat :=
  match f.infP with
  | none => f.maxP
  | some i =>
    if sat then f.maxP
    else match mode with
      | .rne => i
      | .rz => f.maxP
      | .ru => if s then f.maxP else i
      | .rd => if s then i else f.maxP
/-- The magnitude split on the format's grid: unit exponent, whole units, class of the rest. The value is not zero. -/
def Fmt.split (f : Fmt) (m : Nat) (e : Int) (more : Bool) : Int × Nat × Nat :=
  let E : Int := (m.log2 : Int) + e
  let q : Int := max (E - f.man) f.qmin
  if E + 2 < q then (q, 0, 1)
  else if q ≤ e then (q, m * 2 ^ (e - q).toNat, if more then 1 else 0)
  else (q, m / 2 ^ (q - e).toNat, restClass m (q - e).toNat more)
/-- The magnitude pattern of `k` units of 2 to the q, or what overflow gives. -/
def Fmt.pack (f : Fmt) (mode : RMode) (sat s : Bool) (q : Int) (k : Nat) : Nat :=
  if (f.bias : Int) + 1 < q + f.man then f.overflow mode sat s
  else
    let p := (q - f.qmin).toNat * 2 ^ f.man + k
    if f.maxP < p then f.overflow mode sat s else p
/-- Round(x, F, mode, sat) to a pattern (02 R42, R46, R47). -/
def Fmt.round (f : Fmt) (mode : RMode) (sat : Bool) : Ex → Nat
  | .nan s frac => f.encNan s frac
  | .inf s => f.withSign s (f.infP.getD f.maxP)
  | .fin s m e more =>
    if m = 0 then f.withSign s 0
    else
      let (q, k, rest) := f.split m e more
      f.withSign s (f.pack mode sat s q (if roundsUp mode s k rest then k + 1 else k))
/-- FlushOut of a rounded pattern. -/
def Fmt.roundZ (f : Fmt) (mode : RMode) (ftz : Bool) (x : Ex) : Nat := f.flush ftz (f.round mode false x)
/-- RNE(x) (02 R42). -/
def rne32 (x : Ex) : Nat := fF32.round .rne false x
/-- SR(x, F, y) (02 R45). -/
def Fmt.roundSR (f : Fmt) (x : Ex) (y : Nat) : Nat :=
  match x with
  | .fin s m e _ =>
    if m = 0 then f.withSign s 0
    else
      let E : Int := (m.log2 : Int) + e
      let q : Int := max (E - f.man) f.qmin
      if q ≤ e then f.round .rz true x
      else
        let d := (q - e).toNat
        let k := m / 2 ^ d
        f.withSign s (f.pack .rz true s q (if y < m % 2 ^ d * 2 ^ 32 / 2 ^ d then k + 1 else k))
  | x => f.round .rne true x
/-- A value rounded to an integer by a mode; infinities and NaNs are the caller's. -/
def roundInt (mode : RMode) (s : Bool) (m : Nat) (e : Int) : Int :=
  let n : Nat :=
    if 0 ≤ e then m * 2 ^ e.toNat
    else
      let d := (-e).toNat
      let k := m / 2 ^ d
      if roundsUp mode s k (restClass m d false) then k + 1 else k
  if s then -(n : Int) else n

/-! Exact arithmetic on values (02 R42, R46). -/

/-- The first NaN operand, else the default for an invalid operation. -/
def firstNan : List Ex → Option Ex
  | [] => none
  | .nan s f :: _ => some (.nan s f)
  | _ :: t => firstNan t
/-- A finite signed value n times 2 to the e. -/
def ofInt (n : Int) (e : Int) : Ex := .fin (decide (n < 0)) n.natAbs e false
def sgn (s : Bool) (m : Nat) : Int := if s then -(m : Int) else m
/-- The sum of two values that are no NaN. An exact zero takes the sign of 02 R42. -/
def addCore (mode : RMode) : Ex → Ex → Ex
  | .inf s, .inf t => if s = t then .inf s else .invalid
  | .inf s, _ => .inf s
  | _, .inf t => .inf t
  | .fin s m e _, .fin t n f _ =>
    if m = 0 ∧ n = 0 then (if s = t then .zero s else .zero (decide (mode = .rd)))
    else
      let g := min e f
      let v := sgn s m * 2 ^ (e - g).toNat + sgn t n * 2 ^ (f - g).toNat
      if v = 0 then .zero (decide (mode = .rd)) else ofInt v g
  | x, _ => x
def exAdd (mode : RMode) (a b : Ex) : Ex := (firstNan [a, b]).getD (addCore mode a b)
def exSub (mode : RMode) (a b : Ex) : Ex := (firstNan [a, b]).getD (addCore mode a b.neg)
/-- The product of two values that are no NaN. -/
def mulCore : Ex → Ex → Ex
  | .inf s, x => if x.isZero then .invalid else .inf (s != x.signBit)
  | x, .inf t => if x.isZero then .invalid else .inf (x.signBit != t)
  | .fin s m e _, .fin t n f _ => .fin (s != t) (m * n) (e + f) false
  | x, _ => x
def exMul (a b : Ex) : Ex := (firstNan [a, b]).getD (mulCore a b)
/-- a × b + c with one rounding; 0 × ∞ is invalid even where c is a NaN (07 R148). -/
def exFma (mode : RMode) (neg : Bool) (a b c : Ex) : Ex :=
  match firstNan [a, b] with
  | some n => n
  | none =>
    match mulCore a b with
    | .nan s f => .nan s f
    | p => if c.isNan then c else addCore mode c (if neg then p.neg else p)
/-- acc + part × sa × sb, before its one rounding (02 R52, R46): 0 × ∞ is invalid even where acc is a NaN. -/
def scaledAcc (acc part sa sb : Ex) : Ex :=
  match firstNan [part, sa, sb] with
  | some n => (firstNan [acc]).getD n
  | none =>
    match mulCore part sa with
    | .nan s f => .nan s f
    | p => match mulCore p sb with
      | .nan s f => .nan s f
      | q => exAdd .rne acc q
/-- x × 2^k. -/
def exScale (x : Ex) (k : Int) : Ex :=
  match x with
  | .fin s m e t => .fin s m (e + k) t
  | x => x
/-- Comparison of two values that are no NaN, −0 equal to +0: −1, 0 or 1. -/
def exCmp (a b : Ex) : Int :=
  match a, b with
  | .inf s, .inf t => if s = t then 0 else if s then -1 else 1
  | .inf s, _ => if s then -1 else 1
  | _, .inf t => if t then 1 else -1
  | .fin s m e _, .fin t n f _ =>
    let g := min e f
    let x := sgn s m * 2 ^ (e - g).toNat
    let y := sgn t n * 2 ^ (f - g).toNat
    if x < y then -1 else if x = y then 0 else 1
  | _, _ => 0

/-! Quotients, roots and the transcendental functions (07 R150, 02 R53). -/

/-- num / den as a value, to at least 64 bits. -/
def quot (s : Bool) (num den : Nat) (e : Int) : Ex :=
  if num = 0 then .zero s
  else
    let k := 80 + den.log2
    let n := num * 2 ^ k
    .fin s (n / den) (e - k) (decide (n % den ≠ 0))
/-- The integer square root, by the bits of the result from the top. -/
def isqrtFrom (n : Nat) : Nat → Nat → Nat
  | 0, r => r
  | i + 1, r => let t := r + 2 ^ i; isqrtFrom n i (if t * t ≤ n then t else r)
def isqrt (n : Nat) : Nat := isqrtFrom n (n.log2 / 2 + 1) 0
def exRcp : Ex → Ex
  | .nan s f => .nan s f
  | .inf s => .zero s
  | .fin s m e _ => if m = 0 then .inf s else quot s 1 m (-e)
/-- √(m 2^e), with an even exponent. -/
def sqrtPos (m : Nat) (e : Int) : Ex :=
  let k : Nat := 160 + (e % 2).toNat
  let n := m * 2 ^ k
  let r := isqrt n
  .fin false r ((e - k) / 2) (decide (r * r ≠ n))
def exSqrt : Ex → Ex
  | .nan s f => .nan s f
  | .inf s => if s then .invalid else .inf false
  | .fin s m e _ => if m = 0 then .zero s else if s then .invalid else sqrtPos m e
/-- 1/√(m 2^e) with −e − k even: the root of 2^k / m, cut. -/
def exRsq : Ex → Ex
  | .nan s f => .nan s f
  | .inf s => if s then .invalid else .zero false
  | .fin s m e _ =>
    if m = 0 then .inf s
    else if s then .invalid
    else
      let k : Nat := 240 + (e % 2).toNat
      let n := 2 ^ k / m
      let r := isqrt n
      .fin false r ((-e - k) / 2) (decide (r * r * m ≠ 2 ^ k))

/-- Bits of the fixed-point numbers below; the functions are correctly rounded because no argument of these formats has a value closer than that to a rounding boundary (assumption 14). -/
def fxBits : Nat := 256
/-- 2 atanh(1/n) for a fixed-point n-th part: Σ 2 / ((2i+1) n^(2i+1)). -/
def atanhSum (z z2 : Nat) : Nat → Nat → Nat
  | 0, _ => 0
  | i + 1, k => 2 * z / (2 * k + 1) + atanhSum (z * z2 / 2 ^ fxBits) z2 i (k + 1)
/-- ln((1 + z) / (1 - z)), z in fixed point below 1/2. -/
def lnRatio (z : Nat) : Nat := atanhSum z (z * z / 2 ^ fxBits) 130 0
def ln2 : Nat := lnRatio (2 ^ fxBits / 3)
/-- Σ x^i / i!, x in fixed point below 1. -/
def expSum (x : Nat) : Nat → Nat → Nat → Nat
  | 0, _, _ => 0
  | i + 1, t, k => t + expSum x i (t * x / 2 ^ fxBits / (k + 1)) (k + 1)
/-- 2^f for a fixed-point f below 1. -/
def exp2Frac (f : Nat) : Nat := expSum (f * ln2 / 2 ^ fxBits) 70 (2 ^ fxBits) 0
/-- Whole part and fixed-point fraction of a fixed-point integer. -/
def fxSplit (t : Int) : Int × Nat := (t / 2 ^ fxBits, (t % 2 ^ fxBits).toNat)
/-- A finite value in fixed point, cut toward minus infinity; magnitudes below 2^14. -/
def toFx (s : Bool) (m : Nat) (e : Int) : Int :=
  let k : Int := e + fxBits
  let v : Int := sgn s m
  if 0 ≤ k then v * 2 ^ k.toNat else v / 2 ^ (-k).toNat
/-- The magnitude is at least 2^13. -/
def isHuge (m : Nat) (e : Int) : Bool := decide (m ≠ 0 ∧ (13 : Int) ≤ (m.log2 : Int) + e)
def exExp2 : Ex → Ex
  | .nan s f => .nan s f
  | .inf s => if s then .zero false else .inf false
  | .fin s m e _ =>
    if m = 0 then .fin false 1 0 false
    else if isHuge m e then .fin false (2 ^ 80) (if s then -20000 else 20000) true
    else
      let (n, f) := fxSplit (toFx s m e)
      if 0 ≤ e ∨ m % 2 ^ (-e).toNat = 0 then .fin false 1 n false
      else .fin false (exp2Frac f) (n - fxBits) true
/-- log2 of a positive value. -/
def exLog2 : Ex → Ex
  | .nan s f => .nan s f
  | .inf s => if s then .invalid else .inf false
  | .fin s m e _ =>
    if m = 0 then .inf true
    else if s then .invalid
    else
      let l := m.log2
      let w : Int := (l : Int) + e
      if m = 2 ^ l then ofInt w 0
      else
        let one := 2 ^ l
        let z := (m - one) * 2 ^ fxBits / (m + one)
        let frac : Int := lnRatio z * 2 ^ fxBits / ln2
        let v : Int := w * 2 ^ fxBits + frac
        .fin (decide (v < 0)) v.natAbs (-fxBits) true
/-- Sig(x) (02 R53). -/
def sigmoid (x : Ex) : Nat :=
  match x with
  | .nan s f => fF32.encNan s f
  | .inf s => if s then 0 else 0x3F800000
  | .fin s m e _ =>
    if m = 0 then 0x3F000000
    else if isHuge m e then (if s then 0 else 0x3F800000)
    else
      let k : Int := toFx s m e * 2 ^ fxBits / (ln2 : Int)
      let (n, f) := fxSplit k
      let y := exp2Frac f
      let (num, den) := if 0 ≤ n then (y * 2 ^ n.toNat, 2 ^ fxBits + y * 2 ^ n.toNat) else (y, 2 ^ (fxBits + (-n).toNat) + y)
      match quot false num den 0 with
      | .fin s m e _ => rne32 (.fin s m e true)
      | q => rne32 q
/-- NormWeights (02 R54), FP32 patterns. -/
def normWeights (ss : List Nat) : List Nat :=
  let xs := ss.map fF32.decode
  if xs.any Ex.isNan then ss.map (fun _ => 0x7FC00000)
  else
    let total := xs.foldl (fun a x => addCore .rne a x) (.zero false)
    match total with
    | .fin _ 0 _ _ => ss.map (fun _ => rne32 (quot false 1 ss.length 0))
    | .fin _ n f _ =>
      xs.map (fun x => match x with
        | .fin s m e _ => rne32 (quot s m n (e - f))
        | x => rne32 x)
    | _ => xs.map (fun x => match x with
        | .inf _ => 0x7FC00000
        | _ => 0)

/-! Philox-4x32-10 (02 R43). -/

def philoxRound (c : Nat × Nat × Nat × Nat) (k0 k1 : Nat) : Nat × Nat × Nat × Nat :=
  let p0 := 0xD2511F53 * c.1
  let p1 := 0xCD9E8D57 * c.2.2.1
  ((p1 / 2 ^ 32 ^^^ c.2.1 ^^^ k0) % 2 ^ 32, p1 % 2 ^ 32, (p0 / 2 ^ 32 ^^^ c.2.2.2 ^^^ k1) % 2 ^ 32, p0 % 2 ^ 32)
def philoxRounds : Nat → Nat × Nat × Nat × Nat → Nat → Nat → Nat × Nat × Nat × Nat
  | 0, c, _, _ => c
  | n + 1, c, k0, k1 => philoxRounds n (philoxRound c k0 k1) ((k0 + 0x9E3779B9) % 2 ^ 32) ((k1 + 0xBB67AE85) % 2 ^ 32)
/-- The word `j` of the generator for lane `l`. -/
def philox (seed count : Word) (l j : Nat) : Nat :=
  let r := philoxRounds 10 (l % 2 ^ 32, field count.toNat 0 32, field count.toNat 32 32, 0) (field seed.toNat 0 32) (field seed.toNat 32 32)
  match j with
  | 0 => r.1
  | 1 => r.2.1
  | 2 => r.2.2.1
  | _ => r.2.2.2

/-! Window sums (02 R50, R51). -/

/-- One term cut to the window: units of 2^q, and whether a set bit was cut. -/
def windowTerm (q : Int) : Ex → Int × Bool
  | .fin s m e _ =>
    if q ≤ e then (sgn s m * 2 ^ (e - q).toNat, false)
    else
      let d := (q - e).toNat
      if m.log2 + 1 ≤ d then (0, decide (m ≠ 0)) else (sgn s (m / 2 ^ d), decide (m % 2 ^ d ≠ 0))
  | _ => (0, false)
/-- floor(log2 |t|) of a non-zero term. -/
def termExp : Ex → Option Int
  | .fin _ m e _ => if m = 0 then none else some ((m.log2 : Int) + e)
  | _ => none
/-- WindowSum (02 R51): the new accumulator pattern and the flag. -/
def windowSum (ts : List Ex) (W : Nat) (flag : Bool) : Nat × Bool :=
  let pinf := ts.contains (.inf false)
  let ninf := ts.contains (.inf true)
  if ts.any Ex.isNan || (pinf && ninf) then (0x7FC00000, flag)
  else if pinf then (0x7F800000, flag)
  else if ninf then (0xFF800000, flag)
  else
    match ts.filterMap termExp with
    | [] => (if ts.all Ex.signBit then 0x80000000 else 0, flag)
    | E0 :: Es =>
      let q : Int := Es.foldl max E0 - W + 1
      let us := ts.map (windowTerm q)
      let S := us.foldl (fun a u => a + u.1) 0
      let fl := flag || us.any (fun u => u.2)
      (if S = 0 then 0 else rne32 (ofInt S q), fl)

/-! Nested integers (02 R40). -/

/-- NIVal: the value of the top `k` of `K` bits. -/
def niVal (top : Int) (k K : Nat) (centre : Bool) : Int :=
  if k = K then top
  else top * 2 ^ (K - k) + (if centre then 2 ^ (K - 1 - k) else 0)

/-! Summation orders (02 R55), on FP32 patterns. -/

/-- One FP32 addition. -/
def add32 (mode : RMode) (a b : Nat) : Nat := fF32.round mode false (exAdd mode (fF32.decode a) (fF32.decode b))
/-- One level of the tree. -/
def treeLevel (mode : RMode) : List Nat → List Nat
  | a :: b :: t => add32 mode a b :: treeLevel mode t
  | l => l
def treeFold (mode : RMode) : Nat → List Nat → Nat
  | 0, l => l.headD 0
  | n + 1, l => treeFold mode n (treeLevel mode l)
/-- TreeSum of a power of two of values. -/
def treeSum (mode : RMode) (l : List Nat) : Nat := treeFold mode (l.length.log2) l

end Sys2Proof.Machine
end

