-- ==== Sys2Proof/Machine/Memory.lean ====
section
/-! DEFINITION. The A slot (08, 16, 19 R403): loads and stores, buffers, address arithmetic, local atomics, fences, Ports and address generators, invalidation. -/

namespace Sys2Proof.Machine

/-! Remote operations that order A-slot accesses (16 R325, R333-R339). -/

/-! The peer table (17 R345-R347). -/

/-- The entry of a peer index: device, cluster, WID; none where it names no cluster. -/
def State.readPeer (s : State) (k idx : Nat) : (Except (Nat × Nat × Nat) (Option (Nat × Nat × BitVec 12))) × State :=
  let c := s.cluster k
  if field c.peerbase.toNat 0 12 < idx then (.ok none, s)
  else
    match s.engineRead k (field c.peerbase.toNat 12 44 * 4096 + 8 * idx) 8 4 with
    | (.error f, s) => (.error f, s)
    | (.ok (bs, _), s) =>
      let e := leNat bs
      if e.testBit 17 ∧ field e 0 11 ≤ Config.maxDevice ∧ field e 11 6 ≤ 47 then
        (.ok (some (field e 0 11, field e 11 6, BitVec.ofNat 12 (field e 32 12))), s)
      else (.ok none, s)
/-- The target of an operation: the peer entry that its port has read, or, before it has, what the entry holds now (assumption 51). -/
def State.targetOf (s : State) (k : Nat) (r : Remote) : Option (Nat × Nat × BitVec 12) :=
  match r.peer with
  | some p => some p
  | none => match (s.readPeer k r.peerIdx).1 with
    | .ok p => p
    | .error _ => none

/-- The target of a remote operation lies within a scope (16 R325). A target that no peer entry names counts as within. `own` is the target of the remote operation whose release asks, for which scope peer covers that cluster and the origin only. -/
def targetWithin (scope : Nat) (dev k : Nat) (own : Option (Nat × Nat)) (peer : Option (Nat × Nat × BitVec 12)) : Bool :=
  match peer with
  | none => true
  | some (d, c, _) =>
    if scope = 6 then (match own with | some t => decide ((d, c) = t ∨ (d = dev ∧ c = k)) | none => true)
    else if 6 < scope then true
    else if scope = 5 then decide (d = dev)
    else if scope = 4 then decide (d = dev ∧ c / 12 = k / 12)
    else if scope = 3 then decide (d = dev ∧ c / 4 = k / 4)
    else decide (d = dev ∧ c = k) && decide (scope = 2)
/-- Unfinished remote operations of Context `c` that a test names and whose target lies within a scope. -/
def State.remoteOps (s : State) (k c : Nat) (scope : BitVec 4) (own : Option (Nat × Nat)) (p : Cmd → Remote → Bool) : List Nat :=
  let cl := s.cluster k
  (cl.cmds.filter (fun m => m.ctx == c && (match m.remote with
    | some r => p m r && targetWithin scope.toNat cl.device.toNat k own (s.targetOf k r)
    | none => false))).map (·.id)
/-- `get`, `ramo` and `rcas`: the operations that return data. -/
def returnsData : Instr → Bool
  | .get _ | .ramo _ | .rcas _ => true
  | _ => false
/-- An acquiring `get`, `ramo` or `rcas` (16 R336). -/
def acquires : Instr → Bool
  | .get f => decide (f.order = .acq ∨ f.order = .sc)
  | .ramo f => decide (f.order = .acq ∨ f.order = .sc)
  | .rcas f => decide (f.order = .acq ∨ f.order = .sc)
  | _ => false
/-- `put` and `acc`, which read a source range (16 R339). -/
def readsSource : Instr → Bool
  | .put _ | .acc _ => true
  | _ => false
/-- The operations that keep the Handle of an acquire from LOCAL_DONE (16 R336); under h0 the acquire itself. -/
def Cluster.acquiring (cl : Cluster) (c : Nat) : List Nat :=
  (cl.cmds.filter (fun m => m.ctx == c && (match m.remote with
    | some r => !r.locDone && (((cl.context c).hnd r.hnd).acq || (acquires m.instr && r.hnd == 0))
    | none => false))).map (·.id)
/-- The pieces of a range in the slice, from the bases of its pages. -/
def pagePieces : List Word → Nat → Nat → List (Nat × Nat)
  | [], _, _ => []
  | p :: t, va, n =>
    if n = 0 then []
    else
      let len := Nat.min n (4096 - va % 4096)
      (p.toNat + va % 4096, len) :: pagePieces t (va + len) (n - len)
/-- The local range of a `put`, `get` or `acc` in the slice, as its issue translated it. -/
def Cmd.localRange (m : Cmd) (r : Remote) : List (Nat × Nat) := if readsSource m.instr || returnsData m.instr then pagePieces m.data r.localVa.toNat r.len else []
/-- Earlier `put` and `acc` operations whose source range a write touches, until they are locally done (16 R339). -/
def Cluster.sourceOps (cl : Cluster) (c : Nat) (cs : List Chunk) : List Nat :=
  (cl.cmds.filter (fun m => m.ctx == c && readsSource m.instr && (match m.remote with
    | some r => !r.locDone && (m.localRange r).any (fun q => cs.any (fun x => overlap q.1 q.2 x.pa x.len))
    | none => false))).map (·.id)

/-! Watermarks (08 R187). -/

/-- A byte of the range lies at or above a filling channel's watermark and below the end of its range. -/
def Cluster.marked (cl : Cluster) (space : Nat) (a n : Nat) : Bool :=
  cl.chans.any (fun p => decide (p.2.st ≠ .idle) && decide (p.2.space.toNat = space)
    && overlap a n p.2.wmark.toNat (p.2.rlim.toNat - p.2.wmark.toNat))

/-! What every access to the slice passes (08 R188, R190, 05 R113, 16 R330-R339). -/

/-- SPILL for an access through a14 (05 R113). Its place among the faults of 08 R188 is assumption 73. -/
def spills (x : Context) (b : Reg4) (ranges : List (Nat × Nat)) : Bool :=
  decide (b = 14) && x.splim != 0 && ranges.any (fun r => decide (x.splim.toNat < r.1 + r.2))
/-- The waits of an access of any kind: a local join (12 R285), an acquiring load or remote operation before it, watermarks. -/
def Issue.gate (ι : Issue) (space : Nat) (ranges : List (Nat × Nat)) : Except Stop Unit :=
  let cl := ι.cl
  if cl.clk < ι.x.acqAt ∨ cl.joins.any (fun q => q.ctx == ι.c) then .error .stall
  else if !(cl.acquiring ι.c).isEmpty then .error (.block .handle .network (cl.acquiring ι.c) none)
  else if ranges.any (fun r => cl.marked space r.1 r.2) then .error .stall
  else .ok ()
/-- Translate pieces of a slice access, every one before any byte moves. -/
def xlatPieces (ι : Issue) (a : Access) : List (Nat × Nat) → Work → Except Stop (List (List Chunk) × Work)
  | [], w => .ok ([], w)
  | r :: t, w =>
    let walk := fun (s : State) => s.xlatRange ι.k r.1 r.2 a ι.x.h true
    match walk w.st with
    | (.error (cause, level, va), _) => .error (.fault va (ringInfo 0 cause level (bnat (decide (a = .write))) ι.c 0 0) (fun s => (walk s).2))
    | (.ok cs, st) =>
      match xlatPieces ι a t { w with st := st } with
      | .ok (rest, w) => .ok (cs :: rest, w)
      | .error (.fault va info walked) => .error (.fault va info (fun s => walked (walk s).2))
      | .error e => .error e
/-- What a write waits for once its bytes are known: held writes to them, and the source reads of earlier remote operations (16 R329, R339). -/
def Issue.writeGate (ι : Issue) (cs : List (List Chunk)) : Except Stop Unit := do
  ι.heldBytes cs
  let on := ι.cl.sourceOps ι.c cs.flatten
  if on.isEmpty then .ok () else .error (.block .handle .network on none)
/-- The lines of an access, each once. -/
def chunkLines (cs : List (List Chunk)) : List Nat := ((cs.map (fun l => (l.map (fun c => linesOf c.pa c.len)).flatten)).flatten).eraseDups
/-- The core's access through the L1D, or, with `l2`, one that the L2 slice performs (16 R326, R338): counted unless it hits in the L1D (19 R400), and held by the caches from then on. -/
def Cluster.countCore (cl : Cluster) (l2 : Bool) (cs : List (List Chunk)) : Cluster :=
  let ls := chunkLines cs
  let miss := if l2 then ls else ls.filter (fun l => !cl.l1.contains l)
  let cl := if cl.acbase.getLsbD 0 then miss.foldl (fun c l => c.countLine 0 l) cl else cl
  if l2 then cl.fillL2 ls false
  else (cl.fillL2 miss false).fillL1 ls
/-- A local acquire by Context `c` (16 R334): where another Context's set is tagged by one of the lines, every set that the line tags is written back. -/
def Cluster.acquire (cl : Cluster) (c : Nat) (lines : List Nat) : Cluster :=
  let tags := lines.filter (fun l => cl.relSets.any (fun r => r.ctx != c && r.tag == l))
  cl.flushSets (fun r => tags.contains r.tag)
def acqOrd (o : Order) : Bool := decide (o = .acq ∨ o = .sc)
def relOrd (o : Order) : Bool := decide (o = .rel ∨ o = .sc)

/-! Writes that take effect (16 R326, R333). -/

/-- Form a release set tagged with a line; a 17th set writes back the oldest (16 R333, R334). -/
def Cluster.formSet (c : Cluster) (ctx tag : Nat) : Cluster :=
  let c := match c.relSets with
    | r :: _ => if Config.releaseSets ≤ c.relSets.length then
        let c' := c.writeBack (r.tag :: r.lines)
        { c' with relSets := c'.relSets.drop 1 } else c
    | [] => c
  { c with relSets := c.relSets ++ [{ ctx := ctx, tag := tag, lines := (c.dirty.map (fun p => p.1 / 64)).eraseDups }] }
/-- A store with release takes effect (16 R333 steps 2 and 3). -/
def Cluster.releaseStore (c : Cluster) (ctx pa : Nat) (wide l2 : Bool) (bs : List (Nat × Byte)) : Cluster :=
  if l2 then
    let c := c.storeL2 bs
    if wide then c.formSet ctx (pa / 64) else c
  else (if wide then c.formSet ctx (pa / 64) else c).storeCore bs

/-! Local atomics (08 R197). -/

/-- The new value of an atomic on `w`-bit words. -/
def amoNew (i : Instr) (w old v c : Nat) : Nat :=
  let smin := fun (a b : Nat) => decide (sintOf w a ≤ sintOf w b)
  match i with
  | .amoCas _ => if old = c then v else old
  | .amoSwap _ => v
  | .amoAdd _ => (old + v) % 2 ^ w
  | .amoFadd _ => add32 .rne old v
  | .amoMin _ => if smin old v then old else v
  | .amoMax _ => if smin v old then old else v
  | .amoAnd _ => old &&& v
  | .amoOr _ => old ||| v
  | .amoXor _ => old ^^^ v
  | _ => old
/-- The read-modify-write at the L2 slice. Answers the old value and whether it was poisoned. -/
def Cluster.rmw (c : Cluster) (i : Instr) (pa bytes : Nat) (v cv : Word) : Nat × Bool × Cluster :=
  let lines := linesOf pa bytes
  let c := (c.writeBack lines).fillL2 lines true
  let old := leNat (c.l2Bytes pa bytes)
  let bad := c.poisoned pa bytes
  let new := amoNew i (8 * bytes) old (v.toNat % 2 ^ (8 * bytes)) (cv.toNat % 2 ^ (8 * bytes))
  (old, bad, { c with l1 := c.l1.filter (fun l => !lines.contains l), mem := memPut c.mem pa (bytesLE bytes new) })
/-- Perform the plain stores that are due, and the writes with release whose operations are all finished, oldest first for each Context (16 R329, R333). -/
def Cluster.performHeld : Nat → Cluster → Cluster
  | 0, c => c
  | n + 1, c =>
    let open_ := fun (h : HeldWrite) =>
      h.ops.all (fun o => match c.cmd o with
        | some m => (match m.remote with | some r => r.done | none => true)
        | none => true)
    let due := fun (h : HeldWrite) => match h.late with
      | some t => decide (t ≤ c.clk)
      | none => open_ h && (c.heldWrites.find? (fun g => g.ctx == h.ctx)) == some h
    match c.heldWrites.find? due with
    | none => c
    | some h =>
      let c := { c with heldWrites := c.heldWrites.erase h }
      let wide := decide (3 ≤ h.scope.toNat)
      match h.rmw with
      | none => Cluster.performHeld n (c.releaseStore h.ctx h.pa wide h.l2 h.bytes)
      | some (i, v, cv, d) =>
        let (old, bad, c) := c.rmw i h.pa h.len v cv
        let c := if wide then c.formSet h.ctx (h.pa / 64) else c
        let x := c.context h.ctx
        let land := fun (f : Flight) =>
          if f.pace = .held ∧ f.dest = .s d then
            { f with pace := .clk, remain := 40, data := BitVec.ofNat 8192 old, poison := if bad then f.poison else none }
          else f
        let x := { x with flights := x.flights.map land, loadAt := Nat.max x.loadAt (c.clk + 40) }
        Cluster.performHeld n (c.setContext h.ctx x)

/-! Loads (08 R191-R193). -/

/-- The origin of a load's data (21 R425). -/
def Issue.origin (ι : Issue) (addr : Word) : Origin :=
  { pc := ι.pc, iter := ι.iter, opcode := opcodeOf ι.instr, handle := 0, addr := addr }
/-- Data of a load on its way; its delivery counts for fences and acquires, and an .sc or SC-page access stalls for it (16 R330, R337, R338). -/
def Issue.deliver (ι : Issue) (dest : Option Dest) (data : Nat) (bad : Bool) (addr : Word) (base : Nat) (o : Order) (sync : Bool) (w : Work) : Work :=
  let (d, w) := w.lag base
  let f : Dest → Flight := fun x =>
    { dest := x, data := BitVec.ofNat 8192 data, poison := if bad then some (ι.origin addr) else none, pace := .clk, remain := d, load := true }
  let w := match dest with | some x => w.fly ι (f x) | none => w
  let at_ := ι.cl.clk + d
  let w := w.modX ι (fun x => { x with loadAt := Nat.max x.loadAt at_, acqAt := if acqOrd o then Nat.max x.acqAt at_ else x.acqAt })
  if sync then { w with idle := Nat.max w.idle (d - 1) } else w
/-- The earliest data of a load (04 R98): from the L1D, the L2 slice, or HBM. -/
def Cluster.loadBase (cl : Cluster) (cs : List (List Chunk)) : Nat :=
  let ls := chunkLines cs
  if !anyDirect cs && ls.all (fun l => cl.l1.contains l) then 10
  else if ls.all (fun l => cl.l1.contains l || (SMap.find cl.l2 l).isSome) then 36 else 240
/-- What a load does beside its data: counts, acquires. -/
def Issue.touchRead (ι : Issue) (o : Order) (cs : List (List Chunk)) (w : Work) : Work :=
  w.modCl ι (fun cl => (if acqOrd o then cl.acquire ι.c (chunkLines cs) else cl).countCore (anyDirect cs) cs)
/-- Earlier held writes of the Context make an .sc access wait (16 R330). -/
def Issue.heldWait (ι : Issue) (o : Order) : Except Stop Unit :=
  if o = .sc ∧ ι.cl.heldWrites.any (fun h => h.ctx == ι.c) then .error .stall else .ok ()

def destOf : DataReg → Option Dest
  | .s r => if r = 0 then none else some (.s r)
  | .a r => some (.a r)
  | .p r => some (.p r)
/-- Bytes and alignment of a scalar access. -/
def scalarBytes (m : AMem) : DataReg → Nat
  | .p _ => 32
  | _ => m.w.bytes
/-- A scalar load, with its data extended by `ext` (08 R191). -/
def scalarLoad (m : AMem) (x : DataReg) (ext : Nat → Nat → Nat) : Effect := fun ι w =>
  ι.guarded m.g w fun w => do
    let ea ← ι.ea m
    let n := scalarBytes m x
    let r := [(ea.toNat, n)]
    if ea.toNat % n ≠ 0 then ι.failAt cALIGN ea
    else if spills ι.x m.b r then ι.failAt cSPILL ea
    else do
      (match x with | .s d => ι.ws d | _ => .ok ())
      ι.gate 0 r
      ι.heldWait m.ord
      let (cs, w) ← xlatPieces ι .read r w
      ι.heldBytes cs
      let cl := w.cl ι
      let v := leNat (cl.readChunks cs.flatten)
      let bad := cl.chunksBad cs.flatten
      let w := ι.deliver (destOf x) (ext n v) bad ea (cl.loadBase cs) m.ord (decide (m.ord = .sc) || anySC cs) (ι.touchRead m.ord cs w)
      .ok (match x with
        | .p p => w.modX ι (fun x => { x with predWrites := (ι.cl.ic, p.toNat) :: x.predWrites })
        | _ => w)
def effLd (m : AMem) (x : DataReg) : Effect :=
  scalarLoad m x (fun n v => match x with | .p _ => v | _ => (sx64 (BitVec.ofInt 64 (sintOf (8 * n) v))).toNat)
def effLdn (m : AMem) (x : DataReg) : Effect := scalarLoad m x (fun _ v => v)

/-- The lanes of a mask. -/
def maskLanes (m : Mask) : List Nat := (List.range 256).filter (lane m)
/-- The guard of a vector move; nothing happens where it disables every lane (08 R188). -/
def Issue.masked (ι : Issue) (g : Reg4) (w : Work) (act : Mask → Work → Res) : Res :=
  match ι.rp g with
  | .error e => .error e
  | .ok m => if m = 0 then .ok w else act m w
/-- A 32-bit word at each listed lane. -/
def lanesVec (l : List (Nat × Nat)) : Nat := packElems 32 ((List.range 256).map (fun i => (SMap.find l i).getD 0))
def effLdv (m : AMem) (c : Reg4) : Effect := fun ι w =>
  ι.masked m.g w fun g w => do
    let ea ← ι.ea m
    let ls := maskLanes g
    let r := ls.map (fun l => ((ea.toNat + 4 * l) % 2 ^ 64, 4))
    if ea.toNat % 64 ≠ 0 then ι.failAt cALIGN ea
    else if spills ι.x m.b r then ι.failAt cSPILL ea
    else do
      let (id, w) ← ι.alloc c.toNat false w
      ι.gate 0 r
      ι.heldWait m.ord
      let (cs, w) ← xlatPieces ι .read r w
      ι.heldBytes cs
      let cl := w.cl ι
      let data := lanesVec (ls.zip (cs.map (fun l => leNat (cl.readChunks l))))
      .ok (ι.deliver (some (.port c.toNat id)) data (cl.chunksBad cs.flatten) ea (cl.loadBase cs) m.ord
        (decide (m.ord = .sc) || anySC cs) (ι.touchRead m.ord cs w))
/-- The enabled lanes whose index is not all ones, with the address of each element (08 R193). -/
def gathered (g : Mask) (x : Nat) (ea : Word) (n : Nat) : List (Nat × Nat) :=
  ((maskLanes g).map (fun l => (l, elem 32 x l))).filter (fun p => p.2 != 0xFFFFFFFF)
    |>.map (fun p => (p.1, (ea.toNat + p.2 * n) % 2 ^ 64))
def effLdg (m : AMem) (c : Reg4) : Effect := fun ι w =>
  ι.masked m.g w fun g w => do
    let ea ← ι.ea m
    let n := m.w.bytes
    let p := ι.x.port c.toNat
    if ea.toNat % n ≠ 0 then ι.failAt cALIGN ea
    else if !p.on || !p.idxv then ι.fail cPORT
    else firstOf (ι.alloc c.toNat false w) (ι.pop p.idx w) fun (id, w) => do
      let (xv, w) ← ι.pop p.idx w
      let es := gathered g xv.toNat ea n
      let r := es.map (fun e => (e.2, n))
      if spills ι.x m.b r then ι.failAt cSPILL ea
      else do
        ι.gate 0 r
        ι.heldWait m.ord
        let (cs, w) ← xlatPieces ι .read r w
        ι.heldBytes cs
        let cl := w.cl ι
        let data := lanesVec ((es.map (·.1)).zip (cs.map (fun l => leNat (cl.readChunks l))))
        .ok (ι.deliver (some (.port c.toNat id)) data (cl.chunksBad cs.flatten) ea (cl.loadBase cs) m.ord
          (decide (m.ord = .sc) || anySC cs) (ι.touchRead m.ord cs w))

/-! Stores (08 R191-R193). -/

/-- The bytes of pieces at their physical addresses. -/
def placeBytes (cs : List (List Chunk)) (bs : List (List Byte)) : List (Nat × Byte) :=
  ((cs.zip bs).map (fun p => (p.1.map (fun c => ((p.2.drop c.off).take c.len).zipIdx c.pa |>.map (fun q => (q.2, q.1)))).flatten)).flatten
/-- The address of a release: where its effective address lies; the first byte written where that address maps nowhere (assumption 68). -/
def Issue.releasePa (ι : Issue) (ea : Word) (bs : List (Nat × Byte)) (w : Work) : Nat :=
  match (w.st.xlat ι.k ea.toNat .write ι.x.h true).1 with
  | .ok pa _ => pa
  | .fail .. => (bs.headD (0, 0)).1
/-- The clk that the next plain store takes to enter the L1D, taken from the environment. -/
def Work.storeLag (w : Work) : Nat × Work := (w.st.storeLags.headD 0, { w with st := { w.st with storeLags := w.st.storeLags.tail } })
/-- A store of pieces with its ordering: held where a release must wait for remote operations or earlier stores, or while a plain store is on its way; else it takes effect (16 R329, R330, R333). -/
def Issue.store (ι : Issue) (o : Order) (scope : BitVec 4) (ea : Word) (cs : List (List Chunk)) (bs : List (Nat × Byte)) (w : Work) : Res := do
  ι.writeGate cs
  let cl := w.cl ι
  let wide := decide (3 ≤ scope.toNat)
  let l2 := anyDirect cs || (decide (o = .sc) && wide)
  let pa := ι.releasePa ea bs w
  let sync := decide (o = .sc) || anySC cs
  let w := w.modCl ι (fun cl => cl.countCore l2 cs)
  if !relOrd o then
    let (n, w) := if sync then (0, w) else w.storeLag
    .ok (w.modCl ι (fun cl =>
      if n = 0 then (if l2 then cl.storeL2 bs else cl.storeCore bs)
      else { cl with heldWrites := cl.heldWrites ++
        [{ ctx := ι.c, va := ea, pa := pa, len := bs.length, bytes := bs, rmw := none, l2 := l2, scope := 0, ops := [], seq := cl.nextCmd, late := some (cl.clk + n) }] }))
  else
    let ops := if wide then w.st.remoteOps ι.k ι.c scope none (fun _ r => !r.done) else []
    if !ops.isEmpty || cl.heldWrites.any (fun h => h.ctx == ι.c) then
      if sync then .error .stall
      else
        .ok (w.modCl ι (fun cl => { cl with heldWrites := cl.heldWrites ++
          [{ ctx := ι.c, va := ea, pa := pa, len := bs.length, bytes := bs, rmw := none, l2 := l2, scope := scope, ops := ops, seq := cl.nextCmd }] }))
    else .ok (w.modCl ι (fun cl => cl.releaseStore ι.c pa wide l2 bs))
/-- The value that a store writes. -/
def storeValue (ι : Issue) : DataReg → Except Stop Nat
  | .s r => (ι.rs r).map BitVec.toNat
  | .a r => (ι.ra r).map BitVec.toNat
  | .p r => (ι.rp r).map BitVec.toNat
/-- A store of one register (08 R191). Its data register is used before its address is checked, so the wait for it, or its POISON, comes before ALIGN; `stv` and `sts` take their entries after ALIGN (assumption 91). -/
def effSt (m : AMem) (x : DataReg) : Effect := fun ι w =>
  ι.guarded m.g w fun w => do
    let ea ← ι.ea m
    let v ← storeValue ι x
    let n := scalarBytes m x
    let r := [(ea.toNat, n)]
    if ea.toNat % n ≠ 0 then ι.failAt cALIGN ea
    else if spills ι.x m.b r then ι.failAt cSPILL ea
    else do
      ι.gate 0 r
      let (cs, w) ← xlatPieces ι .write r w
      ι.store m.ord m.scope ea cs (placeBytes cs [bytesLE n v]) w
def effStv (m : AMem) (c : Reg4) : Effect := fun ι w =>
  ι.masked m.g w fun g w => do
    let ea ← ι.ea m
    let ls := maskLanes g
    let r := ls.map (fun l => ((ea.toNat + 4 * l) % 2 ^ 64, 4))
    if ea.toNat % 64 ≠ 0 then ι.failAt cALIGN ea
    else if spills ι.x m.b r then ι.failAt cSPILL ea
    else do
      let (v, w) ← ι.pop c.toNat w
      ι.gate 0 r
      let (cs, w) ← xlatPieces ι .write r w
      ι.store m.ord m.scope ea cs (placeBytes cs (ls.map (fun l => bytesLE 4 (elem 32 v.toNat l)))) w
/-- The data of a scatter and its indices: the data pop first, but the index pop first where one Port holds both (08 R193). -/
def Issue.popBoth (ι : Issue) (c idx : Nat) (w : Work) : Except Stop (Vec × Vec × Work) :=
  if idx = c then do
    let (xv, w) ← ι.pop idx w
    let (v, w) ← ι.pop c w
    .ok (v, xv, w)
  else
    firstOf (ι.pop c w) (ι.pop idx w) fun (v, w) => do
      let (xv, w) ← ι.pop idx w
      .ok (v, xv, w)
def effSts (m : AMem) (c : Reg4) : Effect := fun ι w =>
  ι.masked m.g w fun g w => do
    let ea ← ι.ea m
    let n := m.w.bytes
    let p := ι.x.port c.toNat
    if ea.toNat % n ≠ 0 then ι.failAt cALIGN ea
    else if !p.on || !p.idxv then ι.fail cPORT
    else do
      let (v, xv, w) ← ι.popBoth c.toNat p.idx w
      let es := gathered g xv.toNat ea n
      let r := es.map (fun e => (e.2, n))
      if spills ι.x m.b r then ι.failAt cSPILL ea
      else do
        ι.gate 0 r
        let (cs, w) ← xlatPieces ι .write r w
        ι.store m.ord m.scope ea cs (placeBytes cs (es.map (fun e => bytesLE n (elem 32 v.toNat e.1)))) w

/-! Typed buffers (08 R183, R194). -/

def bufSpace : Buf → Nat
  | .wb => 1
  | .ab => 2
/-- The checks of a buffer row: alignment, SPILL for a row through a14 (05 R113), and the end of the buffer. -/
def bufRow (ι : Issue) (m : AMem) : Except Stop Nat := do
  let ea ← ι.ea m
  if ea.toNat % 64 ≠ 0 then ι.failAt cALIGN ea
  else if spills ι.x m.b [(ea.toNat, 1024)] then ι.failAt cSPILL ea
  else if 0xFFFC00 < ea.toNat then ι.fail cPORT
  else .ok ea.toNat
def effLdb (m : AMem) (u : Buf) (c : Reg4) : Effect := fun ι w =>
  ι.guarded m.g w fun w => do
    let o ← bufRow ι m
    let (id, w) ← ι.alloc c.toNat false w
    ι.gate (bufSpace u) [(o, 1024)]
    let cl := w.cl ι
    let f : Flight := { dest := .port c.toNat id, data := BitVec.ofNat 8192 (leNat (cl.bufBytes u o 1024)),
                        poison := if cl.bufPoisoned u o 1024 then some (ι.origin (BitVec.ofNat 64 o)) else none, pace := .clk, remain := 6, load := true }
    let w := (w.fly ι f).modX ι (fun x => { x with loadAt := Nat.max x.loadAt (cl.clk + 6) })
    .ok (if u = .ab then w.modCl ι (fun cl => { cl with agBusy := some cl.clk }) else w)
def effStb (m : AMem) (u : Buf) (c : Reg4) : Effect := fun ι w =>
  ι.guarded m.g w fun w => do
    let o ← bufRow ι m
    let (v, w) ← ι.pop c.toNat w
    ι.gate (bufSpace u) [(o, 1024)]
    .ok (w.modCl ι (fun cl => cl.writeBuf u o (bytesLE 1024 v.toNat) false))

/-- `baste` (08 R195): its whole block is held against SPLIM (05 R113, assumption 73); it comes into the L2 slice, and into the L1D unless its page is NM. -/
def effBaste (m : AMem) : Effect := fun ι w =>
  ι.guarded m.g w fun w => do
    let ea ← ι.ea m
    let va := ea.toNat / 1024 * 1024
    let drop := fun (w : Work) => w.modCl ι (fun cl => { cl with basteDrop := cl.basteDrop + 1 })
    if spills ι.x m.b [(va, 1024)] then ι.failAt cSPILL ea
    else if (w.cl ι).marked 0 va 1024 then .ok (drop w)
    else
      match w.st.xlatRange ι.k va 1024 .read ι.x.h true with
      | (.error _, st) => .ok (drop { w with st := st })
      | (.ok cs, st) =>
        let w := { w with st := st }
        .ok (if (w.cl ι).chunksBad cs then drop w else w.modCl ι (fun cl => cl.countCore (anyDirect [cs]) [cs]))

/-! Address arithmetic (08 R196). -/

/-- `nop` of the A slot reads no guard (assumption 74). -/
def effNopA (_g : Reg4) : Effect := fun _ w => .ok w
def effAadd (m : AMem) (d : Reg4) : Effect := fun ι w =>
  ι.guarded m.g w fun w => do
    let ea ← ι.ea m
    ι.putA d ea w
def effAmov (g : Reg4) (x : DataReg) (b : Reg4) : Effect := fun ι w =>
  ι.guarded g w fun w => do
    let v ← ι.ra b
    match x with
    | .s d => ι.putS d v 1 w
    | .a d => ι.putA d v w
    | .p _ => .ok w
def effAli (g : Reg4) (d : Reg4) (imm : BitVec 32) : Effect := fun ι w =>
  ι.guarded g w fun w => ι.putA d (sx64 imm) w
def effAlih (g : Reg4) (d b : Reg4) (imm : BitVec 32) : Effect := fun ι w =>
  ι.guarded g w fun w => do
    let v ← ι.ra b
    ι.putA d (imm ++ v.extractLsb' 0 32) w
def effAofs (g : Reg4) (d : SReg) (b c : Reg4) : Effect := fun ι w =>
  ι.guarded g w fun w => do
    let x ← ι.ra b
    let y ← ι.ra c
    ι.putS d (x - y) 1 w
def effSofa (g : Reg4) (d b : Reg4) (s : SReg) (k : BitVec 4) (z : Bool) : Effect := fun ι w =>
  ι.guarded g w fun w => do
    let base ← (if z then .ok 0 else ι.ra b)
    let v ← ι.rs s
    ι.putA d (base + BitVec.ofNat 64 (v.toNat * 2 ^ k.toNat)) w

/-- A local atomic (08 R197); its data registers are used before its address is checked (assumption 91). -/
def amo (f : AmoF) : Effect := fun ι w =>
  ι.guarded f.g w fun w => do
    let b ← ι.ra f.b
    let ea := b + sx64 f.off
    let v ← ι.rs f.v
    let cv ← (match ι.instr with | .amoCas _ => ι.rs f.c | _ => .ok 0)
    let n := f.w.bytes
    let r := [(ea.toNat, n)]
    if ea.toNat % n ≠ 0 then ι.failAt cALIGN ea
    else if spills ι.x f.b r then ι.failAt cSPILL ea
    else do
      ι.ws f.d
      ι.gate 0 r
      ι.heldWait f.ord
      let (cs, w) ← xlatPieces ι .write r w
      ι.writeGate cs
      let cl := w.cl ι
      let pa := ((cs.flatten.map (·.pa)).headD 0)
      let wide := decide (3 ≤ f.scope.toNat)
      let ops := if relOrd f.ord && wide then w.st.remoteOps ι.k ι.c f.scope none (fun _ r => !r.done) else []
      let sync := decide (f.ord = .sc) || anySC cs
      let w := w.modCl ι (fun cl => (if acqOrd f.ord then cl.acquire ι.c (chunkLines cs) else cl).countCore true cs)
      if relOrd f.ord && (!ops.isEmpty || cl.heldWrites.any (fun h => h.ctx == ι.c)) then
        if sync then .error .stall
        else
          let w := w.modCl ι (fun cl => { cl with heldWrites := cl.heldWrites ++
            [{ ctx := ι.c, va := ea, pa := pa, len := n, bytes := [], rmw := some (ι.instr, v, cv, f.d), l2 := true, scope := f.scope, ops := ops, seq := cl.nextCmd }] })
          .ok (if f.d = 0 then w else w.fly ι { dest := .s f.d, data := 0, poison := some (ι.origin ea), pace := .held, remain := 1, load := true })
      else
        let (old, bad, cl') := (w.cl ι).rmw ι.instr pa n v cv
        let cl' := if relOrd f.ord && wide then cl'.formSet ι.c (pa / 64) else cl'
        let w := { w with st := w.st.setCluster ι.k cl' }
        .ok (ι.deliver (if f.d = 0 then none else some (.s f.d)) old bad ea 40 f.ord sync w)
def effAmoCas (f : AmoF) : Effect := amo f
def effAmoSwap (f : AmoF) : Effect := amo f
def effAmoAdd (f : AmoF) : Effect := amo f
def effAmoFadd (f : AmoF) : Effect := amo f
def effAmoMin (f : AmoF) : Effect := amo f
def effAmoMax (f : AmoF) : Effect := amo f
def effAmoAnd (f : AmoF) : Effect := amo f
def effAmoOr (f : AmoF) : Effect := amo f
def effAmoXor (f : AmoF) : Effect := amo f

/-! Fences and waiting on memory (08 R198, R199, 16 R337). -/

/-- What a fence still waits for: the commands, and whether anything holds it. -/
def fenceWait (s : State) (k c : Nat) (o : Order) (scope : BitVec 4) : List Nat × Bool :=
  let cl := s.cluster k
  let acq := if acqOrd o then s.remoteOps k c scope none (fun m r => returnsData m.instr && !r.locDone) else []
  let rel := if relOrd o then s.remoteOps k c scope none (fun _ r => !r.done) else []
  let slow := (acqOrd o && (decide (cl.clk < (cl.context c).loadAt) || cl.heldWrites.any (fun h => h.ctx == c && h.rmw.isSome)))
    || (relOrd o && cl.heldWrites.any (fun h => h.ctx == c))
  (acq ++ rel, slow || !(acq ++ rel).isEmpty)
def effFence (g : Reg4) (o : Order) (scope : BitVec 4) : Effect := fun ι w =>
  ι.guarded g w fun w =>
    let (on, wait) := fenceWait ι.pre ι.k ι.c o scope
    if wait then .error (.block .memory .matrix on none)
    else .ok (if relOrd o ∧ 3 ≤ scope.toNat then w.modCl ι (·.writeBackAll) else w)
/-- `waitm` (08 R199); its data register is used before its address is checked (assumption 91). -/
def effWaitm (g : Reg4) (b : Reg4) (wd : Width) (acq : Bool) (_scope : BitVec 4) (off : BitVec 20) (d : SReg) (cc : Cond) : Effect := fun ι w =>
  ι.guarded g w fun w => do
    let base ← ι.ra b
    let v ← ι.rs d
    let ea := base + sx64 off
    let n := wd.bytes
    let r := [(ea.toNat, n)]
    if ea.toNat % n ≠ 0 then ι.failAt cALIGN ea
    else if spills ι.x b r then ι.failAt cSPILL ea
    else do
      ι.gate 0 r
      let (cs, w) ← xlatPieces ι .read r w
      ι.heldBytes cs
      let cl := w.cl ι
      if cl.chunksBad cs.flatten then ι.failAt cPOISON ea
      else if condHolds (8 * n) cc (leNat (cl.readChunks cs.flatten)) v.toNat then
        .ok (ι.touchRead (if acq then .acq else .plain) cs w)
      else .error (.block .memory .matrix [] none)

/-! Ports (08 R176, R200-R203). -/

def effPcfg (g : Reg4) (c : Reg4) (depth : BitVec 6) (idx : Reg4) (idxv : Bool) : Effect := fun ι w =>
  ι.guarded g w fun w =>
    let p := ι.x.port c.toNat
    let others := ((List.range 12).filter (· ≠ c.toNat)).map (fun i => (ι.x.port i).depth)
    if depth = 0 then .ok { w with ports := (c.toNat, { Port.off with nextId := p.nextId + 8 }) :: w.ports }
    else if Config.portStore < others.foldl (· + ·) 0 + depth.toNat then ι.fail cPORT
    else
      .ok { w with ports := (c.toNat, { Port.off with on := true, depth := depth.toNat, idx := idx.toNat, idxv := idxv, nextId := p.nextId + 8 }) :: w.ports }
/-- `padv` (08 R181): its k pops take part in slot order, before those of a later slot of its issue (assumption 93). -/
def effPadv (g : Reg4) (c : Reg4) (k : BitVec 6) : Effect := fun ι w =>
  ι.guarded g w fun w => do
    ι.portRead c.toNat
    .ok (w.modX ι (fun x => x.setPort c.toNat ((x.port c.toNat).drop k.toNat)))
def effPwaitFill (g : Reg4) (c : Reg4) (k : BitVec 6) : Effect := fun ι w =>
  ι.guarded g w fun w =>
    let x := ι.x
    let n := c.toNat
    if !x.portOn n then ι.fail cPORT
    else if k.toNat ≤ x.fill n then .ok w
    else if n < 12 ∧ x.fill n + x.pend n + (x.port n).gen.left < k.toNat then ι.fail cPORT
    else .error (.block .portEmpty .matrix [] none)
def effPwaitFree (g : Reg4) (c : Reg4) (k : BitVec 6) : Effect := fun ι w =>
  ι.guarded g w fun w =>
    let x := ι.x
    let n := c.toNat
    if !x.portOn n then ι.fail cPORT
    else if k.toNat ≤ x.room n then .ok w
    else if n < 12 ∧ x.depth n < k.toNat then ι.fail cPORT
    else .error (.block .portFull .matrix [] none)
/-- The word of `pquery`. -/
def portWord (x : Context) (n : Nat) : Word :=
  if !x.portOn n then 0
  else
    let p := x.port n
    BitVec.ofNat 64 (x.fill n + 2 ^ 8 * x.pend n + 2 ^ 16 * x.room n + 2 ^ 24 * x.depth n + 2 ^ 32 * bnat p.gen.active
      + 2 ^ 33 * bnat (match p.entries with | e :: _ => e.ready && e.poison | [] => false) + 2 ^ 34 * Nat.min p.gen.left (2 ^ 30 - 1))
def effPquery (g : Reg4) (d : SReg) (c : Reg4) : Effect := fun ι w =>
  ι.guarded g w fun w => ι.putS d (portWord ι.x c.toNat) 1 w

/-! Address generators (08 R185, R186). -/

/-- The least and the greatest of `i × s` for i from 0 to n − 1. -/
def spanLow (n : Nat) (s : Int) : Int := min 0 (s * ((n : Int) - 1))
def spanHigh (n : Nat) (s : Int) : Int := max 0 (s * ((n : Int) - 1))
def Gen.s0i (g : Gen) : Int := g.s0.toInt
def Gen.s1i (g : Gen) : Int := sintOf 32 (field g.strides.toNat 0 32)
def Gen.s2i (g : Gen) : Int := sintOf 32 (field g.strides.toNat 32 32)
def Gen.n0 (g : Gen) : Nat := field g.counts.toNat 0 16 + 1
def Gen.n1 (g : Gen) : Nat := field g.counts.toNat 16 16 + 1
def Gen.n2 (g : Gen) : Nat := field g.counts.toNat 32 16 + 1
/-- A walk is good (08 R185). -/
def Gen.good (g : Gen) : Bool :=
  let st : Int := g.start.toNat
  decide (g.start.toNat < 2 ^ 24 ∧ field g.counts.toNat 48 16 = 0 ∧ g.start.toNat % 64 = 0 ∧ g.s0i % 64 = 0 ∧ g.s1i % 64 = 0 ∧ g.s2i % 64 = 0
    ∧ 0 ≤ st + spanLow g.n0 g.s0i + spanLow g.n1 g.s1i + spanLow g.n2 g.s2i
    ∧ st + spanHigh g.n0 g.s0i + spanHigh g.n1 g.s1i + spanHigh g.n2 g.s2i ≤ 0xFFFC00)
/-- The offset of row `i`. -/
def Gen.row (g : Gen) (i : Nat) : Nat :=
  ((g.start.toNat : Int) + g.s0i * ((i % g.n0 : Nat) : Int) + g.s1i * ((i / g.n0 % g.n1 : Nat) : Int) + g.s2i * ((i / g.n0 / g.n1 : Nat) : Int)).toNat
def effAgset (g : Reg4) (c b : Reg4) (s0 : BitVec 20) : Effect := fun ι w =>
  ι.guarded g w fun w => do
    let x0 ← ι.ra b
    let x1 ← ι.ra (b + 1)
    let x2 ← ι.ra (b + 2)
    let p := ι.x.port c.toNat
    let gen : Gen := { active := true, start := x0, counts := x1, strides := x2, s0 := s0.signExtend 32, since := ι.cl.clk + 1, asked := 0, taken := 0 }
    if !p.on || !p.entries.isEmpty || !gen.good then ι.fail cPORT
    else .ok { w with gens := (c.toNat, gen) :: w.gens }
def effAgsetDetach (g : Reg4) (c : Reg4) : Effect := fun ι w =>
  ι.guarded g w fun w =>
    let p := ι.x.port c.toNat
    if !p.on then ι.fail cPORT else .ok { w with gens := (c.toNat, { p.gen with active := false }) :: w.gens }
/-- The generators that could request a row in clk `q`, as 16·Context + Port. -/
def Cluster.requesters (cl : Cluster) (q : Nat) : List Nat :=
  ((ctxIds.map (fun i => (List.range 12).map (fun n => (i, n)))).flatten.filter (fun p =>
    let x := cl.context p.1
    let g := (x.port p.2).gen
    decide (0 < g.left ∧ g.since ≤ q ∧ 0 < x.room p.2) && !cl.marked 2 (g.row g.asked) 1024)).map (fun p => 16 * p.1 + p.2)
/-- One clk of the AB read path: the next generator in round-robin order requests a row, which arrives 6 clk after that clk; the entry that an issue of that clk popped counts as free (assumption 77). A generator that has requested its last row is no longer active, rows still untaken or not (assumption 95). -/
def Cluster.requestRow (cl : Cluster) : Cluster :=
  let q := cl.agClk
  if cl.clk ≤ q then cl
  else
    let next := { cl with agClk := q + 1 }
    if cl.agBusy = some q then next
    else
      let rs := cl.requesters q
      match rs.find? (cl.agLast < ·) |>.or rs.head? with
      | none => next
      | some r =>
        let x := cl.context (r / 16)
        let n := r % 16
        let p := x.port n
        let o := p.gen.row p.gen.asked
        let e : PEntry := { id := p.nextId, ready := false, poison := false, fromV := false, data := 0 }
        let f : Flight :=
          { dest := .port n p.nextId, data := BitVec.ofNat 8192 (leNat (cl.bufBytes .ab o 1024))
            poison := if cl.bufPoisoned .ab o 1024 then some { pc := 0, iter := 0, opcode := 0, handle := 0, addr := 0 } else none
            pace := .clk, remain := q + 6 - cl.clk, load := false }
        let gen := { p.gen with asked := p.gen.asked + 1, active := decide (p.gen.asked + 1 < p.gen.total) }
        { next.setContext (r / 16) { x.setPort n { p with entries := p.entries ++ [e], nextId := p.nextId + 1, gen := gen } with flights := x.flights ++ [f] }
          with agLast := r }
/-- GENERATOR_ROW_REQUEST: the AB read path of cluster `arg.k` in its next clk. -/
def execGeneratorRowRequest (s : State) : Out := .next (s.modCluster s.arg.k (·.requestRow))

/-! Invalidation (19 R403). -/

/-- The page of an entry holds a byte of a range of the slice. -/
def TlbEntry.covers (e : TlbEntry) (q : Nat × Nat) : Bool := overlap (entryPa e e.base) (2 ^ e.bits) q.1 q.2
/-- What a command has translated and has still to access: a stack command's pages, the local range of a remote operation. -/
def Cmd.toAccess (m : Cmd) : List (Nat × Nat) :=
  if m.eng = .stack then (if m.started then (oddWords (m.data.drop 8)).map (fun p => (p.toNat * 4096, 4096)) else [])
  else match m.remote with
    | some r => if r.locDone then [] else m.localRange r
    | none => []
/-- The commands that have still to access a page of some entries. -/
def Cluster.cmdsUsing (cl : Cluster) (es : List TlbEntry) : List Nat := (cl.cmds.filter (fun m => m.toAccess.any (fun q => es.any (·.covers q)))).map (·.id)
/-- A write that is held back, or a local join, has still to access one; a held write of Context `c` may also be one to a page table, which later walks see (19 R403). -/
def Cluster.writesUsing (cl : Cluster) (c : Nat) (es : List TlbEntry) : Bool :=
  cl.heldWrites.any (fun h => h.ctx == c || es.any (fun e => h.touches (entryPa e e.base) (2 ^ e.bits))) || cl.joins.any (fun q => es.any (·.covers (q.pa, 64)))
/-- Remove entries once every access that used one has been performed, and every earlier write of the Context; the Context waits with cause memory wait until then (19 R403, assumption 82). -/
def invalidation (p : Issue → TlbEntry → Bool) (ptrs : Bool) : Issue → Work → Res := fun ι w =>
  let gone := (ι.cl.tlb1 ++ ι.cl.tlb2).filter (p ι)
  let on := ι.cl.cmdsUsing gone
  if !on.isEmpty ∨ ι.cl.writesUsing ι.c gone then .error (.block .memory .matrix on none)
  else .ok (w.modCl ι (fun cl => let c := cl.invalidate (p ι); if ptrs then c else { c with ptrs := cl.ptrs }))
def effTlbinv (g : Reg4) (b : Reg4) (off : BitVec 20) : Effect := fun ι w =>
  ι.guarded g w fun w => do
    let v ← ι.ra b
    let va := (v + sx64 off).toNat
    let asid : BitVec 16 := field ι.cl.asid.toNat 0 16
    if va / 2 ^ 56 ≠ 0 then invalidation (fun _ _ => false) false ι w
    else invalidation (fun _ e => tlbHit asid va e) true ι w
def effTlbinvAll (g : Reg4) : Effect := fun ι w =>
  ι.guarded g w fun w => invalidation (fun _ _ => true) true ι w
def effTlbinvAsid (g : Reg4) (a : SReg) : Effect := fun ι w =>
  ι.guarded g w fun w => do
    let v ← ι.rs a
    invalidation (fun _ e => decide (e.asid = v.setWidth 16)) true ι w

/-! Whole steps: each instruction as the issue of a plain bundle that holds it. -/

def execLd (m : AMem) (x : DataReg) (s : State) : Out :=
  issuePlain (.ld m x) (effLd m x) s
def execLdn (m : AMem) (x : DataReg) (s : State) : Out :=
  issuePlain (.ldn m x) (effLdn m x) s
def execLdv (m : AMem) (c : Reg4) (s : State) : Out :=
  issuePlain (.ldv m c) (effLdv m c) s
def execLdg (m : AMem) (c : Reg4) (s : State) : Out :=
  issuePlain (.ldg m c) (effLdg m c) s
def execSt (m : AMem) (x : DataReg) (s : State) : Out :=
  issuePlain (.st m x) (effSt m x) s
def execStv (m : AMem) (c : Reg4) (s : State) : Out :=
  issuePlain (.stv m c) (effStv m c) s
def execSts (m : AMem) (c : Reg4) (s : State) : Out :=
  issuePlain (.sts m c) (effSts m c) s
def execLdb (m : AMem) (u : Buf) (c : Reg4) (s : State) : Out :=
  issuePlain (.ldb m u c) (effLdb m u c) s
def execStb (m : AMem) (u : Buf) (c : Reg4) (s : State) : Out :=
  issuePlain (.stb m u c) (effStb m u c) s
def execBaste (m : AMem) (s : State) : Out :=
  issuePlain (.baste m) (effBaste m) s
def execNopA (g : Reg4) (s : State) : Out :=
  issuePlain (.nopA g) (effNopA g) s
def execAadd (m : AMem) (d : Reg4) (s : State) : Out :=
  issuePlain (.aadd m d) (effAadd m d) s
def execAmov (g : Reg4) (x : DataReg) (b : Reg4) (s : State) : Out :=
  issuePlain (.amov g x b) (effAmov g x b) s
def execAli (g : Reg4) (d : Reg4) (imm : BitVec 32) (s : State) : Out :=
  issuePlain (.ali g d imm) (effAli g d imm) s
def execAlih (g : Reg4) (d b : Reg4) (imm : BitVec 32) (s : State) : Out :=
  issuePlain (.alih g d b imm) (effAlih g d b imm) s
def execAofs (g : Reg4) (d : SReg) (b c : Reg4) (s : State) : Out :=
  issuePlain (.aofs g d b c) (effAofs g d b c) s
def execSofa (g : Reg4) (d b : Reg4) (sr : SReg) (k : BitVec 4) (z : Bool) (s : State) : Out :=
  issuePlain (.sofa g d b sr k z) (effSofa g d b sr k z) s
def execAmoCas (f : AmoF) (s : State) : Out :=
  issuePlain (.amoCas f) (effAmoCas f) s
def execAmoSwap (f : AmoF) (s : State) : Out :=
  issuePlain (.amoSwap f) (effAmoSwap f) s
def execAmoAdd (f : AmoF) (s : State) : Out :=
  issuePlain (.amoAdd f) (effAmoAdd f) s
def execAmoFadd (f : AmoF) (s : State) : Out :=
  issuePlain (.amoFadd f) (effAmoFadd f) s
def execAmoMin (f : AmoF) (s : State) : Out :=
  issuePlain (.amoMin f) (effAmoMin f) s
def execAmoMax (f : AmoF) (s : State) : Out :=
  issuePlain (.amoMax f) (effAmoMax f) s
def execAmoAnd (f : AmoF) (s : State) : Out :=
  issuePlain (.amoAnd f) (effAmoAnd f) s
def execAmoOr (f : AmoF) (s : State) : Out :=
  issuePlain (.amoOr f) (effAmoOr f) s
def execAmoXor (f : AmoF) (s : State) : Out :=
  issuePlain (.amoXor f) (effAmoXor f) s
def execFence (g : Reg4) (ord : Order) (scope : BitVec 4) (s : State) : Out :=
  issuePlain (.fence g ord scope) (effFence g ord scope) s
def execWaitm (g : Reg4) (b : Reg4) (w : Width) (acq : Bool) (scope : BitVec 4) (off : BitVec 20) (d : SReg) (cc : Cond) (s : State) : Out :=
  issuePlain (.waitm g b w acq scope off d cc) (effWaitm g b w acq scope off d cc) s
def execPcfg (g : Reg4) (c : Reg4) (depth : BitVec 6) (idx : Reg4) (idxv : Bool) (s : State) : Out :=
  issuePlain (.pcfg g c depth idx idxv) (effPcfg g c depth idx idxv) s
def execPadv (g : Reg4) (c : Reg4) (k : BitVec 6) (s : State) : Out :=
  issuePlain (.padv g c k) (effPadv g c k) s
def execPwaitFill (g : Reg4) (c : Reg4) (k : BitVec 6) (s : State) : Out :=
  issuePlain (.pwaitFill g c k) (effPwaitFill g c k) s
def execPwaitFree (g : Reg4) (c : Reg4) (k : BitVec 6) (s : State) : Out :=
  issuePlain (.pwaitFree g c k) (effPwaitFree g c k) s
def execPquery (g : Reg4) (d : SReg) (c : Reg4) (s : State) : Out :=
  issuePlain (.pquery g d c) (effPquery g d c) s
def execAgset (g : Reg4) (c b : Reg4) (s0 : BitVec 20) (s : State) : Out :=
  issuePlain (.agset g c b s0) (effAgset g c b s0) s
def execAgsetDetach (g : Reg4) (c : Reg4) (s : State) : Out :=
  issuePlain (.agsetDetach g c) (effAgsetDetach g c) s
def execTlbinv (g : Reg4) (b : Reg4) (off : BitVec 20) (s : State) : Out :=
  issuePlain (.tlbinv g b off) (effTlbinv g b off) s
def execTlbinvAll (g : Reg4) (s : State) : Out :=
  issuePlain (.tlbinvAll g) (effTlbinvAll g) s
def execTlbinvAsid (g : Reg4) (a : SReg) (s : State) : Out :=
  issuePlain (.tlbinvAsid g a) (effTlbinvAsid g a) s

end Sys2Proof.Machine
end

