-- ==== Sys2Proof/Machine/Barrier.lean ====
section
/-! DEFINITION. Hem, the superstep barrier of the module (15 R314-R317). HEM_ARRIVAL reads `arg.k`, the cluster, and `arg.i`, the command. -/

namespace Sys2Proof.Machine

def effHem (e : EF) : Effect := fun ι w =>
  ι.guarded e.g w fun w => do
    let (_, w) ← ι.produce .barrier e [] none w
    .ok w

/-- The cluster takes part in the round in progress. -/
def Cluster.hemOn (c : Cluster) : Bool := c.hemcfgRound.getLsbD 0
/-- Arrivals that the cluster gives to a round. -/
def Cluster.hemNeed (c : Cluster) : Nat := field c.hemcfgRound.toNat 4 2 + 1
def Cmd.isHem (m : Cmd) : Bool := match m.instr with | .hem _ => true | _ => false
/-- The `hem` commands in one phase: 0 waiting or draining, 1 counted in this round, 2 held for the next. -/
def Cluster.hems (c : Cluster) (phase : Nat) : List Cmd := c.cmds.filter (fun m => m.isHem && m.phase == phase)
/-- The status word of a `hem` on a cluster that takes no part. -/
def hemError : Finish := .error cILLEGAL (BitVec.ofNat 64 (0x40 + 2 ^ 8)) 0 0
/-- Every cluster that takes part has its arrivals. -/
def State.hemComplete (s : State) : Bool :=
  clusterIds.any (fun k => (s.cluster k).hemOn)
    && clusterIds.all (fun k => let c := s.cluster k; !c.hemOn || decide (c.hemNeed ≤ (c.hems 1).length))
/-- Finish some commands of a cluster. -/
def Cluster.finishAll (c : Cluster) (ms : List Cmd) (f : Finish) : Cluster := ms.foldl (fun c m => c.finish m f) c
/-- Release the round if it is complete (15 R316): HEMCFG writes take effect for the next. -/
def State.hemRelease (s : State) : State :=
  if s.hemComplete then
    ({ s with clusters := s.clusters.map (fun p => (p.1, p.2.finishAll (p.2.hems 1) .normal)), hgen := s.hgen + 1 } : State).hemNext
  else s
/-- What a `hem` still drains (15 R315): earlier remote operations of its Context, writes that they hold back, and local joins. -/
def Cluster.hemDrains (c : Cluster) (m : Cmd) : Bool :=
  c.cmds.any (fun q => q.ctx == m.ctx && decide (q.id < m.id) && !q.isPoll && (match q.remote with
    | some r => !r.done
    | none => false))
    || c.heldWrites.any (fun h => h.before m) || c.joinsBefore m
/-- No `hem` of the cluster that is held arrived before `m`. -/
def Cluster.heldFirst (c : Cluster) (m : Cmd) : Bool := (c.hems 2).all (fun q => decide (m.pos ≤ q.pos))
/-- The round has begun and the cluster has room in it. -/
def State.hemRoom (s : State) (k : Nat) : Bool :=
  s.hemBegun && decide (((s.cluster k).hems 1).length < (s.cluster k).hemNeed)
/-- A held `hem` counts once there is room, the one that arrived first before the others (15 R316). -/
def State.hemHeld (s : State) (k : Nat) (m : Cmd) : State :=
  let c := s.cluster k
  if !s.hemBegun ∨ !c.heldFirst m then s
  else if !c.hemOn then s.finish k m hemError
  else if s.hemRoom k then (s.setCluster k (c.setCmd { m with phase := 1 })).hemRelease else s
/-- HEM_ARRIVAL: a `hem` reaches its arrival phase, and counts in the round where that has begun and has room (15 R316). -/
def State.hemArrival (s : State) : State :=
  match s.argCmd with
  | none => s
  | some m =>
    let k := s.arg.k
    let c := s.cluster k
    if !m.isHem then s
    else if m.phase = 2 then s.hemHeld k m
    else if m.phase ≠ 0 ∨ !c.atHead m then s
    else if !c.hemOn then s.finish k m hemError
    else if c.hemDrains m then s
    else
      let c := c.writeBackAll
      let n := ((c.hems 1 ++ c.hems 2).map (·.pos)).foldl Nat.max 0
      let counted := s.hemRoom k && (c.hems 2).isEmpty
      (s.setCluster k (c.setCmd { m with started := true, phase := if counted then 1 else 2, pos := n + 1 })).hemRelease
def execHemArrival (s : State) : Out := .next s.hemArrival
/-- Every held `hem` that can count counts: one of each Context in turn (15 R316). -/
def State.hemCount (s : State) : State :=
  ctxIds.foldl (fun s _ => clusterIds.foldl (fun s k => ((s.cluster k).hems 2).foldl (fun s m => s.hemHeld k m) s) s) s
/-- The round in progress aborts (15 R317): STOPF is set in a Context of a cluster that takes part, and the round is not complete. -/
def State.hemStops (s : State) : Bool :=
  clusterIds.any (fun k => let c := s.cluster k; c.hemOn && ctxIds.any (fun i => (c.context i).stopf)) && s.hemBegun && !s.hemComplete
/-- HEM_ROUND_ABORT (15 R317): held arrivals that the round has room for count first, and a round that they complete is released instead. -/
def State.hemAbort (s : State) : State :=
  let clear := fun (c : Cluster) =>
    if c.hemOn then c.finishAll (c.hems 1 ++ (c.hems 0).filter (fun m => c.queueHead m && m.startable)) .stopped else c
  if !s.hemStops then s
  else
    let s := s.hemCount
    if s.hemStops then ({ s with clusters := s.clusters.map (fun p => (p.1, clear p.2)) } : State).hemNext else s
def execHemRoundAbort (s : State) : Out := .next s.hemAbort

/-! Whole steps: each instruction as the issue of a plain bundle that holds it. -/

def execHem (e : EF) (s : State) : Out :=
  issuePlain (.hem e) (effHem e) s

end Sys2Proof.Machine
end

