-- ==== Sys2Proof/Machine/Vector.lean ====
section
/-! DEFINITION. The vector instructions of V0 and V1 (07), with the result queue (03 R74), the scale latch (07 R156) and the push into Pleat (09 R235-R237). -/

namespace Sys2Proof

/-- Element width, type code, format and rounding mode of a word. -/
def VF.w (f : VF) : Nat := tWidth f.ty
def VF.t (f : VF) : Nat := f.ty.toNat
def VF.fmt (f : VF) : Machine.Fmt := (Machine.fmtOf f.t).getD Machine.fF32
def VF.mode (f : VF) : Machine.RMode := Machine.rmodeOf f.rnd.toNat
/-- Decode after FlushIn. -/
def VF.dec (f : VF) (x : Nat) : Machine.Ex := f.fmt.decode (f.fmt.flush f.ftz x)

end Sys2Proof

namespace Sys2Proof.Machine

/-! Lanes and elements (07 R143). -/

/-- A vector of `w`-bit elements. -/
def mkVec (w : Nat) (f : Nat → Nat) : Vec := BitVec.ofNat 8192 (packElems w ((List.range (8192 / w)).map f))
/-- Element `e` of width `w` lies in an enabled lane. -/
def onElem (m : Mask) (w e : Nat) : Bool := lane m (w * e / 32)
/-- The value of an integer element by the signedness of its type (07 R147). -/
def intVal (ty w x : Nat) : Int := if ty ≤ 2 then sintOf w x else (x % 2 ^ w : Nat)
/-- The bits that an element of a type fills in its place; the others are written as zero (02 R36). -/
def elemBits (t w : Nat) : Nat := if t = 11 ∨ t = 12 then 6 else if t = 13 then 4 else w
/-- Wrap to `w` bits. -/
def wrapTo (w : Nat) (v : Int) : Nat := (v % 2 ^ w).toNat
/-- SatS or SatN to a type's range (02 R48). -/
def satTo (ty w : Nat) (v : Int) : Nat :=
  if ty ≤ 2 then wrapTo w (max (-(2 ^ (w - 1))) (min v (2 ^ (w - 1) - 1))) else wrapTo w (max 0 (min v (2 ^ w - 1)))

/-! Sources and results (07 R145, 03 R60, R72, R74). -/

/-- A physical vector; one that an uncorrectable error has struck raises POISON, without an origin (21 R425, R429). -/
def Issue.readV (ι : Issue) (i : Nat) : Except Stop Nat := if SMap.get false ι.x.vBad i then ι.fail cPOISON else .ok (ι.x.vec i).toNat
/-- The vector that a specifier names, reading elements of `w` bits from a scalar. A Port that the word has already read gives the same entry again (03 R61). -/
def Issue.vsrc (ι : Issue) (f : VF) (w : Nat) (c : BitVec 8) (got : List (Nat × Nat)) (wk : Work) :
    Except Stop (Nat × List (Nat × Nat) × Work) :=
  let n := c.toNat
  if n < 0x10 then (ι.readV (112 + (ι.x.qpos + 16 - n) % 16)).map (fun v => (v, got, wk))
  else if n < 0x20 then
    match SMap.find got (n - 0x10) with
    | some v => .ok (v, got, wk)
    | none =>
      if f.peek then do
        let v ← ι.peek (n - 0x10)
        .ok (v.toNat, (n - 0x10, v.toNat) :: got, wk)
      else do
        let (v, wk) ← ι.pop (n - 0x10) wk
        .ok (v.toNat, (n - 0x10, v.toNat) :: got, wk)
  else if n < 0x80 then (ι.readV (64 + (n - 0x40))).map (fun v => (v, got, wk))
  else if n < 0xC0 then (ι.readV ((n - 0x80 + ι.x.rot.toNat) % 64)).map (fun v => (v, got, wk))
  else do
    let s ← ι.rs (BitVec.ofNat 5 (n - 0xC0))
    .ok ((mkVec w (fun _ => s.toNat % 2 ^ w)).toNat, got, wk)
/-- The sources of a word, in order, each with the width of its elements. Where several stop the word, the stop that prevails among slots prevails here (03 R59, 08 R179, assumption 32). -/
def Issue.vsrcs (ι : Issue) (f : VF) : List (BitVec 8 × Nat) → List (Nat × Nat) → Work → Except Stop (List Nat × Work)
  | [], _, wk => .ok ([], wk)
  | c :: t, got, wk =>
    match ι.vsrc f c.2 c.1 got wk with
    | .error e =>
      match ι.vsrcs f t got wk with
      | .error e' => .error (worseStop (some e) e')
      | .ok _ => .error e
    | .ok (v, got, wk) => do
      let (vs, wk) ← ι.vsrcs f t got wk
      .ok (v :: vs, wk)
/-- The scalar that a source names, whole. -/
def Issue.vscalar (ι : Issue) (c : BitVec 8) : Except Stop Word := ι.rs (BitVec.ofNat 5 (c.toNat - 0xC0))

def flightV (d : Dest) (v : Vec) (L : Nat) : Flight :=
  { dest := d, data := v, poison := none, pace := .ic, remain := L, load := false }
/-- Allocate a queue entry and send the result on its way: the queue entry with disabled lanes zero, and the enabled lanes of the destination (03 R74). -/
def Issue.putV (ι : Issue) (f : VF) (m : Mask) (L : Nat) (v : Vec) (w : Work) : Res :=
  let v := v &&& expand m
  let q := ((w.x ι).qpos + 1) % 16
  let w := (w.modX ι (fun x => { x with qpos := q })).fly ι (flightV (.vec (112 + q) (BitVec.allOnes 256)) v L)
  let d := f.d.toNat
  if d = 0 then .ok w
  else if d < 0x20 then do
    let (id, w) ← ι.alloc (d - 0x10) true w
    .ok (w.fly ι (flightV (.port (d - 0x10) id) v L))
  else if d < 0x80 then .ok (w.fly ι (flightV (.vec (64 + (d - 0x40)) m) v L))
  else .ok (w.fly ι (flightV (.vec ((d - 0x80 + ι.x.rot.toNat) % 64) m) v L))

/-- The place that a destination needs: an entry of a Port (08 R177). -/
def Issue.vdest (ι : Issue) (f : VF) : Except Stop Unit := if isPort f.d then ι.portAlloc (f.d.toNat - 0x10) else .ok ()
/-- The shape of every vector instruction: nothing where the guard disables every lane; else read, compute, and write after `L` ic. `srcs` are the sources read, each with the width that a scalar fills (03 R72). -/
def vecAt (f : VF) (srcs : List (BitVec 8 × Nat)) (L : Nat) (g : Issue → Mask → List Nat → Except Stop Vec)
    (post : Issue → Mask → Vec → List Nat → Work → Res) : Effect := fun ι w =>
  match ι.rp f.g with
  | .error e => .error e
  | .ok m =>
    if m = 0 then .ok w
    else do
      let (v, vs, w) ← firstOf (do
        let (vs, w) ← ι.vsrcs f srcs [] w
        let v ← g ι m vs
        .ok (v, vs, w)) (ι.vdest f) .ok
      let w ← ι.putV f m L v w
      post ι m v vs w
/-- The same where every source has elements of `rw` bits. -/
def vecOp (f : VF) (srcs : List (BitVec 8)) (rw L : Nat) (g : Issue → Mask → List Nat → Except Stop Vec)
    (post : Issue → Mask → Vec → List Nat → Work → Res) : Effect := vecAt f (srcs.map (fun c => (c, rw))) L g post
def noPost : Issue → Mask → Vec → List Nat → Work → Res := fun _ _ _ _ w => .ok w
/-- Element by element, from one, two or three sources. -/
def vmap1 (f : VF) (L : Nat) (g : Nat → Nat) : Effect :=
  vecOp f [f.s1] f.w L (fun _ _ vs => .ok (mkVec f.w (fun e => g (elem f.w (vs.getD 0 0) e)))) noPost
def vmap2 (f : VF) (L : Nat) (g : Nat → Nat → Nat) : Effect :=
  vecOp f [f.s1, f.s2] f.w L
    (fun _ _ vs => .ok (mkVec f.w (fun e => g (elem f.w (vs.getD 0 0) e) (elem f.w (vs.getD 1 0) e)))) noPost
def vmap3 (f : VF) (L : Nat) (g : Nat → Nat → Nat → Nat) : Effect :=
  vecOp f [f.s1, f.s2, f.s3] f.w L (fun _ _ vs =>
    .ok (mkVec f.w (fun e => g (elem f.w (vs.getD 0 0) e) (elem f.w (vs.getD 1 0) e) (elem f.w (vs.getD 2 0) e)))) noPost

/-! Integer arithmetic and logic (07 R147). -/

/-- An integer operation on exact values, wrapped. -/
def vint1 (f : VF) (g : Int → Int) : Effect := vmap1 f 2 (fun x => wrapTo f.w (g (intVal f.t f.w x)))
def vint2 (f : VF) (g : Int → Int → Int) : Effect := vmap2 f 2 (fun x y => wrapTo f.w (g (intVal f.t f.w x) (intVal f.t f.w y)))

def effVadd (f : VF) : Effect := vint2 f (fun a b => a + b)
def effVsub (f : VF) : Effect := vint2 f (fun a b => a - b)
def effVmul (f : VF) : Effect := vint2 f (fun a b => a * b)
def effVmulh (f : VF) : Effect := vint2 f (fun a b => a * b / 2 ^ f.w)
def effVmad (f : VF) : Effect := vmap3 f 2 (fun a b c => (a * b + c) % 2 ^ f.w)
def effVmin (f : VF) : Effect := vint2 f (fun a b => min a b)
def effVmax (f : VF) : Effect := vint2 f (fun a b => max a b)
def effVabs (f : VF) : Effect := vint1 f (fun a => if a < 0 then -a else a)
def effVneg (f : VF) : Effect := vint1 f (fun a => -a)
def effVand (f : VF) : Effect := vmap2 f 2 (fun a b => a &&& b)
def effVor (f : VF) : Effect := vmap2 f 2 (fun a b => a ||| b)
def effVxor (f : VF) : Effect := vmap2 f 2 (fun a b => a ^^^ b)
def effVnot (f : VF) : Effect := vmap1 f 2 (fun a => 2 ^ f.w - 1 - a)
def effVshl (f : VF) : Effect := vmap2 f 2 (fun a s => if f.w ≤ s then 0 else a * 2 ^ s % 2 ^ f.w)
def effVshr (f : VF) : Effect := vmap2 f 2 (fun a s => if f.w ≤ s then 0 else a / 2 ^ s)
def effVsar (f : VF) : Effect := vmap2 f 2 (fun a s => wrapTo f.w (sintOf f.w a / 2 ^ Nat.min s (f.w - 1)))
def effVclz (f : VF) : Effect := vmap1 f 2 (fun a => if a = 0 then f.w else f.w - 1 - a.log2)
def effVpopc (f : VF) : Effect := vmap1 f 2 (fun a => ((List.range f.w).filter (fun i => a.testBit i)).length)
def effVadds (f : VF) : Effect := vmap2 f 2 (fun a b => satTo f.t f.w (intVal f.t f.w a + intVal f.t f.w b))
def effVsubs (f : VF) : Effect := vmap2 f 2 (fun a b => satTo f.t f.w (intVal f.t f.w a - intVal f.t f.w b))

/-! Floating arithmetic (07 R148-R151). -/

def vflt1 (f : VF) (L : Nat) (g : Ex → Ex) : Effect := vmap1 f L (fun a => f.fmt.roundZ f.mode f.ftz (g (f.dec a)))
def vflt2 (f : VF) (g : Ex → Ex → Ex) : Effect := vmap2 f 4 (fun a b => f.fmt.roundZ f.mode f.ftz (g (f.dec a) (f.dec b)))
def effVfadd (f : VF) : Effect := vflt2 f (exAdd f.mode)
def effVfsub (f : VF) : Effect := vflt2 f (exSub f.mode)
def effVfmul (f : VF) : Effect := vflt2 f exMul
def effVfma (f : VF) : Effect := vmap3 f 4 (fun a b c => f.fmt.roundZ f.mode f.ftz (exFma f.mode false (f.dec a) (f.dec b) (f.dec c)))
def effVfnma (f : VF) : Effect := vmap3 f 4 (fun a b c => f.fmt.roundZ f.mode f.ftz (exFma f.mode true (f.dec a) (f.dec b) (f.dec c)))
/-- The order of the patterns of a format, −0 below +0, NaNs at the ends by sign and payload. -/
def Fmt.key (f : Fmt) (p : Nat) : Int := if f.sign p then -1 - (f.mag p : Int) else f.mag p
/-- `vfmin` and `vfmax` of two patterns (07 R149). -/
def Fmt.minMax (f : Fmt) (mx : Bool) (a b : Nat) : Nat :=
  match f.isNan a, f.isNan b with
  | true, true => (match f.decode a with | .nan s p => f.encNan s p | _ => a)
  | true, false => b
  | false, true => a
  | false, false => if (if mx then decide (f.key b ≤ f.key a) else decide (f.key a ≤ f.key b)) then a else b
def effVfmin (f : VF) : Effect := vmap2 f 4 (fun a b => f.fmt.minMax false (f.fmt.flush f.ftz a) (f.fmt.flush f.ftz b))
def effVfmax (f : VF) : Effect := vmap2 f 4 (fun a b => f.fmt.minMax true (f.fmt.flush f.ftz a) (f.fmt.flush f.ftz b))
def effVfabs (f : VF) : Effect := vmap1 f 4 (fun a => f.fmt.mag a)
def effVfneg (f : VF) : Effect := vmap1 f 4 (fun a => f.fmt.withSign (!f.fmt.sign a) (f.fmt.mag a))
def effVrcp (f : VF) : Effect := vflt1 f 8 exRcp
def effVrsq (f : VF) : Effect := vflt1 f 8 exRsq
def effVsqrt (f : VF) : Effect := vflt1 f 8 exSqrt
def effVexp2 (f : VF) : Effect := vflt1 f 8 exExp2
def effVlog2 (f : VF) : Effect := vflt1 f 8 exLog2
def effVsig (f : VF) : Effect := vmap1 f 8 (fun a => fF32.flush f.ftz (sigmoid (f.dec a)))

/-! Conversion (07 R152-R154). -/

/-- The exact value of an element of type `u`, flushed where asked. -/
def decodeAny (u : Nat) (ftz : Bool) (x : Nat) : Ex :=
  if u ≤ 5 then ofInt (intVal u (tWidth (BitVec.ofNat 4 u)) x) 0
  else if u = 14 then decodeE8 x
  else match fmtOf u with
    | some g => g.decode (g.flush ftz x)
    | none => .zero false
/-- Convert (07 R153): to type `t` under a mode. `satAll` saturates every finite overflow (07 R154). -/
def convert (t u : Nat) (mode : RMode) (ftz satAll : Bool) (x : Nat) : Nat :=
  let v := decodeAny u ftz x
  match fmtOf t with
  | some g => g.flush ftz (g.round mode (satAll || !g.wide) v)
  | none =>
    let w := tWidth (BitVec.ofNat 4 t)
    match v with
    | .nan _ _ => 0
    | .inf s => satTo t w (if s then -(2 ^ 64) else 2 ^ 64)
    | .fin s m e _ => satTo t w (roundInt mode s m e)
/-- Place converted elements by PART and MERGE (07 R152). `ws` and `wd` are the widths, `old` the elements that others keep, `bits` what such an element fills (02 R36), `g dst x` the conversion. -/
def placed (ws wd bits part : Nat) (a old : Nat) (g : Nat → Nat → Nat) : Vec :=
  let n := 8192 / Nat.max ws wd
  mkVec wd (fun d =>
    if wd < ws then (if part * n ≤ d ∧ d < part * n + n then g d (elem ws a (d - part * n)) else elem wd old d % 2 ^ bits)
    else g d (elem ws a (d + part * n)))
def effVcvt (f : VF) : Effect :=
  let u := (immLo f).toNat
  let ws := tWidth (immLo f)
  vecAt f ((f.s1, ws) :: if immMerge f then [(f.s2, f.w)] else []) 4 (fun _ _ vs =>
    .ok (placed ws f.w (elemBits f.t f.w) (immPart f).toNat (vs.getD 0 0) (vs.getD 1 0) (fun _ x => convert f.t u f.mode f.ftz false x))) noPost
/-- One element of `vcvts` (07 R154). -/
def convertSR (f : VF) (u : Nat) (seed count : Word) (d x : Nat) : Nat :=
  if f.rnd ≠ 4 then convert f.t u f.mode f.ftz true x
  else
    let per := 32 / f.w
    f.fmt.flush f.ftz (f.fmt.roundSR (decodeAny u f.ftz x) (philox seed count (d / per) (d % per)))
/-- `vcvts` counts its issue whatever its guard enables (02 R44). -/
def effVcvts (f : VF) : Effect := fun ι w =>
  let u := (immLo f).toNat
  let ws := tWidth (immLo f)
  let count := ι.x.srcount + BitVec.ofNat 64 w.srUses
  let w := { w.modX ι (fun x => { x with srcount := x.srcount + 1 }) with srUses := w.srUses + 1 }
  vecAt f ((f.s1, ws) :: if immMerge f then [(f.s2, f.w)] else []) 4 (fun ι _ vs =>
    .ok (placed ws f.w (elemBits f.t f.w) (immPart f).toNat (vs.getD 0 0) (vs.getD 1 0) (convertSR f u ι.x.seed count))) noPost ι w

/-! Quantisation and scales (07 R155-R160). -/

/-- EMAX of a narrow format (07 R155). -/
def emaxOf (t : Nat) : Int := match t with | 9 => 8 | 10 => 15 | 11 => 2 | 12 => 4 | _ => 2
/-- The scale of one block from its enabled lanes. -/
def blockScale (t : Nat) (vs : List Ex) : Nat :=
  if vs.any (fun v => match v with | .fin .. => false | _ => true) then 0xFF
  else
    match vs.filterMap termExp with
    | [] => 0x7F
    | E :: Es => (max 0 (min 254 (Es.foldl max E - emaxOf t + 127))).toNat
def blockScales (f : VF) (m : Mask) (a : Nat) : List Nat :=
  (List.range 8).map (fun j => blockScale f.t
    (((List.range 32).filter (fun i => lane m (32 * j + i))).map (fun i => fF32.decode (fF32.flush f.ftz (elem 32 a (32 * j + i))))))
def effVbmax (f : VF) : Effect :=
  vecOp f [f.s1] 32 4
    (fun _ m vs =>
      let a := vs.getD 0 0
      let s := blockScales f m a
      .ok (mkVec 32 (fun l => if imm0 f then s.getD (l / 32) 0 else elem 32 a l)))
    (fun ι m _ vs w =>
      let s := BitVec.ofNat 64 (packElems 8 (blockScales f m (vs.getD 0 0)))
      .ok (w.modCl ι (fun cl => { cl with latchFlights := cl.latchFlights ++ [(4, ι.c, s, BitVec.allOnes 8)] })))
/-- One element quantised by its scale (07 R157). -/
def quantise (f : VF) (x scale : Nat) : Nat :=
  if scale = 0xFF then f.fmt.encNan false (2 ^ 22)
  else f.fmt.round f.mode true (exScale (fF32.decode (fF32.flush f.ftz x)) (127 - (scale : Int)))
def effVqnt (f : VF) : Effect :=
  let srcs := (f.s1, 32) :: ((if immByp f then [] else [(f.s2, 32)]) ++ (if immMerge f then [(f.s3, 8)] else []))
  vecAt f srcs 4 (fun ι _ vs =>
    let a := vs.getD 0 0
    let old := if immMerge f then vs.getD (if immByp f then 1 else 2) 0 else 0
    let p := 256 * (immPart f).toNat
    let scale := fun (i : Nat) => if immByp f then field ι.cl.latch.toNat (8 * (i / 32)) 8 else elem 32 (vs.getD 1 0) i % 256
    .ok (mkVec 8 (fun d => if p ≤ d ∧ d < p + 256 then quantise f (elem 32 a (d - p)) (scale (d - p)) else elem 8 old d % 2 ^ elemBits f.t 8))) noPost
def effVdqnt (f : VF) : Effect :=
  let p := 256 * (immPart f).toNat
  vecAt f [(f.s1, 8), (f.s2, 32)] 4 (fun _ _ vs =>
    .ok (mkVec 32 (fun i =>
      let scale := elem 32 (vs.getD 1 0) i % 256
      if scale = 0xFF then 0x7FC00000
      else fF32.roundZ f.mode f.ftz (exScale (f.fmt.decode (elem 8 (vs.getD 0 0) (i + p))) ((scale : Int) - 127))))) noPost
def effVscale (f : VF) : Effect :=
  vmap2 f 4 (fun a b => f.fmt.roundZ f.mode f.ftz (exScale (f.dec a) (sintOf f.w b)))
/-- One lane of `vsacc` (07 R160, 02 R52): FTZ acts on acc, part and the result, never on a scale. -/
def scaleAccLane (f : VF) (acc part sc : Nat) : Nat :=
  let d := fun (x : Nat) => fF32.decode (fF32.flush f.ftz x)
  if f.ty = 14 then
    if sc % 256 = 255 ∨ sc / 256 % 256 = 255 then 0x7FC00000
    else fF32.flush f.ftz (rne32 (scaledAcc (d acc) (d part) (decodeE8 sc) (decodeE8 (sc / 256))))
  else fF32.flush f.ftz (rne32 (scaledAcc (d acc) (d part) (fF32.decode sc) (.fin false 1 0 false)))
def effVsacc (f : VF) : Effect :=
  vecOp f [f.s1, f.s2, f.s3] 32 4 (fun _ _ vs =>
    .ok (mkVec 32 (fun e => scaleAccLane f (elem 32 (vs.getD 0 0) e) (elem 32 (vs.getD 1 0) e) (elem 32 (vs.getD 2 0) e)))) noPost

/-! Bit planes (07 R161, 02 R39). -/

/-- Byte `b` of the plane-major form of 1,024 elements of K bits. -/
def planeByte (K a b : Nat) : Nat :=
  if 128 * K ≤ b then 0
  else
    let g := b / (64 * K)
    let j := b % (64 * K) / 64
    let i := b % 64
    packElems 1 ((List.range 8).map (fun t => bnat ((elem 8 a (512 * g + 8 * i + t)).testBit (K - 1 - j))))
/-- Element `e` of K bits read from plane-major form. -/
def unplaneElem (K a e : Nat) : Nat :=
  let g := e / 512
  let i := e % 512
  let v := packElems 1 ((List.range K).map (fun b =>
    let j := K - 1 - b
    bnat ((elem 8 a (64 * K * g + 64 * j + i / 8)).testBit (i % 8))))
  wrapTo 8 (sintOf K v)
def effVplane (f : VF) : Effect :=
  vecOp f [f.s1] 8 3 (fun _ _ vs => .ok (mkVec 8 (planeByte f.imm.toNat (vs.getD 0 0)))) noPost
def effVunplane (f : VF) : Effect :=
  vecOp f [f.s1] 8 3 (fun _ _ vs => .ok (mkVec 8 (unplaneElem f.imm.toNat (vs.getD 0 0)))) noPost

/-! Compares and classes (07 R162-R164). -/

/-- The mask of a condition over elements: a lane holds when every element of it does. -/
def condMask (w : Nat) (c : Nat → Bool) : Mask :=
  maskOf (fun l => (List.range (32 / w)).all (fun i => c (l * (32 / w) + i)))
/-- A compare: the vector result and, where E names one, the pair. -/
def vcompare (f : VF) (srcs : List (BitVec 8)) (elemOf : Issue → List Nat → Except Stop (Nat → Nat)) (cond : Issue → List Nat → Except Stop (Nat → Bool)) :
    Effect :=
  vecOp f srcs f.w 3
    (fun ι _ vs => do
      let g ← elemOf ι vs
      .ok (mkVec f.w g))
    (fun ι m _ vs w =>
      if immE f = 0 then .ok w
      else do
        let c ← cond ι vs
        ι.putLanes (immE f) (flightPair (immE f) (condMask f.w c) m) w)
def condBits (f : VF) (c : Nat → Bool) (e : Nat) : Nat := if c e then 2 ^ f.w - 1 else 0
/-- The integer conditions, codes 0 to 5. -/
def intCond (cc : Nat) (a b : Int) : Bool :=
  match cc with
  | 0 => decide (a = b)
  | 1 => decide (a ≠ b)
  | 2 => decide (a < b)
  | 3 => decide (b ≤ a)
  | 4 => decide (a ≤ b)
  | _ => decide (b < a)
def vcmpAt (f : VF) (vs : List Nat) (e : Nat) : Bool :=
  intCond (immLo f).toNat (intVal f.t f.w (elem f.w (vs.getD 0 0) e)) (intVal f.t f.w (elem f.w (vs.getD 1 0) e))
def effVcmp (f : VF) : Effect :=
  vcompare f [f.s1, f.s2] (fun _ vs => .ok (condBits f (vcmpAt f vs))) (fun _ vs => .ok (vcmpAt f vs))
/-- The floating conditions, codes 0 to 6 (07 R163). -/
def fltCond (cc : Nat) (a b : Ex) : Bool :=
  let un := a.isNan || b.isNan
  match cc with
  | 1 => un || decide (exCmp a b ≠ 0)
  | 6 => un
  | n => !un && intCond n (exCmp a b) 0
def vfcmpAt (f : VF) (vs : List Nat) (e : Nat) : Bool :=
  fltCond (immLo f).toNat (f.dec (elem f.w (vs.getD 0 0) e)) (f.dec (elem f.w (vs.getD 1 0) e))
def effVfcmp (f : VF) : Effect :=
  vcompare f [f.s1, f.s2] (fun _ vs => .ok (condBits f (vfcmpAt f vs))) (fun _ vs => .ok (vfcmpAt f vs))
/-- The class number of a pattern (07 R164). -/
def Fmt.classOf (f : Fmt) (p : Nat) : Nat :=
  let p := p % 2 ^ f.bits
  let g := f.mag p
  let s := f.sign p
  if f.isNan p then (if f.nan = .e4m3 ∨ g.testBit (f.man - 1) then 8 else 9)
  else if f.infP = some g then (if s then 0 else 7)
  else if g = 0 then (if s then 3 else 4)
  else if g < 2 ^ f.man then (if s then 2 else 5)
  else if s then 1 else 6
def classAt (f : VF) (vs : List Nat) (e : Nat) : Nat := f.fmt.classOf (elem f.w (vs.getD 0 0) e)
def effVclass (f : VF) : Effect :=
  vcompare f [f.s1]
    (fun ι vs => do
      let _ ← ι.vscalar f.s2
      .ok (classAt f vs))
    (fun ι vs => do
      let s ← ι.vscalar f.s2
      .ok (fun e => s.getLsbD (classAt f vs e)))

/-! Selection and permutation (07 R165, R166). -/

/-- Element `j` of a followed by b. -/
def joined (w a b j : Nat) : Nat := if j < 8192 / w then elem w a j else if j < 2 * (8192 / w) then elem w b (j - 8192 / w) else 0
/-- A vector of moved elements of a word's type: the bits of a place that hold no element are zero (02 R36). -/
def moved (f : VF) (g : Nat → Nat) : Vec := mkVec f.w (fun e => g e % 2 ^ elemBits f.t f.w)
def effVsel (f : VF) : Effect :=
  vecOp f [f.s1, f.s2] f.w 2 (fun ι _ vs => do
    let p ← ι.rp (immLo f)
    .ok (moved f (fun e => elem f.w (vs.getD (if onElem p f.w e then 0 else 1) 0) e))) noPost
def effVperm (f : VF) : Effect :=
  vecOp f [f.s1, f.s2, f.s3] f.w 3 (fun _ _ vs =>
    .ok (mkVec f.w (fun e => joined f.w (vs.getD 0 0) (vs.getD 1 0) (elem f.w (vs.getD 2 0) e)))) noPost
/-- The element that a scalar names, 0 past the end. -/
def pickElem (w a j : Nat) : Nat := if j < 8192 / w then elem w a j else 0
def effVbcast (f : VF) : Effect :=
  vecOp f [f.s1] f.w 3 (fun ι _ vs => do
    let j ← ι.vscalar f.s2
    .ok (moved f (fun _ => pickElem f.w (vs.getD 0 0) j.toNat))) noPost
def effVshift (f : VF) : Effect :=
  vecOp f [f.s1, f.s2] f.w 3 (fun _ _ vs =>
    .ok (moved f (fun e => joined f.w (vs.getD 0 0) (vs.getD 1 0) (e + f.imm.toNat)))) noPost
def effVzip (f : VF) : Effect :=
  vecOp f [f.s1, f.s2] f.w 3 (fun _ _ vs =>
    let a := vs.getD 0 0
    let b := vs.getD 1 0
    if f.ty = 13 then
      .ok (mkVec 8 (fun j =>
        let v := if j < 512 then a else b
        let i := 2 * (j % 512)
        elem 8 v i % 16 + 16 * (elem 8 v (i + 1) % 16)))
    else
      let h := bnat (imm0 f) * (8192 / f.w / 2)
      .ok (moved f (fun e => elem f.w (if e % 2 = 0 then a else b) (h + e / 2)))) noPost
def effVunzip (f : VF) : Effect :=
  vecOp f (if f.ty = 13 then [f.s1] else [f.s1, f.s2]) f.w 3 (fun _ _ vs =>
    if f.ty = 13 then .ok (mkVec 8 (fun i => elem 4 (vs.getD 0 0) (1024 * bnat (imm0 f) + i)))
    else .ok (moved f (fun i => joined f.w (vs.getD 0 0) (vs.getD 1 0) (2 * i + bnat (imm0 f))))) noPost
def lanesOf (m : Mask) : List Nat := (List.range 256).filter (lane m)
def effVcompress (f : VF) : Effect :=
  vecOp f [f.s1] f.w 3 (fun ι _ vs => do
    let p ← ι.rp (immLo f)
    let ls := lanesOf p
    .ok (mkVec 32 (fun l => match ls[l]? with | some j => elem 32 (vs.getD 0 0) j | none => 0))) noPost
def effVexpand (f : VF) : Effect :=
  vecOp f [f.s1] f.w 3 (fun ι _ vs => do
    let p ← ι.rp (immLo f)
    .ok (mkVec 32 (fun l => if lane p l then elem 32 (vs.getD 0 0) ((lanesOf p).takeWhile (· < l)).length else 0))) noPost

/-! Reductions and scans (07 R167, R168). -/

/-- The integer operations, codes 0 to 5, on elements. -/
def intRed (ty w op : Nat) (a b : Nat) : Nat :=
  match op with
  | 0 => (a + b) % 2 ^ w
  | 1 => if intVal ty w a ≤ intVal ty w b then a else b
  | 2 => if intVal ty w b ≤ intVal ty w a then a else b
  | 3 => a &&& b
  | 4 => a ||| b
  | _ => a ^^^ b
/-- The enabled elements, in order. -/
def enabled (m : Mask) (w : Nat) : List Nat := (List.range (8192 / w)).filter (onElem m w)
/-- Inclusive prefixes of a list under an operation. -/
def prefixes (op : Nat → Nat → Nat) : Option Nat → List Nat → List Nat
  | _, [] => []
  | none, v :: t => v :: prefixes op (some v) t
  | some x, v :: t => op x v :: prefixes op (some (op x v)) t
def effVred (f : VF) : Effect :=
  vecOp f [f.s1] f.w 6 (fun _ m vs =>
    let l := (enabled m f.w).map (elem f.w (vs.getD 0 0))
    let x := match l with | [] => 0 | v :: t => t.foldl (intRed f.t f.w f.imm.toNat) v
    .ok (mkVec f.w (fun _ => x))) noPost
/-- An element of an HF type as an FP32 pattern, exactly. -/
def toF32 (f : VF) (x : Nat) : Nat :=
  match f.dec x with
  | .nan s p => fF32.withSign s (0x7F800000 + p)
  | v => rne32 v
/-- An FP32 value rounded to T with FlushOut. -/
def fromF32 (f : VF) (x : Nat) : Nat := f.fmt.roundZ f.mode f.ftz (fF32.decode x)
def effVfred (f : VF) : Effect :=
  vecOp f [f.s1] f.w 6 (fun _ m vs =>
    let a := vs.getD 0 0
    let x := if f.imm = 0 then
        fromF32 f (treeSum f.mode ((List.range (8192 / f.w)).map (fun e => if onElem m f.w e then toF32 f (elem f.w a e) else 0)))
      else
        match (enabled m f.w).map (fun e => f.fmt.flush f.ftz (elem f.w a e)) with
        | [] => 0
        | v :: t => f.fmt.roundZ .rne f.ftz (f.fmt.decode (t.foldl (f.fmt.minMax (decide (f.imm = 2))) v))
    .ok (mkVec f.w (fun _ => x))) noPost
/-- Put a list of values at the enabled elements in order. -/
def scatter (m : Mask) (w : Nat) (l : List Nat) : Vec :=
  let es := enabled m w
  let t := es.zip l
  mkVec w (fun e => match SMap.find t e with | some v => v | none => 0)
def effVscan (f : VF) : Effect :=
  vecOp f [f.s1] f.w 6 (fun _ m vs =>
    .ok (scatter m f.w (prefixes (intRed f.t f.w f.imm.toNat) none ((enabled m f.w).map (elem f.w (vs.getD 0 0)))))) noPost
def effVfscan (f : VF) : Effect :=
  vecOp f [f.s1] f.w 6 (fun _ m vs =>
    let a := vs.getD 0 0
    if f.imm = 0 then
      .ok (scatter m f.w ((prefixes (add32 f.mode) none ((enabled m f.w).map (fun e => toF32 f (elem f.w a e)))).map (fromF32 f)))
    else
      let l := (enabled m f.w).map (fun e => f.fmt.flush f.ftz (elem f.w a e))
      .ok (scatter m f.w ((prefixes (f.fmt.minMax (decide (f.imm = 2))) none l).map (fun x => f.fmt.roundZ .rne f.ftz (f.fmt.decode x))))) noPost

/-! Sort and segmented sum (07 R169, R170). -/

/-- Insert a key with its lane after the keys that are not above it. -/
def insertKey (k : Int) (l : Nat) : List (Int × Nat) → List (Int × Nat)
  | [] => [(k, l)]
  | p :: t => if p.1 ≤ k then p :: insertKey k l t else (k, l) :: p :: t
def sortKey (f : VF) (x : Nat) : Int := if f.ty = 6 then fF32.key x else intVal f.t 32 x
def effVsort (f : VF) : Effect :=
  vecOp f [f.s1] 32 12 (fun _ m vs =>
    let a := vs.getD 0 0
    let sorted := (enabled m 32).foldl (fun acc l => insertKey (sortKey f (elem 32 a l)) l acc) []
    .ok (scatter m 32 (sorted.map (fun p => if imm0 f then p.2 else elem 32 a p.2)))) noPost
/-- Runs of equal keys: head, and lanes. -/
def runsOf (k : Nat) : List Nat → List (List Nat)
  | [] => []
  | l :: t =>
    match runsOf k t with
    | (h :: r) :: rest => if elem 32 k l = elem 32 k h then (l :: h :: r) :: rest else [l] :: (h :: r) :: rest
    | rest => [l] :: rest
/-- The sum of a run (07 R170). -/
def runSum (f : VF) (vs : List Nat) : Nat :=
  if f.ty = 6 then
    match vs.map (fF32.flush f.ftz) with
    | [] => 0
    | v :: t => fF32.flush f.ftz (t.foldl (add32 f.mode) v)
  else vs.foldl (fun a b => (a + b) % 2 ^ 32) 0
def effVsegsum (f : VF) : Effect :=
  vecOp f [f.s1, f.s2] 32 12 (fun _ m vs =>
    let rs := runsOf (vs.getD 1 0) (enabled m 32)
    let out := fun (r : List Nat) =>
      (if imm0 f then 2 ^ 32 - 1 else runSum f (r.map (elem 32 (vs.getD 0 0)))) :: List.replicate (r.length - 1) 0
    .ok (scatter m 32 ((rs.map out).flatten))) noPost

/-! Moves (07 R171). -/

def effVmov (f : VF) : Effect := vmap1 f 2 (fun a => a)
def effVli (f : VF) : Effect :=
  vecOp f [] f.w 2 (fun _ _ _ => .ok (mkVec f.w (fun _ => wrapTo f.w (intVal f.t 8 f.imm.toNat)))) noPost
def effVext (f : VF) : Effect :=
  vecOp f [f.s1] f.w 3 (fun ι _ vs => do
    let j ← ι.vscalar f.s2
    .ok (moved f (fun e => if e = 0 then pickElem f.w (vs.getD 0 0) j.toNat else 0))) noPost
def effVins (f : VF) : Effect :=
  vecOp f [f.s1, f.s2] f.w 3 (fun ι _ vs => do
    let j ← ι.vscalar f.s3
    .ok (moved f (fun e => if e = j.toNat then elem f.w (vs.getD 1 0) 0 else elem f.w (vs.getD 0 0) e))) noPost
def effVidx (f : VF) : Effect :=
  vecOp f [] f.w 2 (fun _ _ _ => .ok (mkVec f.w (fun e => (f.imm.toNat + e) % 2 ^ f.w))) noPost

/-! Pleat (09 R235-R237). -/

/-- The 32 entries of a tile from its pushes. -/
def pleatEntries (h : Nat) (w16 : Bool) (rows : List Vec) : List Vec :=
  let w := if w16 then 16 else 32
  (List.range 32).map (fun i => mkVec w (fun e =>
    let g := e / 32
    let j := e % 32
    if j < h then elem w ((rows.getD j 0).toNat) (32 * g + i) else 0))
/-- A push raises PLEAT_OVF (09 R237). -/
def pleatFull (x : Context) (w : Nat) : Bool :=
  !x.pleat.on || decide (w ≠ if x.pleat.w16 then 16 else 32)
    || (x.pleat.filling.isEmpty && decide (2 ≤ x.pleat.tiles.length + (x.fill 13 + 31) / 32))
/-- Push a row; the H-th starts the return count (09 R236). -/
def Pleat.pushRow (p : Pleat) (v : Vec) : Pleat :=
  let rows := p.filling ++ [v]
  if rows.length < p.h then { p with filling := rows }
  else { p with filling := [], tiles := p.tiles ++ [{ remain := 48, rows := pleatEntries p.h p.w16 rows }] }
def effVxpush (f : VF) : Effect :=
  vecOp f [f.s1] f.w 2
    (fun ι _ vs => if pleatFull ι.x f.w then ι.fail cPLEAT else .ok (mkVec f.w (fun e => elem f.w (vs.getD 0 0) e)))
    (fun ι m v _ w => .ok (w.modX ι (fun x => { x with pleat := x.pleat.pushRow (v &&& expand m) })))

/-! Whole steps: each instruction as the issue of a plain bundle that holds it. -/

def execVadd (f : VF) (s : State) : Out :=
  issuePlain (.vadd f) (effVadd f) s
def execVsub (f : VF) (s : State) : Out :=
  issuePlain (.vsub f) (effVsub f) s
def execVmul (f : VF) (s : State) : Out :=
  issuePlain (.vmul f) (effVmul f) s
def execVmulh (f : VF) (s : State) : Out :=
  issuePlain (.vmulh f) (effVmulh f) s
def execVmad (f : VF) (s : State) : Out :=
  issuePlain (.vmad f) (effVmad f) s
def execVmin (f : VF) (s : State) : Out :=
  issuePlain (.vmin f) (effVmin f) s
def execVmax (f : VF) (s : State) : Out :=
  issuePlain (.vmax f) (effVmax f) s
def execVabs (f : VF) (s : State) : Out :=
  issuePlain (.vabs f) (effVabs f) s
def execVneg (f : VF) (s : State) : Out :=
  issuePlain (.vneg f) (effVneg f) s
def execVand (f : VF) (s : State) : Out :=
  issuePlain (.vand f) (effVand f) s
def execVor (f : VF) (s : State) : Out :=
  issuePlain (.vor f) (effVor f) s
def execVxor (f : VF) (s : State) : Out :=
  issuePlain (.vxor f) (effVxor f) s
def execVnot (f : VF) (s : State) : Out :=
  issuePlain (.vnot f) (effVnot f) s
def execVshl (f : VF) (s : State) : Out :=
  issuePlain (.vshl f) (effVshl f) s
def execVshr (f : VF) (s : State) : Out :=
  issuePlain (.vshr f) (effVshr f) s
def execVsar (f : VF) (s : State) : Out :=
  issuePlain (.vsar f) (effVsar f) s
def execVclz (f : VF) (s : State) : Out :=
  issuePlain (.vclz f) (effVclz f) s
def execVpopc (f : VF) (s : State) : Out :=
  issuePlain (.vpopc f) (effVpopc f) s
def execVadds (f : VF) (s : State) : Out :=
  issuePlain (.vadds f) (effVadds f) s
def execVsubs (f : VF) (s : State) : Out :=
  issuePlain (.vsubs f) (effVsubs f) s
def execVfadd (f : VF) (s : State) : Out :=
  issuePlain (.vfadd f) (effVfadd f) s
def execVfsub (f : VF) (s : State) : Out :=
  issuePlain (.vfsub f) (effVfsub f) s
def execVfmul (f : VF) (s : State) : Out :=
  issuePlain (.vfmul f) (effVfmul f) s
def execVfma (f : VF) (s : State) : Out :=
  issuePlain (.vfma f) (effVfma f) s
def execVfnma (f : VF) (s : State) : Out :=
  issuePlain (.vfnma f) (effVfnma f) s
def execVfmin (f : VF) (s : State) : Out :=
  issuePlain (.vfmin f) (effVfmin f) s
def execVfmax (f : VF) (s : State) : Out :=
  issuePlain (.vfmax f) (effVfmax f) s
def execVfabs (f : VF) (s : State) : Out :=
  issuePlain (.vfabs f) (effVfabs f) s
def execVfneg (f : VF) (s : State) : Out :=
  issuePlain (.vfneg f) (effVfneg f) s
def execVrcp (f : VF) (s : State) : Out :=
  issuePlain (.vrcp f) (effVrcp f) s
def execVrsq (f : VF) (s : State) : Out :=
  issuePlain (.vrsq f) (effVrsq f) s
def execVsqrt (f : VF) (s : State) : Out :=
  issuePlain (.vsqrt f) (effVsqrt f) s
def execVexp2 (f : VF) (s : State) : Out :=
  issuePlain (.vexp2 f) (effVexp2 f) s
def execVlog2 (f : VF) (s : State) : Out :=
  issuePlain (.vlog2 f) (effVlog2 f) s
def execVsig (f : VF) (s : State) : Out :=
  issuePlain (.vsig f) (effVsig f) s
def execVcvt (f : VF) (s : State) : Out :=
  issuePlain (.vcvt f) (effVcvt f) s
def execVcvts (f : VF) (s : State) : Out :=
  issuePlain (.vcvts f) (effVcvts f) s
def execVbmax (f : VF) (s : State) : Out :=
  issuePlain (.vbmax f) (effVbmax f) s
def execVqnt (f : VF) (s : State) : Out :=
  issuePlain (.vqnt f) (effVqnt f) s
def execVdqnt (f : VF) (s : State) : Out :=
  issuePlain (.vdqnt f) (effVdqnt f) s
def execVscale (f : VF) (s : State) : Out :=
  issuePlain (.vscale f) (effVscale f) s
def execVsacc (f : VF) (s : State) : Out :=
  issuePlain (.vsacc f) (effVsacc f) s
def execVplane (f : VF) (s : State) : Out :=
  issuePlain (.vplane f) (effVplane f) s
def execVunplane (f : VF) (s : State) : Out :=
  issuePlain (.vunplane f) (effVunplane f) s
def execVcmp (f : VF) (s : State) : Out :=
  issuePlain (.vcmp f) (effVcmp f) s
def execVfcmp (f : VF) (s : State) : Out :=
  issuePlain (.vfcmp f) (effVfcmp f) s
def execVclass (f : VF) (s : State) : Out :=
  issuePlain (.vclass f) (effVclass f) s
def execVsel (f : VF) (s : State) : Out :=
  issuePlain (.vsel f) (effVsel f) s
def execVperm (f : VF) (s : State) : Out :=
  issuePlain (.vperm f) (effVperm f) s
def execVbcast (f : VF) (s : State) : Out :=
  issuePlain (.vbcast f) (effVbcast f) s
def execVshift (f : VF) (s : State) : Out :=
  issuePlain (.vshift f) (effVshift f) s
def execVzip (f : VF) (s : State) : Out :=
  issuePlain (.vzip f) (effVzip f) s
def execVunzip (f : VF) (s : State) : Out :=
  issuePlain (.vunzip f) (effVunzip f) s
def execVcompress (f : VF) (s : State) : Out :=
  issuePlain (.vcompress f) (effVcompress f) s
def execVexpand (f : VF) (s : State) : Out :=
  issuePlain (.vexpand f) (effVexpand f) s
def execVred (f : VF) (s : State) : Out :=
  issuePlain (.vred f) (effVred f) s
def execVfred (f : VF) (s : State) : Out :=
  issuePlain (.vfred f) (effVfred f) s
def execVscan (f : VF) (s : State) : Out :=
  issuePlain (.vscan f) (effVscan f) s
def execVfscan (f : VF) (s : State) : Out :=
  issuePlain (.vfscan f) (effVfscan f) s
def execVsort (f : VF) (s : State) : Out :=
  issuePlain (.vsort f) (effVsort f) s
def execVsegsum (f : VF) (s : State) : Out :=
  issuePlain (.vsegsum f) (effVsegsum f) s
def execVmov (f : VF) (s : State) : Out :=
  issuePlain (.vmov f) (effVmov f) s
def execVli (f : VF) (s : State) : Out :=
  issuePlain (.vli f) (effVli f) s
def execVext (f : VF) (s : State) : Out :=
  issuePlain (.vext f) (effVext f) s
def execVins (f : VF) (s : State) : Out :=
  issuePlain (.vins f) (effVins f) s
def execVidx (f : VF) (s : State) : Out :=
  issuePlain (.vidx f) (effVidx f) s
def execVxpush (f : VF) (s : State) : Out :=
  issuePlain (.vxpush f) (effVxpush f) s

end Sys2Proof.Machine
end

