-- ==== Sys2Proof/Machine/Tile.lean ====
section
/-! DEFINITION. The matrix engine and the transpose engine (09): tiles, Nest tables, walks and steps, the drain path, Pleat's configuration and returns. The events of commands read `arg.k`, the cluster, and `arg.i`, the command. -/

namespace Sys2Proof.Machine

/-! Issue (09 R227-R229). -/

/-- The shape of an E word: nothing where the guard is off, else one command with the register values it read. -/
def command (eng : Engine) (e : EF) (regs : Issue → Except Stop (List Word)) : Effect := fun ι w =>
  ι.guarded e.g w fun w => do
    let rs ← regs ι
    let (_, w) ← ι.produce eng e rs none w
    .ok w
def noRegs : Issue → Except Stop (List Word) := fun _ => .ok []
/-- `nop` of the E slot reads no guard (assumption 74). -/
def effNopE (_g : Reg4) : Effect := fun _ w => .ok w
/-- The address of a Nest image, a multiple of 256 (09 R229). -/
def imageAddr (b : Reg4) (off : BitVec 21) (ι : Issue) : Except Stop (List Word) := do
  let v ← ι.ra b
  let ea := v + sx64 off
  if ea.toNat % 256 ≠ 0 then ι.failAt cALIGN ea else .ok [ea]
def oneReg (b : Reg4) (ι : Issue) : Except Stop (List Word) := do
  let v ← ι.ra b
  .ok [v]
def effMxcfgLoad (e : EF) (_n : BitVec 2) (b : Reg4) (off : BitVec 21) : Effect := command .matrix e (imageAddr b off)
def effMxcfgStore (e : EF) (_n : BitVec 2) (b : Reg4) (off : BitVec 21) : Effect := command .matrix e (imageAddr b off)
def effMxgo (e : EF) (_n : BitVec 2) : Effect := command .matrix e noRegs
def effMxzero (e : EF) (_t : BitVec 10) (_cm1 : BitVec 6) (_step : BitVec 12) : Effect := command .matrix e noRegs
def effMxshape (e : EF) (_t : BitVec 10) (_hm1 : BitVec 5) (_lm1 : BitVec 6) (_i32 : Bool) (_mm1 : BitVec 6) : Effect := command .matrix e noRegs
def effMxdrainC12 (e : EF) (_t : BitVec 10) (_clr : Bool) (_step : BitVec 12) : Effect := command .matrix e noRegs
def effMxdrainAb (e : EF) (_t : BitVec 10) (_clr : Bool) (b : Reg4) (_step : BitVec 12) : Effect := command .matrix e (oneReg b)
def effMxflag (e : EF) (_t : BitVec 10) (_step : BitVec 12) : Effect := command .matrix e noRegs
def effXcfg (e : EF) (_hm1 : BitVec 5) (_w16 : Bool) : Effect := command .pleat e noRegs

/-! The Nest image (09 R210, R211). -/

/-- One level of a Nest. -/
structure NestLevel where
  count : Nat
  sa : Int
  sb : Int
  sz : Int
  deriving DecidableEq, Repr

/-- A Nest image read into its fields. -/
structure NestImage where
  atype : Nat
  btype : Nat
  bk : Nat
  planes : Nat
  centre : Bool
  win : Nat
  asrc : Bool
  bsrc : Bool
  zen : Bool
  zl : Nat
  gran : Nat
  abase : Nat
  bbase : Nat
  zbase : Nat
  lda : Nat
  ldb : Nat
  step : Nat
  levels : List NestLevel
  deriving DecidableEq, Repr

def nestLevel (v j : Nat) : NestLevel :=
  let o := 8 * (0x40 + 16 * j)
  { count := field v o 16 + 1, sa := sintOf 32 (field v (o + 32) 32), sb := sintOf 32 (field v (o + 64) 32), sz := sintOf 11 (field v (o + 96) 11) }
def nestOf (img : BitVec 2048) : NestImage :=
  let v := img.toNat
  { atype := field v 0 4, btype := field v 4 4, bk := field v 8 4, planes := field v 12 4, centre := v.testBit 16, win := field v 17 3
    asrc := v.testBit 20, bsrc := v.testBit 21, zen := v.testBit 22, zl := field v 23 3, gran := field v 29 3, abase := field v 64 64
    bbase := field v 128 64, zbase := field v 192 10, lda := field v 256 32, ldb := field v 288 32, step := field v 320 48
    levels := (List.range (Nat.min (field v 26 3) 5 + 1)).map (nestLevel v) }
def narrow (t : Nat) : Bool := decide (9 ≤ t ∧ t ≤ 13)
def byteInt (t : Nat) : Bool := decide (t = 2 ∨ t = 5)
def NestImage.ni (n : NestImage) : Bool := n.btype == 15
def NestImage.integer (n : NestImage) : Bool := byteInt n.atype
/-- The legal pairs (09 R207). -/
def NestImage.pairOk (n : NestImage) : Bool :=
  (narrow n.atype && (narrow n.btype || n.ni)) || (n.atype == 7 && n.btype == 7) || (byteInt n.atype && (byteInt n.btype || n.ni))
/-- P, the plane rate (09 R207). -/
def NestImage.P (n : NestImage) : Nat := if n.planes ≤ 1 then 1 else if n.planes = 2 then 2 else if n.planes ≤ 4 then 4 else 8
def NestImage.total (n : NestImage) : Nat := n.levels.foldl (fun a l => a * l.count) 1
/-- Tiles that a step writes. -/
def NestImage.T (n : NestImage) : Nat := if n.ni then 8 / n.P else 1
/-- B segments of a step, and the bytes of each. -/
def NestImage.segs (n : NestImage) : Nat := if n.ni then 64 / n.P else 64
def NestImage.segBytes (n : NestImage) : Nat := if n.ni then 64 * n.planes else 64
def NestImage.window (n : NestImage) : Nat := [24, 28, 32, 40, 48, 56, 64].getD n.win 24
def reach (n : Nat) (s : Int) : Int × Int := (min 0 (s * ((n : Int) - 1)), max 0 (s * ((n : Int) - 1)))
/-- Every byte of every segment of a buffer operand lies within the buffer (09 R211). -/
def inBuffer (base : Nat) (strides : List (Nat × Int)) (inner : Nat) : Bool :=
  let lo := (strides.map (fun p => (reach p.1 p.2).1)).foldl (· + ·) (base : Int)
  let hi := (strides.map (fun p => (reach p.1 p.2).2)).foldl (· + ·) ((base + inner : Nat) : Int)
  decide (0 ≤ lo ∧ hi ≤ 0xFFFFFF)
/-- The CAUSE of a bad image, 0 where it is good (09 R211, R233). ZL may name any level of the walk, and is checked where ZEN = 1 (assumption 15). Of several defects the type pair is named first, then fields, alignment and steps, then ranges (assumption 81). -/
def nestBad (img : BitVec 2048) : Nat :=
  let n := nestOf img
  let lv := field img.toNat 26 3
  if !n.pairOk then 3
  else if (n.ni && !decide (2 ≤ n.bk ∧ n.bk ≤ 8 ∧ 1 ≤ n.planes ∧ n.planes ≤ n.bk)) || (!n.ni && (n.bk != 0 || n.planes != 0 || n.centre))
      || n.win == 7 || (n.integer && n.win != 0) || decide (5 < lv) || (n.zen && decide (lv < n.zl)) then 1
  else if n.abase % 64 ≠ 0 ∨ n.bbase % 64 ≠ 0 ∨ n.lda % 64 ≠ 0 ∨ n.ldb % 64 ≠ 0 ∨ n.levels.any (fun l => l.sa % 64 != 0 || l.sb % 64 != 0) then 1
  else if 2 ^ 48 < n.total ∨ n.total ≤ n.step then 1
  else if !n.asrc && !inBuffer n.abase (n.levels.map (fun l => (l.count, l.sa))) (31 * n.lda + 63) then 2
  else if !n.bsrc && !inBuffer n.bbase (n.levels.map (fun l => (l.count, l.sb))) ((n.segs - 1) * n.ldb + n.segBytes - 1) then 2
  else 0
/-- The image that `mxcfg.st` writes: the meaningful fields of the active copy, STEP and STATE (09 R229). -/
def storeImage (t : Nest) : BitVec 2048 :=
  if t.st = .empty then 0
  else
    let v := t.active.toNat
    let lv := Nat.min (field v 26 3) 5
    let keep := fun (o n : Nat) => field v o n * 2 ^ o
    let st := match t.st with | .empty => 0 | .ready => 1 | .stopped => 2 | .invalid => 3 | .running => 1
    let body := (List.range (lv + 1)).foldl (fun a j =>
      let o := 8 * (0x40 + 16 * j)
      a + keep o 16 + keep (o + 32) 32 + keep (o + 64) 32 + keep (o + 96) 11) 0
    BitVec.ofNat 2048 (keep 0 32 + keep 64 64 + keep 128 64 + keep 192 10 + keep 256 64 + t.step % 2 ^ 48 * 2 ^ 320 + st * 2 ^ 384 + body)

/-! Paths (09 R220). -/

def nestOfInstr : Instr → Nat
  | .mxcfgLoad _ n _ _ => n.toNat
  | .mxcfgStore _ n _ _ => n.toNat
  | .mxgo _ n => n.toNat
  | _ => 0
def isLoad : Instr → Bool
  | .mxcfgLoad .. => true
  | _ => false
/-- No sequencer command has started without finishing with the tiles (phase 1 means that it has). -/
def Cluster.seqFree (c : Cluster) : Bool :=
  !c.cmds.any (fun m => decide (m.eng = .matrix) && m.started && m.phase == 0 && !isLoad m.instr)
/-- No earlier load into table `n` is unfinished. -/
def Cluster.loadsDone (c : Cluster) (n : Nat) : Bool := !c.cmds.any (fun m => m.started && isLoad m.instr && nestOfInstr m.instr == n)
/-- The engine status word of the matrix engine (09 R233). -/
def matrixEsw (m : Cmd) (cause step : Nat) : Word :=
  BitVec.ofNat 64 ((opcodeOf m.instr).toNat + 2 ^ 8 * nestOfInstr m.instr + 2 ^ 10 * cause + 2 ^ 16 * step)
def matrixError (m : Cmd) (code : BitVec 16) (cause step : Nat) (addr : Word) : Finish := .error code (matrixEsw m cause step) addr step
/-- The sequencer stands still: the image read of an `mxcfg` waits on a translation fault (09 R222, 19 R397). -/
def Cluster.seqHalted (c : Cluster) : Bool := c.cmds.any (fun m => decide (m.eng = .matrix) && m.started && m.fault)
/-- A sequencer command may start now. While the sequencer or the drain buffer makes it wait it stays at the head of the queue, and a later load waits behind it (09 R220, R224, assumption 92). -/
def Cluster.seqReady (c : Cluster) (m : Cmd) : Bool :=
  decide (m.eng = .matrix) && c.atHead m && !isLoad m.instr && c.seqFree && !c.seqHalted
    && (match m.instr with | .mxgo .. | .mxcfgStore .. => c.loadsDone (nestOfInstr m.instr) | _ => true)

/-! Loads and stores of tables (09 R213, R222, R229). -/

/-- MXCFG_LOAD_DONE: a load that reaches the head of the queue leaves it; one that has reads its image in the background, in queue order, and ends (09 R220). -/
def State.mxcfgLoadDone (s : State) : State :=
  match s.argCmd with
  | none => s
  | some m =>
    let k := s.arg.k
    let c := s.cluster k
    let first := match c.cmds.find? (fun q => q.started && isLoad q.instr) with | some q => q.id == m.id | none => false
    if !isLoad m.instr then s
    else if !m.started then (if c.atHead m then s.setCluster k (c.setCmd m.taken) else s)
    else if !first then s
    else
      let ea := m.regs.headD 0
      match m.delivered with
      | some code => s.finish k m (matrixError m (deliveredCode code) 6 0 ea)
      | none =>
        match s.engineRead k ea.toNat 256 4 with
        | (.error f, s) => s.cmdFault k m.taken 1 f 0 (nestOfInstr m.instr) 0
        | (.ok (bs, _), s) =>
          let img : BitVec 2048 := BitVec.ofNat 2048 (leNat bs)
          let n := nestOfInstr m.instr
          let bad := nestBad img
          let s1 := s.modCluster k (fun c =>
            let t := c.nest n
            c.setNest n (if bad = 0 then { t with shadow := img, sv := .valid } else { t with sv := .bad, cause := bad }))
          s1.finish k m (if bad = 0 then .normal else matrixError m cILLEGAL bad 0 ea)
def execMxcfgLoadDone (s : State) : Out := .next s.mxcfgLoadDone
/-- MXCFG_STORE_EXEC. -/
def State.mxcfgStore (s : State) : State :=
  match s.argCmd with
  | none => s
  | some m =>
    let k := s.arg.k
    let c := s.cluster k
    let isStore := match m.instr with | .mxcfgStore .. => true | _ => false
    if !(isStore && (m.started || c.seqReady m)) then s
    else
      let ea := m.regs.headD 0
      match m.delivered with
      | some code => s.finish k m (matrixError m (deliveredCode code) 6 0 ea)
      | none =>
        match s.engineWrite k ea.toNat 4 (bytesLE 256 (storeImage (c.nest (nestOfInstr m.instr))).toNat) false with
        | (.error f, s) => s.cmdFault k m.taken 1 f 1 (nestOfInstr m.instr) 0
        | (.ok _, s) => s.finish k m .normal
def execMxcfgStoreExec (s : State) : Out := .next s.mxcfgStore

/-! Walks (09 R212-R222). -/

/-- NEST_WALK_START: the go rule (09 R213). The command's `pos` is the step at which the walk begins. A bad shadow ends the go with the cause of its load (assumption 79). -/
def State.walkStart (s : State) : State :=
  match s.argCmd with
  | none => s
  | some m =>
    let k := s.arg.k
    let c := s.cluster k
    let isGo := match m.instr with | .mxgo .. => true | _ => false
    if !(isGo && !m.started && c.seqReady m) then s
    else
      let n := nestOfInstr m.instr
      let t := c.nest n
      let run := fun (t : Nest) =>
        s.setCluster k ((c.setNest n { t with st := .running }).setCmd { m.taken with pos := t.step })
      match t.sv with
      | .valid => run { t with active := t.shadow, sv := .none, step := (nestOf t.shadow).step }
      | .bad => (s.setCluster k (c.setNest n { t with sv := .none, st := .invalid })).finish k m (matrixError m cILLEGAL t.cause 0 0)
      | .none =>
        match t.st with
        | .ready | .stopped => run t
        | _ => s.finish k m (matrixError m cILLEGAL 7 0 0)
def execNestWalkStart (s : State) : Out := .next s.walkStart

/-- The level indices of a step, level 0 fastest. -/
def stepIndices : List NestLevel → Nat → List Nat
  | [], _ => []
  | l :: t, s => s % l.count :: stepIndices t (s / l.count)
def strideSum (ls : List NestLevel) (is : List Nat) (f : NestLevel → Int) : Int :=
  (ls.zip is).foldl (fun a p => a + f p.1 * (p.2 : Int)) 0
/-- An address of a step, wrapped. -/
def segAddr (base : Nat) (off : Int) (r ld : Nat) : Nat := (((base : Int) + off + (r * ld : Nat)) % 2 ^ 64).toNat
/-- The first tile of a step. -/
def NestImage.tile (n : NestImage) (is : List Nat) (t : Nat) : Nat := (((n.zbase : Int) + strideSum n.levels is (·.sz) + t) % 1024).toNat
/-- The step zero-starts its tiles (09 R212). -/
def NestImage.zeroStart (n : NestImage) (is : List Nat) : Bool := n.zen && (is.take (n.zl + 1)).all (· == 0)

/-- Read segments of a step from a buffer or the slice; also the first poisoned place, as a store code and an address (assumption 80). -/
def State.readSegs (s : State) (k : Nat) (u : Buf) (slice : Bool) (bytes : Nat) :
    List Nat → (Except (Nat × Nat × Nat) (List (List Byte) × Option (Nat × Word))) × State
  | [] => (.ok ([], none), s)
  | a :: t =>
    if slice then
      match s.engineRead k a bytes 0 with
      | (.error f, s) => (.error f, s)
      | (.ok (bs, bad), s) =>
        let here := if bad then some (0, s.paOf k a) else none
        match State.readSegs s k u slice bytes t with
        | (.error f, s) => (.error f, s)
        | (.ok (rest, p), s) => (.ok (bs :: rest, here.or p), s)
    else
      let c := s.cluster k
      let here := if c.bufPoisoned u a bytes then some (if u = .wb then 4 else 5, BitVec.ofNat 64 a) else none
      match State.readSegs s k u slice bytes t with
      | (.error f, s) => (.error f, s)
      | (.ok (rest, p), s) => (.ok (c.bufBytes u a bytes :: rest, here.or p), s)

/-- Element κ of a segment of bytes, by its type: the pattern (02 R36). -/
def segElem (ty : Nat) (v κ : Nat) : Nat := if ty = 7 then elem 16 v κ else if ty = 13 then elem 4 v κ else elem 8 v κ
/-- The value of an element of a floating pass. -/
def fltOf (ty p : Nat) : Ex := match fmtOf ty with | some f => f.decode p | none => .zero false
/-- The value of an element of an integer pass. -/
def intOf (ty p : Nat) : Int := intVal ty 8 p
/-- The value of column `c` (counted over all tiles of the step), K index κ, from the column groups of an NI pass (09 R208, R209). -/
def niElem (n : NestImage) (groups : List Nat) (c κ : Nat) : Int :=
  let g := groups.getD (c / 8) 0
  let i := 64 * (c % 8) + κ
  let top := packElems 1 ((List.range n.planes).map (fun b =>
    let j := n.planes - 1 - b
    field g (512 * j + i) 1))
  niVal (sintOf n.planes top) n.planes n.bk n.centre
/-- Elements of a K-block. -/
def NestImage.kblock (n : NestImage) : Nat := if n.atype = 7 then 32 else 64
/-- The terms of one output element of a floating pass. -/
def fltTerms (n : NestImage) (a b : Nat → Ex) : List Ex := (List.range n.kblock).map (fun κ => exMul (a κ) (b κ))
/-- The new value and flag of one element (09 R214, R215). `a` is the segment of its row; `col` its column over all tiles. -/
def stepElem (n : NestImage) (a : Nat) (bs : List Nat) (col acc : Nat) (flag : Bool) : Nat × Bool :=
  if n.integer then
    let p := (List.range n.kblock).map (fun κ =>
      intOf n.atype (segElem n.atype a κ) * (if n.ni then niElem n bs col κ else intOf n.btype (segElem n.btype (bs.getD col 0) κ)))
    (wrapTo 32 (p.foldl (· + ·) (sintOf 32 acc)), flag)
  else
    let ts := fltTerms n (fun κ => fltOf n.atype (segElem n.atype a κ))
      (fun κ => if n.ni then ofInt (niElem n bs col κ) 0 else fltOf n.btype (segElem n.btype (bs.getD col 0) κ))
    windowSum (fF32.decode acc :: ts) n.window flag
/-- Some element of an A segment is not zero (09 R218). -/
def segNonzero (n : NestImage) (a : Nat) : Bool :=
  (List.range n.kblock).any (fun κ =>
    let p := segElem n.atype a κ
    if n.integer then p != 0 else !(fltOf n.atype p).isZero)
/-- Element `i` of a tile. -/
def Tile.el (t : Tile) (i : Nat) : Nat := elem 32 t.data.toNat i
/-- A place of CB that an uncorrectable error has struck, among the segments that hold some elements: the segment's number (21 R463). -/
def Tile.markIn (t : Tile) (at_ : Nat → Bool) : Option Nat := (List.range 128).find? (fun g => t.marks.getLsbD g && (List.range 16).any (fun i => at_ (16 * g + i)))
/-- The marks after some elements are written: a segment written whole with clean data loses its own (21 R463). -/
def Tile.rewritten (t : Tile) (at_ : Nat → Bool) (bad : Bool) : BitVec 128 :=
  if bad ∨ t.marks = 0 then t.marks
  else BitVec.ofNat 128 (packElems 1 ((List.range 128).map (fun g => bnat (t.marks.getLsbD g && !(List.range 16).all (fun i => at_ (16 * g + i))))))
/-- Data of the tile with an uncorrectable error: a poisoned term's, or a struck segment's, by its CB byte (09 R204, 21 R429). A mark anywhere in the tile counts, also where a transform reads no element (10 R246, assumption 92). -/
def Tile.badAt (t : Tile) (z : Nat) : Option Nat :=
  match t.markIn (fun _ => true) with
  | some g => some (8192 * z + 64 * g)
  | none => if t.poison then some (8192 * z) else none
/-- The elements that a step writes. -/
def Tile.inBounds (t : Tile) (i : Nat) : Bool := decide (i / 64 < t.rows ∧ i % 64 < t.cols)
/-- A tile after a step (09 R206, R216-R219). -/
def Tile.afterStep (t : Tile) (n : NestImage) (zero : Bool) (as bs : List Nat) (col0 : Nat) (bad : Bool) : Tile :=
  let one := fun (i : Nat) =>
    let r := i / 64
    let c := i % 64
    if r < t.rows ∧ c < t.cols then stepElem n (as.getD r 0) bs (col0 + c) (if zero then 0 else t.el i) (t.flag.getLsbD i)
    else (t.el i, t.flag.getLsbD i)
  let out := (List.range 2048).map one
  let dropped := ((List.range 32).filter (fun r => decide (t.rows ≤ r) && segNonzero n (as.getD r 0))).length
  { t with
    data := BitVec.ofNat 65536 (packElems 32 (out.map (·.1))), flag := BitVec.ofNat 2048 (packElems 1 (out.map (fun p => bnat p.2)))
    live := true, poison := t.poison || bad, drop := Nat.min 65535 (t.drop + dropped), marks := t.rewritten t.inBounds bad }
/-- The walk ends at a step that did not run (09 R213). -/
def State.walkEnd (s : State) (k : Nat) (m : Cmd) (f : Finish) : State :=
  let n := nestOfInstr m.instr
  (s.modCluster k (fun c => c.setNest n { c.nest n with st := .stopped })).finish k m f
/-- NEST_STEP: one step of the walk that runs. A step that a fault held up has passed its stop test, and its replay runs in full (09 R222): the command's `data` names it. -/
def State.nestStep (s : State) : State :=
  match s.argCmd with
  | none => s
  | some m =>
    let k := s.arg.k
    let c := s.cluster k
    let ni := nestOfInstr m.instr
    let t := c.nest ni
    let isGo := match m.instr with | .mxgo .. => true | _ => false
    if !(isGo && m.started && decide (t.st = .running)) || c.seqHalted then s
    else
      let n := nestOf t.active
      let st := t.step
      let is := stepIndices n.levels st
      let tiles := (List.range n.T).map (n.tile is)
      match m.delivered with
      | some code => s.walkEnd k m (matrixError m (deliveredCode code) 6 st 0)
      | none =>
        if m.pos < st ∧ st % 4 ^ n.gran = 0 ∧ (c.context m.ctx).stopf ∧ m.data ≠ [BitVec.ofNat 64 st] then s.walkEnd k m .stopped
        else if tiles.any (fun z => (c.tile z).i32 != n.integer) then s.walkEnd k m (matrixError m cILLEGAL 4 st 0)
        else
          let ao := strideSum n.levels is (·.sa)
          let bo := strideSum n.levels is (·.sb)
          match s.readSegs k .ab n.asrc 64 ((List.range 32).map (fun r => segAddr n.abase ao r n.lda)) with
          | (.error f, s) => s.cmdFault k { m with data := [BitVec.ofNat 64 st] } 1 f 0 ni st
          | (.ok (as, pa), s) =>
            match s.readSegs k .wb n.bsrc n.segBytes ((List.range n.segs).map (fun r => segAddr n.bbase bo r n.ldb)) with
            | (.error f, s) => s.cmdFault k { m with data := [BitVec.ofNat 64 st] } 1 f 0 ni st
            | (.ok (bs, pb), s) =>
              let zs := n.zeroStart is
              let acc := fun (z : Nat) => if zs then none else ((s.cluster k).tile z).markIn ((s.cluster k).tile z).inBounds
              let pz := tiles.findSome? (fun z => (acc z).map (fun g => (6, (BitVec.ofNat 64 (8192 * (z % 1024) + 64 * g) : Word))))
              let poison := (pa.or pb).or pz
              let av := as.map leNat
              let bv := bs.map leNat
              let s := s.modCluster k (fun c => (List.range n.T).foldl (fun c j =>
                let z := n.tile is j
                c.setTile z ((c.tile z).afterStep n zs av bv (64 * j) (pa.isSome || pb.isSome || (acc z).isSome))) c)
              let s := match poison with
                | some (store, addr) => s.errUncorr k m.ctx 1 store addr
                | none => s
              if st + 1 = n.total then
                (s.modCluster k (fun c => c.setNest ni { c.nest ni with st := .ready, step := 0 })).finish k m .normal
              else s.modCluster k (fun c => c.setNest ni { c.nest ni with step := st + 1 })
def execNestStep (s : State) : Out := .next s.nestStep

/-! Tile commands (09 R206, R224, R225, R231). -/

/-- T_eff (09 R228). -/
def tEff (t : BitVec 10) (step : BitVec 12) (n : BitVec 32) : Nat := (((t.toNat : Int) + step.toInt * n.toNat) % 1024).toNat
/-- Apply a change to a range of tiles. -/
def Cluster.tiles_ (c : Cluster) (t n : Nat) (f : Tile → Tile) : Cluster :=
  (List.range n).foldl (fun c i => c.setTile (t + i) (f (c.tile (t + i)))) c
/-- Start a sequencer command, give its tiles their change, and finish. -/
def State.seqCommand (s : State) (act : Cmd → Option (Cluster → Cluster)) : State :=
  match s.argCmd with
  | none => s
  | some m =>
    match act m with
    | none => s
    | some f => if (s.cluster s.arg.k).seqReady m then (s.modCluster s.arg.k f).finish s.arg.k m .normal else s
def Tile.zeroed (t : Tile) : Tile := { t with data := 0, live := false, marks := 0 }
/-- MXZERO_EXEC. -/
def execMxzeroExec (s : State) : Out :=
  .next (s.seqCommand (fun m => match m.instr with
    | .mxzero _ t cm1 st => some (fun c => c.tiles_ (tEff t st m.n) (cm1.toNat + 1) Tile.zeroed)
    | _ => none))
/-- `mxshape` on one tile (09 R206). -/
def Tile.shaped (i32 : Bool) (rows cols : Nat) (t : Tile) : Tile :=
  let t' := { t with i32 := i32, rows := rows, cols := cols }
  if !t.live then t'
  else if t.i32 = i32 ∧ t.rows = rows ∧ t.cols = cols then t
  else { t' with data := 0, live := false, flag := 0, poison := false, reshaped := true, marks := 0 }
/-- MXSHAPE_EXEC. -/
def execMxshapeExec (s : State) : Out :=
  .next (s.seqCommand (fun m => match m.instr with
    | .mxshape _ t hm1 lm1 i32 mm1 => some (fun c => c.tiles_ t.toNat (mm1.toNat + 1) (Tile.shaped i32 (hm1.toNat + 1) (lm1.toNat + 1)))
    | _ => none))
/-- The tile after a drain with CLR. -/
def Tile.drained (clr : Bool) (t : Tile) : Tile := if clr then { t.zeroed with poison := false } else t
/-- The eight drain entries of a tile, numbered with their command. -/
def drainEntries (id : Nat) (t : Tile) : List PEntry :=
  (List.range 8).map (fun e => { id := id, ready := true, poison := t.poison || field t.marks.toNat (16 * e) 16 != 0, fromV := false, data := BitVec.ofNat 8192 (t.data.toNat / 2 ^ (8192 * e)) })
/-- MXDRAIN_EXEC. A drain to c12 goes on as a command until its last entry is in c12. One that ends in DRAIN_ERR leaves the tile as it is, CLR or not (09 R225, assumption 92). -/
def State.mxdrain (s : State) : State :=
  match s.argCmd with
  | none => s
  | some m =>
    let k := s.arg.k
    let c := s.cluster k
    if !c.seqReady m then s
    else match m.instr with
    | .mxdrainC12 _ t clr st =>
      let z := tEff t st m.n
      if !(c.context m.ctx).drain.isEmpty then s
      else
        let c1 := c.modContext m.ctx (fun x => { x with drain := drainEntries m.id (c.tile z) })
        s.setCluster k ((c1.setTile z ((c.tile z).drained clr)).setCmd { m.taken with phase := 1 })
    | .mxdrainAb _ t clr _ st =>
      let z := tEff t st m.n
      let b := m.regs.headD 0
      let o := (b + BitVec.ofInt 64 (st.toInt * m.n.toNat * 8192)).toNat
      if o % 64 ≠ 0 ∨ 0xFFE000 < o ∨ b.toNat / 2 ^ 24 ≠ 0 then s.finish k m (matrixError m cDRAIN 5 0 0)
      else
        let tl := c.tile z
        let c := c.writeBuf .ab o (bytesLE 8192 tl.data.toNat) tl.poison
        let marked := (List.range 128).filter (tl.marks.getLsbD ·)
        let c := { c with abPoison := marked.foldl (fun p g => SMap.set false p (o / 64 + g) true) c.abPoison }
        ((s.setCluster k (c.setTile z (tl.drained clr))).finish k m .normal)
    | _ => s
def execMxdrainExec (s : State) : Out := .next s.mxdrain
/-- The tile status word (09 R232). -/
def Tile.status (t : Tile) : Nat :=
  bnat t.live + 2 * bnat t.reshaped + 4 * bnat t.i32 + 8 * bnat t.poison + 2 ^ 4 * (t.rows - 1) + 2 ^ 9 * (t.cols - 1) + 2 ^ 16 * t.drop
    + 2 ^ 32 * ((List.range 2048).filter (fun i => t.flag.getLsbD i)).length
/-- MXFLAG_EXEC. -/
def State.mxflag (s : State) : State :=
  match s.argCmd with
  | none => s
  | some m =>
    let k := s.arg.k
    let c := s.cluster k
    match m.instr with
    | .mxflag _ t st =>
      if !c.seqReady m || decide (8 ≤ (c.context m.ctx).drain.length) then s
      else
        let z := tEff t st m.n
        let tl := c.tile z
        let e : PEntry := { id := m.id, ready := true, poison := false, fromV := false, data := BitVec.ofNat 8192 (tl.flag.toNat + 2 ^ 2048 * tl.status) }
        let c1 := c.modContext m.ctx (fun x => { x with drain := x.drain ++ [e] })
        s.setCluster k ((c1.setTile z { tl with flag := 0, reshaped := false, drop := 0 }).setCmd { m.taken with phase := 1 })
    | _ => s
def execMxflagExec (s : State) : Out := .next s.mxflag
/-- DRAIN_ENTRY_TRANSFER: one entry of the drain buffer of Context `arg.c` passes into c12; with its last entry a command finishes. -/
def State.drainTransfer (s : State) : State :=
  let k := s.arg.k
  let x := s.context k s.arg.c
  match x.drain with
  | [] => s
  | e :: rest =>
    if 16 ≤ (x.port 12).entries.length then s
    else
      let cmd := (s.cluster k).cmd e.id
      let flagged := match cmd with
        | some m => (match m.instr with | .mxflag .. => decide (field e.data.toNat 0 2048 ≠ 0) | _ => false)
        | none => false
      let p := x.port 12
      let x' := { x.setPort 12 { p with entries := p.entries ++ [{ e with id := p.nextId }], nextId := p.nextId + 1 } with drain := rest, lsig := x.lsig || flagged }
      let s := s.modContext k s.arg.c (fun _ => x')
      match cmd with
      | some m => if rest.any (fun r => r.id == m.id) then s else s.finish k m .normal
      | none => s
def execDrainEntryTransfer (s : State) : Out := .next s.drainTransfer

/-! Pleat (09 R236, R238). -/

/-- XCFG_EXEC. -/
def State.xcfg (s : State) : State :=
  match s.argCmd with
  | none => s
  | some m =>
    match m.instr with
    | .xcfg _ hm1 w16 =>
      if (s.cluster s.arg.k).atHead m then
        (s.modContext s.arg.k m.ctx (fun x => { x with pleat := { x.pleat with on := true, h := hm1.toNat + 1, w16 := w16, filling := [] } })).finish s.arg.k m .normal
      else s
    | _ => s
def execXcfgExec (s : State) : Out := .next s.xcfg
/-- PLEAT_RETURN: the oldest tile of Context `arg.c` whose count has passed becomes ready in c13. -/
def Context.pleatReturn (x : Context) : Context :=
  match x.pleat.tiles with
  | t :: rest =>
    if t.remain ≠ 0 then x
    else
      let p := x.port 13
      let es := t.rows.zipIdx.map (fun r => ({ id := p.nextId + r.2, ready := true, poison := false, fromV := false, data := r.1 } : PEntry))
      { x.setPort 13 { p with entries := p.entries ++ es, nextId := p.nextId + 32 } with pleat := { x.pleat with tiles := rest } }
  | [] => x
def execPleatReturn (s : State) : Out := .next (if ctxIds.contains s.arg.c then s.modContext s.arg.k s.arg.c Context.pleatReturn else s)
/-- SCALE_LATCH_WRITE (07 R156): the oldest latch write that has come due takes place if its Context is in RUN, and is discarded otherwise. -/
def Cluster.latchWrite (c : Cluster) : Cluster :=
  match c.latchFlights with
  | (0, i, v, _) :: rest => { c with latch := if (c.context i).st = .run then v else c.latch, latchFlights := rest }
  | _ => c
def execScaleLatchWrite (s : State) : Out := .next (s.modCluster s.arg.k Cluster.latchWrite)

/-! Whole steps: each instruction as the issue of a plain bundle that holds it. -/

def execNopE (g : Reg4) (s : State) : Out :=
  issuePlain (.nopE g) (effNopE g) s
def execMxcfgLoad (e : EF) (n : BitVec 2) (b : Reg4) (off : BitVec 21) (s : State) : Out :=
  issuePlain (.mxcfgLoad e n b off) (effMxcfgLoad e n b off) s
def execMxcfgStore (e : EF) (n : BitVec 2) (b : Reg4) (off : BitVec 21) (s : State) : Out :=
  issuePlain (.mxcfgStore e n b off) (effMxcfgStore e n b off) s
def execMxgo (e : EF) (n : BitVec 2) (s : State) : Out :=
  issuePlain (.mxgo e n) (effMxgo e n) s
def execMxzero (e : EF) (t : BitVec 10) (cm1 : BitVec 6) (step : BitVec 12) (s : State) : Out :=
  issuePlain (.mxzero e t cm1 step) (effMxzero e t cm1 step) s
def execMxshape (e : EF) (t : BitVec 10) (hm1 : BitVec 5) (lm1 : BitVec 6) (i32 : Bool) (mm1 : BitVec 6) (s : State) : Out :=
  issuePlain (.mxshape e t hm1 lm1 i32 mm1) (effMxshape e t hm1 lm1 i32 mm1) s
def execMxdrainC12 (e : EF) (t : BitVec 10) (clr : Bool) (step : BitVec 12) (s : State) : Out :=
  issuePlain (.mxdrainC12 e t clr step) (effMxdrainC12 e t clr step) s
def execMxdrainAb (e : EF) (t : BitVec 10) (clr : Bool) (b : Reg4) (step : BitVec 12) (s : State) : Out :=
  issuePlain (.mxdrainAb e t clr b step) (effMxdrainAb e t clr b step) s
def execMxflag (e : EF) (t : BitVec 10) (step : BitVec 12) (s : State) : Out :=
  issuePlain (.mxflag e t step) (effMxflag e t step) s
def execXcfg (e : EF) (hm1 : BitVec 5) (w16 : Bool) (s : State) : Out :=
  issuePlain (.xcfg e hm1 w16) (effXcfg e hm1 w16) s

end Sys2Proof.Machine
end

