-- ==== Sys2Proof/Machine/Butterfly.lean ====
section
/-! DEFINITION. Butterfly mode (10): plans, twiddle tables, the transform and its two commands. The events read `arg.k`, the cluster, and `arg.i`, the command. -/

namespace Sys2Proof.Machine

/-! Issue (10 R247-R249). -/

def effMxtw (e : EF) (_t : BitVec 10) (_inv : Bool) (_lm1 : BitVec 10) : Effect := command .matrix e noRegs
/-- The plan, and with `ab` the source offset. -/
def planRegs (b : Reg4) (src : Bool) (ι : Issue) : Except Stop (List Word) := do
  let p ← ι.ra b
  if src then do
    let o ← ι.ra (b + 1)
    .ok [p, o]
  else .ok [p]
def effMxbf (e : EF) (_t : BitVec 10) (b : Reg4) (src : Bool) (_step : BitVec 12) : Effect := command .matrix e (planRegs b src)

/-! Complex values (10 R239, R245). -/

/-- A complex element: the patterns of its real and imaginary parts. -/
structure Cx where
  re : Nat
  im : Nat
  deriving DecidableEq, Repr

/-- The complex element `k` of a number that holds them from its lowest bit. -/
def cxAt (v k : Nat) : Cx := { re := elem 32 v (2 * k), im := elem 32 v (2 * k + 1) }
/-- BfRound of an exact sum of terms (10 R245). -/
def bfRound (ts : List Ex) (scale : Int) : Nat :=
  match ts.foldl (exAdd .rne) (.zero false) with
  | .nan _ _ => 0x7FC00000
  | .inf s => rne32 (.inf s)
  | .fin _ 0 _ _ => 0
  | x => rne32 (exScale x scale)
/-- The terms of the real and of the imaginary part of a product. -/
def cxMulRe (a b : Cx) : List Ex := [exMul (fF32.decode a.re) (fF32.decode b.re), (exMul (fF32.decode a.im) (fF32.decode b.im)).neg]
def cxMulIm (a b : Cx) : List Ex := [exMul (fF32.decode a.re) (fF32.decode b.im), exMul (fF32.decode a.im) (fF32.decode b.re)]
def cxOf (l : List Cx) (i : Nat) : Cx := l.getD i { re := 0, im := 0 }
/-- Twid(v, t). -/
def twid (w : List Cx) (v : Cx) (t : Nat) : Cx :=
  if t = 0 then v else { re := bfRound (cxMulRe v (cxOf w t)) 0, im := bfRound (cxMulIm v (cxOf w t)) 0 }
/-- BfSum(u, p, r, σ) with the table of a transform of length `len`. -/
def bfSum (w : List Cx) (len : Nat) (u : List Cx) (p r sigma : Nat) : Cx :=
  let term := fun (re : Bool) (qv : Cx × Nat) =>
    let i := p * qv.2 % r
    if i = 0 then [fF32.decode (if re then qv.1.re else qv.1.im)]
    else if re then cxMulRe qv.1 (cxOf w (i * (len / r))) else cxMulIm qv.1 (cxOf w (i * (len / r)))
  { re := bfRound ((u.zipIdx.map (term true)).flatten) (-(sigma : Int)), im := bfRound ((u.zipIdx.map (term false)).flatten) (-(sigma : Int)) }

/-! The transform (10 R243, R244). -/

/-- Rev(j) over the radices of the stages still to come: digit by digit, the first digit of `j` weighing most. -/
def digitRev : List Nat → Nat → Nat
  | [], _ => 0
  | r :: t, j => j % r * t.foldl (· * ·) 1 + digitRev t (j / r)
/-- One stage: `m` is the length that the stages before it reached. -/
def stage (w : List Cx) (len m r sigma : Nat) (v : List Cx) : List Cx :=
  (List.range len).map (fun j =>
    let b := j / (m * r) * (m * r)
    let k := j % m
    let p := j % (m * r) / m
    let u := (List.range r).map (fun q => twid w (cxOf v (b + q * m + k)) (q * k * (len / (m * r))))
    bfSum w len u p r sigma)
def stages (w : List Cx) (len : Nat) : List (Nat × Nat) → Nat → List Cx → List Cx
  | [], _, y => y
  | (r, sigma) :: t, m, y => stages w len t (m * r) (stage w len m r sigma y)
/-- Transform(x, ρ, σ, w). -/
def transform (w : List Cx) (plan : List (Nat × Nat)) (x : List Cx) : List Cx :=
  let rs := plan.map (·.1)
  let len := rs.foldl (· * ·) 1
  stages w len plan 1 ((List.range len).map (fun j => cxOf x (digitRev rs j)))

/-! Twiddle values (10 R242), correctly rounded from 256-bit fixed point (assumption 14). -/

/-- Σ (-1)^i / ((2i+1) n^(2i+1)): arctan(1/n). -/
def atanInv (n : Nat) : Nat → Nat → Int → Int
  | 0, _, _ => 0
  | i + 1, k, t => t / (2 * k + 1 : Nat) - atanInv n i (k + 1) (t / (n * n : Nat))
/-- π by Machin's formula. -/
def piFx : Int := 16 * atanInv 5 80 0 (2 ^ fxBits / 5) - 4 * atanInv 239 30 0 (2 ^ fxBits / 239)
/-- x^k/k! − x^(k+2)/(k+2)! + …, `t` the first term. -/
def altSum (x2 : Int) : Nat → Nat → Int → Int
  | 0, _, _ => 0
  | i + 1, k, t => t - altSum x2 i (k + 2) (t * x2 / 2 ^ fxBits / ((k + 1) * (k + 2) : Nat))
/-- Tw of a fixed-point value: values nearer to 0 than the error of the sums are 0. -/
def twValue (v : Int) : Nat := if v.natAbs < 2 ^ 56 then 0 else rne32 (ofInt v (-(fxBits : Int)))
/-- Entry `t` of the table of length `len`. -/
def twEntry (len : Nat) (inv : Bool) (t : Nat) : Cx :=
  let x : Int := 2 * piFx * t / len
  let x2 : Int := x * x / 2 ^ fxBits
  let c := altSum x2 80 0 (2 ^ fxBits)
  let s := altSum x2 80 1 x
  { re := twValue c, im := twValue (if inv then s else -s) }

/-! Plans (10 R240, R241). -/

/-- A plan read into its fields: the twiddle tile, a radix and a shift for each stage, the batch. -/
structure Plan where
  tw : Nat
  st : List (Nat × Nat)
  batch : Nat
  deriving DecidableEq, Repr

def planOf (p : Word) : Plan :=
  let v := p.toNat
  { tw := field v 0 10, st := (List.range (field v 10 3 + 1)).map (fun i => (field v (16 + 2 * i) 2 + 2, field v (32 + 2 * i) 2)),
    batch := field v 48 10 + 1 }
def Plan.len (p : Plan) : Nat := (p.st.map (·.1)).foldl (· * ·) 1
/-- A legal plan for destination tile `dst`. -/
def planOk (w : Word) (dst : Nat) : Bool :=
  let v := w.toNat
  let p := planOf w
  let n := p.st.length
  decide (p.len ≤ 1024 ∧ p.batch * p.len ≤ 1024 ∧ p.tw ≠ dst ∧ field v 13 3 = 0 ∧ field v 58 6 = 0 ∧ field v (16 + 2 * n) (16 - 2 * n) = 0
    ∧ field v (32 + 2 * n) (16 - 2 * n) = 0)

/-! The commands (10 R246, R248-R251). -/

/-- Complex elements from the first on, where both columns lie within bounds; the tile becomes LIVE. -/
def Tile.putCx (t : Tile) (l : List Cx) (bad : Bool) : Tile :=
  let put := fun (i : Nat) => decide (i / 2 < l.length ∧ i / 2 / 32 < t.rows ∧ 2 * (i / 2 % 32) + 1 < t.cols)
  let el := fun (i : Nat) => if put i then (if i % 2 = 0 then (cxOf l (i / 2)).re else (cxOf l (i / 2)).im) else t.el i
  { t with data := BitVec.ofNat 65536 (packElems 32 ((List.range 2048).map el)), live := true, poison := t.poison || bad, marks := t.rewritten put bad }
/-- MXTW_EXEC. -/
def State.mxtw (s : State) : State :=
  match s.argCmd with
  | none => s
  | some m =>
    let k := s.arg.k
    let c := s.cluster k
    match m.instr with
    | .mxtw _ t inv lm1 =>
      if !c.seqReady m then s
      else
        let tl := c.tile t.toNat
        if tl.i32 then s.finish k m (matrixError m cILLEGAL 4 0 0)
        else (s.setCluster k (c.setTile t.toNat (tl.putCx ((List.range (lm1.toNat + 1)).map (twEntry (lm1.toNat + 1) inv)) false))).finish k m .normal
    | _ => s
def execMxtwExec (s : State) : Out := .next s.mxtw
/-- The AB offset of a source is bad (10 R249). -/
def abSourceBad (a : Word) (o : Nat) : Bool := decide (o % 64 ≠ 0 ∨ 0xFFE000 < o ∨ a.toNat / 2 ^ 24 ≠ 0)
/-- MXBF_EXEC. -/
def State.mxbf (s : State) : State :=
  match s.argCmd with
  | none => s
  | some m =>
    let k := s.arg.k
    let c := s.cluster k
    match m.instr with
    | .mxbf _ t _ src step =>
      if !c.seqReady m then s
      else
        let z := tEff t step m.n
        let w := m.regs.headD 0
        let p := planOf w
        let a := m.regs.getD 1 0
        let o := (a + BitVec.ofInt 64 (step.toInt * m.n.toNat * 8192)).toNat
        if !planOk w z then s.finish k m (matrixError m cILLEGAL 1 0 0)
        else if src && abSourceBad a o then s.finish k m (matrixError m cDRAIN 2 0 0)
        else if (c.tile z).i32 || (c.tile p.tw).i32 then s.finish k m (matrixError m cILLEGAL 4 0 0)
        else
          let n := p.batch * p.len
          let from_ := if src then leNat (c.bufBytes .ab o (8 * n)) else (c.tile z).data.toNat
          let badSeg := if src then (List.range ((8 * n + 63) / 64)).find? (fun i => c.bufPoisoned .ab (o + 64 * i) 64) else none
          let tw := (List.range p.len).map (cxAt (c.tile p.tw).data.toNat)
          let out := ((List.range p.batch).map (fun b => transform tw p.st ((List.range p.len).map (fun i => cxAt from_ (b * p.len + i))))).flatten
          let badTile := ((c.tile p.tw).badAt p.tw).or (if src then none else (c.tile z).badAt z)
          let s1 := s.setCluster k (c.setTile z ((c.tile z).putCx out (badTile.isSome || badSeg.isSome)))
          let s1 := match badSeg, badTile with
            | some i, _ => s1.errUncorr k m.ctx 1 5 (BitVec.ofNat 64 (o + 64 * i))
            | none, some a => s1.errUncorr k m.ctx 1 6 (BitVec.ofNat 64 a)
            | none, none => s1
          s1.finish k m .normal
    | _ => s
def execMxbfExec (s : State) : Out := .next s.mxbf

/-! Whole steps: each instruction as the issue of a plain bundle that holds it. -/

def execMxtw (e : EF) (t : BitVec 10) (inv : Bool) (lm1 : BitVec 10) (s : State) : Out :=
  issuePlain (.mxtw e t inv lm1) (effMxtw e t inv lm1) s
def execMxbf (e : EF) (t : BitVec 10) (b : Reg4) (src : Bool) (step : BitVec 12) (s : State) : Out :=
  issuePlain (.mxbf e t b src step) (effMxbf e t b src step) s

end Sys2Proof.Machine
end

