-- ==== Sys2Proof/Machine/Chain.lean ====
section
/-! DEFINITION. Copy channels and Chains (11 R262-R276). The events read `arg.k`, the cluster, and `arg.i`, the command. -/

namespace Sys2Proof.Machine

/-! Issue (11 R273-R276). -/

def effChgo (e : EF) (_n : BitVec 4) : Effect := command .channel e noRegs
def effChset (e : EF) (_n : BitVec 4) (b : Reg4) (_space : BitVec 2) : Effect := command .channel e (fun ι => do
  let x ← ι.ra b
  let y ← ι.ra (b + 1)
  let z ← ι.ra (b + 2)
  .ok [x, y, z])
/-- `chq`: with NOW it takes no place in the channel's queue. -/
def effChq (e : EF) (_n : BitVec 4) (b : Reg4) (now : Bool) (step : BitVec 12) : Effect := fun ι w =>
  ι.guarded e.g w fun w => do
    let v ← ι.ra b
    let ea := v + BitVec.ofInt 64 (step.toInt * ι.n.toNat * 64)
    if ea.toNat % 64 ≠ 0 then ι.failAt cALIGN ea
    else do
      let (_, w) ← ι.produceIn (!now) .channel e [ea] none w
      .ok w

/-! Transfer records (11 R264, R265). -/

def trNext (r : BitVec 512) : Word := BitVec.ofNat 64 (recField r 0 64)
def trOwn (r : BitVec 512) : Bool := r.getLsbD 64
def trEnd (r : BitVec 512) : Bool := r.getLsbD 65
def trKind (r : BitVec 512) : Nat := recField r 66 2
def trZfill (r : BitVec 512) : Bool := r.getLsbD 68
def trSrc (r : BitVec 512) : Nat := recField r 128 64
def trDst (r : BitVec 512) : Nat := recField r 192 64
def trRowb (r : BitVec 512) : Nat := recField r 256 21
def trRows (r : BitVec 512) : Nat := recField r 288 16
def trSstride (r : BitVec 512) : Int := sintOf 32 (recField r 320 32)
def trDstride (r : BitVec 512) : Int := sintOf 32 (recField r 352 32)
def trDone (r : BitVec 512) : Nat := recField r 384 16
/-- A bad record. -/
def trBad (r : BitVec 512) : Bool :=
  decide (trKind r = 3) || decide (trRowb r = 0 ∨ trRowb r % 64 ≠ 0 ∨ 2 ^ 20 < trRowb r) || decide (trDst r % 64 ≠ 0 ∨ trDstride r % 64 ≠ 0)
    || (!trZfill r && decide (trSrc r % 64 ≠ 0 ∨ trSstride r % 64 ≠ 0)) || decide (trRows r < trDone r)
    || (decide (trKind r = 1 ∨ trKind r = 2) && !inBuffer (trDst r) [(trRows r + 1, trDstride r)] (trRowb r - 1))
/-- The address of a row, wrapped. -/
def rowAt (base row : Nat) (stride : Int) : Nat := (((base : Int) + row * stride) % 2 ^ 64).toNat

/-! Snapshots and status (11 R262, R263, R271). -/

def chanOf (m : Cmd) : Nat := (channelOf m.instr).getD 0
/-- CSTAT; `waiting` counts the commands in the queue. -/
def Channel.cstat (h : Channel) (waiting : Nat) : Word :=
  let st := match h.st with | .idle => 0 | .walk => 1 | .firmware => 2
  BitVec.ofNat 64 (st + 4 * h.space.toNat + 16 * bnat (st != 0) + 32 * h.last.toNat + 2 ^ 7 * waiting + 2 ^ 16 * h.ctx)
/-- The snapshot's 64 bytes as words. -/
def Cluster.snapshot (c : Cluster) (n id : Nat) : List Word :=
  let h := c.chan n
  let waiting := (c.cmds.filter (fun m => m.queued && decide (m.eng = .channel) && chanOf m == n && m.id != id)).length
  [h.head, h.rbase, h.rlim, h.wmark, h.cstat waiting, h.recs, 0, 0]
def channelEsw (m : Cmd) (cause record : Nat) : Word :=
  BitVec.ofNat 64 ((opcodeOf m.instr).toNat + 2 ^ 8 * chanOf m + 2 ^ 12 * cause + 2 ^ 16 * record)
def channelError (m : Cmd) (code : BitVec 16) (cause record : Nat) (addr : Word) : Finish := .error code (channelEsw m cause record) addr record

/-- Every earlier command of the channel has finished, and the channel is idle. -/
def Cluster.chanReady (c : Cluster) (m : Cmd) : Bool :=
  c.atHead m && decide ((c.chan (chanOf m)).st = .idle)
    && !c.cmds.any (fun q => decide (q.eng = .channel) && q.started && chanOf q == chanOf m && (match q.instr with | .chq _ _ _ now _ => !now | _ => true))

/-! `chset` and `chq` (11 R274, R276). -/

/-- CHSET_EXEC. CTX, the Context of the last walk, is `chgo`'s to set (11 R272, assumption 95). -/
def State.chset (s : State) : State :=
  match s.argCmd with
  | none => s
  | some m =>
    let k := s.arg.k
    let c := s.cluster k
    match m.instr with
    | .chset _ n _ space =>
      if !c.chanReady m then s
      else
        let head := m.regs.headD 0
        let lo := m.regs.getD 1 0
        let hi := m.regs.getD 2 0
        if head.toNat % 64 ≠ 0 ∨ hi.toNat < lo.toNat ∨ (space ≠ 0 ∧ 2 ^ 24 < hi.toNat) then s.finish k m (channelError m cILLEGAL 2 0 0)
        else
          (s.setCluster k (c.setChan n.toNat
            { c.chan n.toNat with head := head, rbase := lo, rlim := hi, wmark := lo, recs := 0, space := space, last := 0 })).finish k m .normal
    | _ => s
def execChsetExec (s : State) : Out := .next s.chset
/-- CHQ_SNAPSHOT. A command that waited on a fault writes the snapshot it took. -/
def State.chqSnapshot (s : State) : State :=
  match s.argCmd with
  | none => s
  | some m =>
    let k := s.arg.k
    let c := s.cluster k
    match m.instr with
    | .chq _ n _ now _ =>
      let ea := m.regs.headD 0
      match m.delivered with
      | some code => s.finish k m (channelError m (deliveredCode code) 4 0 ea)
      | none =>
        if !(m.started || (if now then c.mayStart m else c.chanReady m)) then s
        else
          let ws := if m.started then m.data else c.snapshot n.toNat m.id
          match s.engineWrite k ea.toNat 4 ((ws.map (fun w => bytesLE 8 w.toNat)).flatten) false with
          | (.error f, s) => s.cmdFault k { m.taken with data := ws } 7 f 1 n.toNat 0
          | (.ok _, s) => s.finish k m .normal
    | _ => s
def execChqSnapshot (s : State) : Out := .next s.chqSnapshot

/-! The walk (11 R266-R272). -/

/-- A walk ends: outcome 1 normal, 2 stopped, 3 an error. -/
def State.chanEnd (s : State) (k : Nat) (m : Cmd) (last : BitVec 2) (f : Finish) : State :=
  (s.modCluster k (fun c =>
    let c := c.setChan (chanOf m) { c.chan (chanOf m) with st := .idle, last := last, cmd := none, rcd := none, pos := none }
    { c with faults := c.faults.filter (fun g => !(decide (g.waiter = .chan (chanOf m)) && g.id.isSome)) })).finish k m f
/-- A translation fault of the walk: ring entry, STATE FIRMWARE (11 R270). -/
def State.chanFault (s : State) (k : Nat) (m : Cmd) (f : Nat × Nat × Nat) (wr row : Nat) : State :=
  let s := s.modCluster k (fun c =>
    let h := c.chan (chanOf m)
    c.setChan (chanOf m) { h with st := .firmware, row := row, pos := if h.rcd.isNone then some row else none })
  s.raiseFault k (.chan (chanOf m)) f.2.2 (ringInfo 3 f.1 f.2.1 wr m.ctx (chanOf m) m.tok) m.pc (BitVec.ofNat 64 row)
/-- 64 bytes that a walk reads: the channel's own read, or, where firmware carries the Chain on, a die controller's (16 R328). -/
def State.chainRead (s : State) (fw : Bool) (k va : Nat) : (Except (Nat × Nat × Nat) (List Byte × Bool)) × State :=
  if fw then s.dieRead k va 64 else s.engineRead k va 64 1
/-- The channel reads the record at HEAD and takes it. -/
def State.readRecord (s : State) (fw : Bool) (k n : Nat) : (Except (Nat × Nat × Nat) (BitVec 512)) × State :=
  match s.chainRead fw k ((s.cluster k).chan n).head.toNat with
  | (.error f, s) => (.error f, s)
  | (.ok (bs, _), s) => (.ok (recOfBytes bs), s)
def State.takeRecord (s : State) (k n : Nat) (r : BitVec 512) : State :=
  s.modCluster k (fun c => c.setChan n { c.chan n with rcd := some r, row := trDone r, pos := none })
/-- What comes of a record that was read: the end of the Chain, an error, or rows to copy. -/
def State.acceptRecord (s : State) (k : Nat) (m : Cmd) (r : BitVec 512) : State :=
  let h := (s.cluster k).chan (chanOf m)
  if !trOwn r then s.chanEnd k m 1 .normal
  else if trBad r then s.chanEnd k m 3 (channelError m cILLEGAL 1 h.done h.head)
  else s.takeRecord k (chanOf m) r
/-- A fault of the walk that firmware delivered through FRCTL: the command ends in error (11 R270, 19 R399). -/
def State.chanDelivered (s : State) (k : Nat) (m : Cmd) (code : BitVec 16) : State :=
  let h := (s.cluster k).chan (chanOf m)
  s.chanEnd k m 3 (channelError m (deliveredCode code) 3 h.done h.head)
/-- The walk that command `m` is, in a state and between records or rows. -/
def Cluster.walking (c : Cluster) (m : Cmd) (st : ChState) : Bool :=
  let h := c.chan (chanOf m)
  m.started && decide (h.st = st) && decide (h.cmd = some m.id)
/-- CHAIN_RECORD_READ: the walk starts, or goes on to the next record. -/
def State.chainRecordRead (s : State) : State :=
  match s.argCmd with
  | none => s
  | some m =>
    let k := s.arg.k
    let c := s.cluster k
    match m.instr with
    | .chgo _ n =>
      let h := c.chan n.toNat
      if !m.started && c.chanReady m then
        let s := s.setCluster k ((c.setChan n.toNat { h with st := .walk, ctx := m.ctx, cmd := some m.id, rcd := none, row := 0, first := true, done := 0 }).setCmd m.taken)
        match s.readRecord false k n.toNat with
        | (.error f, s) => s.chanFault k m.taken f 0 0
        | (.ok r, s) => s.acceptRecord k m.taken r
      else if c.walking m .walk && h.rcd.isNone then
        match m.delivered with
        | some code => s.chanDelivered k m code
        | none =>
          match s.readRecord false k n.toNat with
          | (.error f, s) => s.chanFault k m f 0 0
          | (.ok r, s) => s.acceptRecord k m r
      else s
    | _ => s
def execChainRecordRead (s : State) : Out := .next s.chainRecordRead

/-- Copy segments `seg` on of a row. On a fault, answers it and whether it was a write. -/
def State.copySegs (fw : Bool) (k : Nat) (m : Cmd) (r : BitVec 512) (row : Nat) : Nat → Nat → State → Option ((Nat × Nat × Nat) × Nat) × State
  | 0, _, s => (none, s)
  | left + 1, seg, s =>
    let a := (rowAt (trSrc r) row (trSstride r) + 64 * seg) % 2 ^ 64
    let d := (rowAt (trDst r) row (trDstride r) + 64 * seg) % 2 ^ 64
    let (src, s) := if trZfill r then (.ok (List.replicate 64 0, false), s) else s.chainRead fw k a
    match src with
    | .error f => (some (f, 0), s)
    | .ok (bs, bad) =>
      let s := if bad then s.errUncorr k m.ctx 3 0 (s.paOf k a) else s
      if trKind r = 0 then
        match s.engineWrite k d 1 bs bad with
        | (.error f, s) => (some (f, 1), s)
        | (.ok _, s) => State.copySegs fw k m r row left (seg + 1) s
      else State.copySegs fw k m r row left (seg + 1) (s.modCluster k (fun c => c.writeBuf (if trKind r = 1 then .wb else .ab) d bs bad))
/-- AdvanceMark (11 R267), and the next row. -/
def Channel.rowDone (h : Channel) (r : BitVec 512) (row : Nat) : Channel :=
  let lo := rowAt (trDst r) row (trDstride r)
  let hi := lo + trRowb r
  let mark := if trKind r = h.space.toNat ∧ lo ≤ h.wmark.toNat ∧ h.wmark.toNat < hi then BitVec.ofNat 64 (Nat.min hi h.rlim.toNat) else h.wmark
  { h with wmark := mark, row := row + 1, first := false }
/-- Write DONE of the record at HEAD. -/
def State.writeDone (s : State) (k n row : Nat) : (Except (Nat × Nat × Nat) Unit) × State :=
  s.engineWrite k (((s.cluster k).chan n).head.toNat + 0x30) 1 (bytesLE 2 row) false
/-- Write the control word, OWN = 0 and its padding zero (03 R81), and DONE = 0 (11 R268). -/
def State.writeControl (s : State) (k n : Nat) (r : BitVec 512) : (Except (Nat × Nat × Nat) Unit) × State :=
  match s.engineWrite k (((s.cluster k).chan n).head.toNat + 8) 1 (bytesLE 8 (2 * recField r 65 4)) false with
  | (.error f, s) => (.error f, s)
  | (.ok _, s) => s.writeDone k n 0
/-- The record is finished: RECS, HEAD, and the end of the Chain or the next record. -/
def State.recordDone (s : State) (k : Nat) (m : Cmd) (r : BitVec 512) : State :=
  let s := s.modCluster k (fun c =>
    let h := c.chan (chanOf m)
    c.setChan (chanOf m) { h with recs := h.recs + 1, head := trNext r, rcd := none, done := h.done + 1 })
  if trEnd r then s.chanEnd k m 1 .normal else s
/-- The control word, and what follows it. -/
def State.recordEnd (s : State) (k : Nat) (m : Cmd) (r : BitVec 512) : State :=
  match s.writeControl k (chanOf m) r with
  | (.error f, s) => s.chanFault k m f 1 (trRows r + 1)
  | (.ok _, s) => s.recordDone k m r
/-- CHAIN_ROW_COPY: the next row of the record, with the record's end after its last row. -/
def State.chainRowCopy (s : State) : State :=
  match s.argCmd with
  | none => s
  | some m =>
    let k := s.arg.k
    let c := s.cluster k
    let n := chanOf m
    let h := c.chan n
    match h.rcd with
    | none => s
    | some r =>
      if !c.walking m .walk then s
      else match m.delivered with
      | some code => s.chanDelivered k m code
      | none =>
        if trRows r < h.row then s.recordEnd k m r
        else if !h.first && (c.context m.ctx).stopf then
          match s.writeDone k n h.row with
          | (.error f, s) => s.chanFault k m f 1 h.row
          | (.ok _, s) => s.chanEnd k m 2 .stopped
        else
          match State.copySegs false k m r h.row (trRowb r / 64) 0 s with
          | (some (f, wr), s) => ((s.chanFault k m f wr h.row).writeDone k n h.row).2
          | (none, s) =>
            let s := s.modCluster k (fun c => c.setChan n ((c.chan n).rowDone r h.row))
            if h.row < trRows r then s else s.recordEnd k m r
def execChainRowCopy (s : State) : Out := .next s.chainRowCopy

/-! The firmware path (11 R270). -/

/-- Firmware carries the Chain on by at most `fuel` records or rows, from the row that POS gave (11 R270); where its own access fails, or the record is bad, it goes no further. -/
def State.firmwareChain (k : Nat) (id : Nat) : Nat → State → State
  | 0, s => s
  | fuel + 1, s =>
    match (s.cluster k).cmd id with
    | none => s
    | some m =>
      let n := chanOf m
      let h := (s.cluster k).chan n
      match h.rcd with
      | none =>
        match s.readRecord true k n with
        | (.error _, _) => s
        | (.ok r, s1) =>
          if !trOwn r then s1.chanEnd k m 1 .normal
          else if trBad r then s
          else
            let row := h.pos.getD (trDone r)
            State.firmwareChain k id fuel ((s1.takeRecord k n r).modCluster k (fun c => c.setChan n { c.chan n with row := row }))
      | some r =>
        if h.row ≤ trRows r then
          match State.copySegs true k m r h.row (trRowb r / 64) 0 s with
          | (some _, _) => s
          | (none, s1) => State.firmwareChain k id fuel (s1.modCluster k (fun c => c.setChan n ((c.chan n).rowDone r h.row)))
        else
          match s.writeControl k n r with
          | (.error _, _) => s
          | (.ok _, s1) => State.firmwareChain k id fuel (s1.recordDone k m r)
/-- FIRMWARE_FINISH_CHAIN: firmware goes on with the faulted Chain of command `arg.i` by `arg.j` records and rows; at the Chain's end the command completes. -/
def State.firmwareFinish (s : State) : State :=
  match s.argCmd with
  | none => s
  | some m => if (s.cluster s.arg.k).walking m .firmware then State.firmwareChain s.arg.k m.id s.arg.j s else s
def execFirmwareFinishChain (s : State) : Out := .next s.firmwareFinish
/-- FIRMWARE_END_CHAIN: firmware ends the Chain with the code `arg.w`, PAGE or PERM. -/
def State.firmwareEnd (s : State) : State :=
  match s.argCmd with
  | none => s
  | some m =>
    let k := s.arg.k
    let h := (s.cluster k).chan (chanOf m)
    let code : BitVec 16 := s.arg.w.setWidth 16
    if (s.cluster k).walking m .firmware ∧ (code = cPAGE ∨ code = cPERM) then s.chanEnd k m 3 (channelError m code 3 h.done h.head) else s
def execFirmwareEndChain (s : State) : Out := .next s.firmwareEnd

/-! Whole steps: each instruction as the issue of a plain bundle that holds it. -/

def execChgo (e : EF) (n : BitVec 4) (s : State) : Out :=
  issuePlain (.chgo e n) (effChgo e n) s
def execChset (e : EF) (n : BitVec 4) (b : Reg4) (space : BitVec 2) (s : State) : Out :=
  issuePlain (.chset e n b space) (effChset e n b space) s
def execChq (e : EF) (n : BitVec 4) (b : Reg4) (now : Bool) (step : BitVec 12) (s : State) : Out :=
  issuePlain (.chq e n b now step) (effChq e n b now step) s

end Sys2Proof.Machine
end

