-- ==== Sys2Proof/Machine/Group.lean ====
section
/-! DEFINITION. Dispatch of experts by the Queue unit (14 R305-R312). The event reads `arg.k`, the cluster, and `arg.i`, the command. -/

namespace Sys2Proof.Machine

/-! The Gusset table (14 R305, R306), as its 32 words. -/

def gusWord (t : List Word) (i : Nat) : Nat := (t.getD i 0).toNat
def gusBase (t : List Word) : Nat := gusWord t 0
def gusSize (t : List Word) : Nat := field (gusWord t 1) 0 32
def gusNB (t : List Word) : Nat := field (gusWord t 1) 32 3
def gusCap (t : List Word) (i : Nat) : Nat := field (gusWord t (2 + 2 * i)) 0 32
def gusCode (t : List Word) (i : Nat) : Nat := gusWord t (3 + 2 * i)
/-- A bad table. -/
def gusBad (t : List Word) : Bool :=
  let is := List.range (gusNB t + 1)
  decide (gusBase t % 64 ≠ 0 ∨ gusSize t = 0 ∨ gusSize t % 64 ≠ 0 ∨ gusCap t 0 ≠ 0)
    || is.any (fun i => decide (0 < i ∧ (gusCap t i ≤ gusCap t (i - 1) ∨ gusCode t i % 4 ≠ 0)))
/-- The bucket for `n` rows. -/
def bucketOf (t : List Word) (n : Nat) : Nat :=
  ((List.range (gusNB t + 1)).find? (fun i => decide (n ≤ gusCap t i))).getD (gusNB t)
/-- The rows that an expert's schedule processes. -/
def expertRows (t : List Word) (n : Nat) : Nat := if n = 0 then 0 else Nat.min n (gusCap t (bucketOf t n))

/-! Issue (14 R307). -/

/-- `gdisp` keeps its four registers and the issuer's Group indexes. -/
def effGdisp (e : EF) (b : Reg4) (_xm1 : BitVec 12) (_prio : BitVec 3) (_lv : Bool) : Effect := fun ι w =>
  ι.guarded e.g w fun w => do
    let a0 ← ι.ra b
    let a1 ← ι.ra (b + 1)
    let a2 ← ι.ra (b + 2)
    let a3 ← ι.ra (b + 3)
    let l := lvlBits ι.x.lvl
    let ls := (List.range 3).map (fun i => (BitVec.ofNat 64 (field l (64 * i) 64) : Word))
    let (_, w) ← ι.produce .queue e ([a0, a1, a2, a3] ++ ls ++ [BitVec.ofNat 64 (bnat ι.x.tail)]) none w
    .ok w

/-! Execution (14 R308-R311). -/

/-- What a `gdisp` command asks for. -/
structure Gdisp where
  counts : Nat
  table : Nat
  status : Nat
  parent : Nat
  experts : Nat
  prio : Nat
  lvls : Nat
  tail : Bool
  deriving DecidableEq, Repr
def Cmd.gdisp (m : Cmd) : Option Gdisp :=
  let r := fun (i : Nat) => (m.regs.getD i 0).toNat
  match m.instr with
  | .gdisp _ _ xm1 prio lv =>
    some { counts := r 0, table := r 1, status := r 2, parent := r 3, experts := xm1.toNat + 1, prio := prio.toNat,
           lvls := if lv then r 4 + 2 ^ 64 * r 5 + 2 ^ 128 * r 6 else 0, tail := lv && r 7 != 0 }
  | _ => none
/-- The engine status word (14 R311). -/
def gdispEsw (cause expert : Nat) : Word := BitVec.ofNat 64 (0x3D + 2 ^ 8 * cause + 2 ^ 16 * (expert % 4096))
def gdispError (code : BitVec 16) (cause expert addr : Nat) : Finish := .error code (gdispEsw cause expert) (BitVec.ofNat 64 addr) expert
/-- The record of expert `e` (14 R308). -/
def expertRecord (g : Gdisp) (t : List Word) (e n : Nat) : BitVec 512 :=
  mkRecord (BitVec.ofNat 64 (gusCode t (bucketOf t n))) (BitVec.ofNat 64 (gusBase t + e * gusSize t)) g.prio g.tail false g.prio 0 g.parent g.lvls
/-- The dispatch descriptor of expert `e` (14 R309). -/
def expertDescriptor (t : List Word) (e n : Nat) : List Byte :=
  let i := bucketOf t n
  let rows := expertRows t n
  bytesLE 64 (e + 2 ^ 32 * i + 2 ^ 64 * rows + 2 ^ 96 * gusCap t i + 2 ^ 128 * n + 2 ^ 160 * (n - rows))
/-- The status entry's first 24 bytes after a command's counts are added (14 R310). -/
def statusAdd (old : Nat) (t : List Word) (ns : List Nat) : Nat :=
  let drops := ns.map (fun n => n - expertRows t n)
  let sum := drops.foldl (· + ·) 0
  let live := (ns.filter (fun n => expertRows t n != 0)).length
  let gone := (drops.filter (· != 0)).length
  let f := fun (lo n x : Nat) => (field old lo n + x) % 2 ^ n * 2 ^ lo
  f 0 64 sum + f 64 32 live + f 96 32 (ns.length - live) + f 128 32 gone + f 160 32 1
def bytesWords (l : List Byte) : List Word := (chunks 8 l.length l).map (fun b => BitVec.ofNat 64 (leNat b))
/-- A read by the Queue unit; marked data is recorded and used as it stands. -/
def State.queueRead (s : State) (k ctx va n : Nat) : (Except (Nat × Nat × Nat) (List Byte)) × State :=
  match s.engineRead k va n 4 with
  | (.error f, s) => (.error f, s)
  | (.ok (bs, bad), s) => (.ok bs, if bad then s.errUncorr k ctx 6 0 (s.paOf k va) else s)
/-- The descriptors of the experts from `e` on. -/
def State.writeDescriptors (k : Nat) (g : Gdisp) (t : List Word) : List Nat → Nat → State → (Except (Nat × (Nat × Nat × Nat)) Unit) × State
  | [], _, s => (.ok (), s)
  | n :: ns, e, s =>
    if expertRows t n = 0 then State.writeDescriptors k g t ns (e + 1) s
    else
      match s.engineWrite k ((gusBase t + e * gusSize t) % 2 ^ 64) 4 (expertDescriptor t e n) false with
      | (.error f, s) => (.error (e, f), s)
      | (.ok _, s) => State.writeDescriptors k g t ns (e + 1) s
/-- The part of a command that its phase names: 0 counts, 1 table, 2 descriptors, 3 status, 4 one expert, in the push step of a clk that no other expert of the command has taken (12 R281): its push is done once it has been appended. -/
def State.gdispGo (s : State) (k : Nat) (m : Cmd) (g : Gdisp) : State :=
  let t := m.data.take 32
  let ns := (m.data.drop 32).map (·.toNat)
  let upd := fun (s : State) (m : Cmd) => s.modCluster k (fun c => c.setCmd m)
  match m.phase with
  | 0 =>
    match s.queueRead k m.ctx g.counts (4 * g.experts) with
    | (.error f, s) => s.cmdFault k { m with started := true } 6 f 0 0 0
    | (.ok bs, s) => upd s { m with started := true, phase := 1, data := (chunks 4 bs.length bs).map (fun b => BitVec.ofNat 64 (leNat b)) }
  | 1 =>
    match s.queueRead k m.ctx g.table 256 with
    | (.error f, s) => s.cmdFault k m 6 f 0 0 0
    | (.ok bs, s) =>
      let t := bytesWords bs
      if gusBad t then s.finish k m (gdispError cILLEGAL 1 0 g.table) else upd s { m with phase := 2, data := t ++ m.data }
  | 2 =>
    match State.writeDescriptors k g t (ns.drop m.pos) m.pos s with
    | (.error (e, f), s) => s.cmdFault k { m with pos := e } 6 f 1 0 e
    | (.ok _, s) => upd s { m with phase := 3, pos := 0 }
  | 3 =>
    match s.xlatRange k g.status 24 .write false false with
    | (.error f, s) => s.cmdFault k m 6 f 1 0 0
    | (.ok cs, s) =>
      let c := (s.cluster k).cleanChunks cs
      let new := statusAdd (leNat (c.readChunksL2 cs)) t ns
      upd (s.setCluster k (c.writeChunks cs (bytesLE 24 new) false)) { m with phase := 4 }
  | _ =>
    match ns[m.pos]? with
    | none => s.finish k m .normal
    | some n =>
      let c := s.cluster k
      let next := { m with pos := m.pos + 1, notBefore := c.qclk + 1 }
      if !c.queueAt 3 ∨ c.qclk < m.notBefore ∨ c.pushes.any (fun p => p.src == .gdisp m.id) then s
      else if expertRows t n ≠ 0 then
        s.setCluster k { c with pushes := c.pushes ++ [{ src := .gdisp m.id, rcd := expertRecord g t m.pos n, since := some c.qclk }] }
      else if g.parent = 0 then upd s next
      else
        match s.xlatRange k g.parent 64 .write false false with
        | (.error f, s) => s.cmdFault k m 6 f 1 0 m.pos
        | (.ok cs, s) => upd (s.joinAt k m.ctx ((cs.map (·.pa)).headD 0) (BitVec.ofNat 64 g.parent) .join).2 next
/-- The address that a command was about to reach, for the record of a fault that firmware delivers. -/
def gdispAddr (m : Cmd) (g : Gdisp) : Nat :=
  let t := m.data.take 32
  match m.phase with
  | 0 => g.counts
  | 1 => g.table
  | 2 => gusBase t + m.pos * gusSize t
  | 3 => g.status
  | _ => g.parent
/-- The operand of a command that is not aligned, if any (14 R307, R308). -/
def gdispMisaligned (g : Gdisp) : Option Nat :=
  if g.counts % 4 ≠ 0 then some g.counts
  else if g.table % 256 ≠ 0 then some g.table
  else if g.status % 64 ≠ 0 then some g.status
  else if g.parent % 64 ≠ 0 then some g.parent
  else none
/-- GDISP_EXEC: the next part of the command at the head of the Queue unit's queue. -/
def State.gdispExec (s : State) : State :=
  match s.argCmd with
  | none => s
  | some m =>
    match m.gdisp with
    | none => s
    | some g =>
      let k := s.arg.k
      let done := if m.phase = 4 then m.pos else 0
      if !(s.cluster k).queueHead m then s
      else
        match m.delivered with
        | some code => s.finish k m (gdispError (deliveredCode code) 3 done (gdispAddr m g))
        | none =>
          if !m.started ∧ !(s.cluster k).mayStart m then s
          else
            match m.started, gdispMisaligned g with
            | false, some a => s.finish k m (gdispError cILLEGAL 2 0 a)
            | _, _ => s.gdispGo k m g
def execGdispExec (s : State) : Out := .next s.gdispExec

/-! Whole steps: each instruction as the issue of a plain bundle that holds it. -/

def execGdisp (e : EF) (b : Reg4) (xm1 : BitVec 12) (prio : BitVec 3) (lv : Bool) (s : State) : Out :=
  issuePlain (.gdisp e b xm1 prio lv) (effGdisp e b xm1 prio lv) s

end Sys2Proof.Machine
end

