-- ==== Sys2Proof/Machine/Scalar.lean ====
section
/-! DEFINITION. The scalar and predicate instructions of the S slot (06). -/

namespace Sys2Proof.Machine

/-! Shapes of the family: operands are read at the start of the ic, the result is due after the class's clk (04 R97). -/

/-- s[D] := f(s[A]), due after `d` clk. -/
def scalar1 (g : Reg4) (rd a : SReg) (d : Nat) (f : Word → Word) : Effect := fun ι w =>
  ι.guarded g w fun w => do
    let x ← ι.rs a
    ι.putS rd (f x) d w
/-- s[D] := f(s[A], s[B]), due after `d` clk. -/
def scalar2 (g : Reg4) (rd a b : SReg) (d : Nat) (f : Word → Word → Word) : Effect := fun ι w =>
  ι.guarded g w fun w => do
    let x ← ι.rs a
    let y ← ι.rs b
    ι.putS rd (f x y) d w
/-- The pair of E takes a mask computed from two predicates (06 R140). -/
def predicate2 (g : Reg4) (e p1 p2 : Reg4) (f : Mask → Mask → Mask) : Effect := fun ι w =>
  ι.guarded g w fun w => do
    let a ← ι.rp p1
    let b ← ι.rp p2
    ι.putPair e (f a b) w

/-! Arithmetic (06 R130-R135, 02 R48). -/

/-- The upper half of the signed product. -/
def mulHighS (x y : Word) : Word := BitVec.ofInt 64 (x.toInt * y.toInt / 2 ^ 64)
/-- The upper half of the unsigned product. -/
def mulHighU (x y : Word) : Word := BitVec.ofNat 64 (x.toNat * y.toNat / 2 ^ 64)
/-- DivQ, signed (02 R48): the quotient truncates toward zero; divisor 0 gives all ones. -/
def divQS (x y : Word) : Word := if y = 0 then BitVec.allOnes 64 else BitVec.ofInt 64 (x.toInt.tdiv y.toInt)
def divQU (x y : Word) : Word := if y = 0 then BitVec.allOnes 64 else BitVec.ofNat 64 (x.toNat / y.toNat)
/-- DivM, signed: the remainder takes the sign of the dividend; divisor 0 gives the dividend. -/
def divMS (x y : Word) : Word := if y = 0 then x else BitVec.ofInt 64 (x.toInt.tmod y.toInt)
def divMU (x y : Word) : Word := if y = 0 then x else BitVec.ofNat 64 (x.toNat % y.toNat)
/-- Shifts by an amount that is not taken modulo 64 (06 R131). -/
def shiftL (x : Word) (n : Nat) : Word := if 64 ≤ n then 0 else BitVec.ofNat 64 (x.toNat * 2 ^ n)
def shiftR (x : Word) (n : Nat) : Word := if 64 ≤ n then 0 else BitVec.ofNat 64 (x.toNat / 2 ^ n)
def shiftA (x : Word) (n : Nat) : Word := BitVec.ofInt 64 (x.toInt / 2 ^ Nat.min n 63)
/-- Zero bits above the highest set bit of an `n`-bit value. -/
def leadZeros (n : Nat) (v : Nat) : Nat := if v = 0 then n else n - 1 - v.log2
/-- Zero bits below the lowest set bit of an `n`-bit value. -/
def trailZeros (n : Nat) (v : Nat) : Nat := ((List.range n).takeWhile (fun i => !v.testBit i)).length
/-- A field of `wm1 + 1` bits at `pos` (06 R134). -/
def bitField (x : Word) (sx : Bool) (pos wm1 : BitVec 6) : Word :=
  let n := wm1.toNat + 1
  let f := field x.toNat pos.toNat n
  if sx then BitVec.ofInt 64 (sintOf n f) else BitVec.ofNat 64 f
def bitInsert (x y : Word) (pos wm1 : BitVec 6) : Word :=
  let n := wm1.toNat + 1
  let m : Word := BitVec.ofNat 64 ((2 ^ n - 1) * 2 ^ pos.toNat)
  (y &&& ~~~m) ||| (BitVec.ofNat 64 (field x.toNat 0 n * 2 ^ pos.toNat) &&& m)
/-- SatS and SatN of an exact value to `n` bits (02 R48). -/
def satS (n : Nat) (v : Int) : Int := max (-(2 ^ (n - 1))) (min v (2 ^ (n - 1) - 1))
def satN (n : Nat) (v : Int) : Int := max 0 (min v (2 ^ n - 1))

/-- `nop` reads no guard (assumption 74). -/
def effNop (_g : Reg4) : Effect := fun _ w => .ok w
def effLi (g : Reg4) (d : SReg) (imm : BitVec 32) : Effect := fun ι w => ι.guarded g w fun w => ι.putS d (sx64 imm) 1 w
def effLih (g : Reg4) (d a : SReg) (imm : BitVec 32) : Effect := scalar1 g d a 1 fun x => imm ++ x.extractLsb' 0 32
def effMov (g : Reg4) (d a : SReg) : Effect := scalar1 g d a 1 id
def effAdd (g : Reg4) (d a b : SReg) : Effect := scalar2 g d a b 1 (· + ·)
def effAddi (g : Reg4) (d a : SReg) (imm : BitVec 32) : Effect := scalar1 g d a 1 (· + sx64 imm)
def effSub (g : Reg4) (d a b : SReg) : Effect := scalar2 g d a b 1 (· - ·)
def effMul (g : Reg4) (d a b : SReg) : Effect := scalar2 g d a b 3 (· * ·)
def effMulh (g : Reg4) (d a b : SReg) : Effect := scalar2 g d a b 3 mulHighS
def effMulhn (g : Reg4) (d a b : SReg) : Effect := scalar2 g d a b 3 mulHighU
def effDiv (g : Reg4) (d a b : SReg) : Effect := scalar2 g d a b 34 divQS
def effDivn (g : Reg4) (d a b : SReg) : Effect := scalar2 g d a b 34 divQU
def effRem (g : Reg4) (d a b : SReg) : Effect := scalar2 g d a b 34 divMS
def effRemn (g : Reg4) (d a b : SReg) : Effect := scalar2 g d a b 34 divMU
def effAnd (g : Reg4) (d a b : SReg) : Effect := scalar2 g d a b 1 (· &&& ·)
def effAndi (g : Reg4) (d a : SReg) (imm : BitVec 32) : Effect := scalar1 g d a 1 (· &&& sx64 imm)
def effOr (g : Reg4) (d a b : SReg) : Effect := scalar2 g d a b 1 (· ||| ·)
def effOri (g : Reg4) (d a : SReg) (imm : BitVec 32) : Effect := scalar1 g d a 1 (· ||| sx64 imm)
def effXor (g : Reg4) (d a b : SReg) : Effect := scalar2 g d a b 1 (· ^^^ ·)
def effXori (g : Reg4) (d a : SReg) (imm : BitVec 32) : Effect := scalar1 g d a 1 (· ^^^ sx64 imm)
def effShl (g : Reg4) (d a b : SReg) : Effect := scalar2 g d a b 1 fun x y => shiftL x y.toNat
def effShli (g : Reg4) (d a : SReg) (sh : BitVec 6) : Effect := scalar1 g d a 1 fun x => shiftL x sh.toNat
def effShr (g : Reg4) (d a b : SReg) : Effect := scalar2 g d a b 1 fun x y => shiftR x y.toNat
def effShri (g : Reg4) (d a : SReg) (sh : BitVec 6) : Effect := scalar1 g d a 1 fun x => shiftR x sh.toNat
def effSar (g : Reg4) (d a b : SReg) : Effect := scalar2 g d a b 1 fun x y => shiftA x y.toNat
def effSari (g : Reg4) (d a : SReg) (sh : BitVec 6) : Effect := scalar1 g d a 1 fun x => shiftA x sh.toNat
def effMin (g : Reg4) (d a b : SReg) : Effect := scalar2 g d a b 1 fun x y => if x.toInt ≤ y.toInt then x else y
def effMinn (g : Reg4) (d a b : SReg) : Effect := scalar2 g d a b 1 fun x y => if x.toNat ≤ y.toNat then x else y
def effMax (g : Reg4) (d a b : SReg) : Effect := scalar2 g d a b 1 fun x y => if x.toInt ≤ y.toInt then y else x
def effMaxn (g : Reg4) (d a b : SReg) : Effect := scalar2 g d a b 1 fun x y => if x.toNat ≤ y.toNat then y else x
def effClz (g : Reg4) (d a : SReg) : Effect := scalar1 g d a 1 fun x => BitVec.ofNat 64 (leadZeros 64 x.toNat)
def effCtz (g : Reg4) (d a : SReg) : Effect := scalar1 g d a 1 fun x => BitVec.ofNat 64 (trailZeros 64 x.toNat)
def effPopc (g : Reg4) (d a : SReg) : Effect := scalar1 g d a 1 fun x => BitVec.ofNat 64 (popCount 64 x.toNat)
def effBfx (g : Reg4) (d a : SReg) (sx : Bool) (pos wm1 : BitVec 6) : Effect := scalar1 g d a 1 fun x => bitField x sx pos wm1
def effBfi (g : Reg4) (d a b : SReg) (pos wm1 : BitVec 6) : Effect := scalar2 g d a b 1 fun x y => bitInsert x y pos wm1
def effAdds (g : Reg4) (d a b : SReg) (un : Bool) : Effect := scalar2 g d a b 1 fun x y =>
  if un then BitVec.ofInt 64 (satN 64 ((x.toNat : Int) + y.toNat)) else BitVec.ofInt 64 (satS 64 (x.toInt + y.toInt))
/-- 06 R136: bit 0 of the predicate selects. -/
def effSel (g : Reg4) (d a b : SReg) (p : Reg4) : Effect := fun ι w =>
  ι.guarded g w fun w => do
    let m ← ι.rp p
    let x ← ι.rs a
    let y ← ι.rs b
    ι.putS d (if lane m 0 then x else y) 1 w

/-! Predicates (06 R137-R142). -/

def effCmp (g : Reg4) (e : Reg4) (a b : SReg) (cc : Cond) : Effect := fun ι w =>
  ι.guarded g w fun w => do
    let x ← ι.rs a
    let y ← ι.rs b
    ι.putPair e (allLanes (condHolds 64 cc x.toNat y.toNat)) w
def effCmpi (g : Reg4) (e : Reg4) (a : SReg) (cc : Cond) (imm : BitVec 32) : Effect := fun ι w =>
  ι.guarded g w fun w => do
    let x ← ι.rs a
    ι.putPair e (allLanes (condHolds 64 cc x.toNat (sx64 imm).toNat)) w
def effPand (g : Reg4) (e p1 p2 : Reg4) : Effect := predicate2 g e p1 p2 (· &&& ·)
def effPor (g : Reg4) (e p1 p2 : Reg4) : Effect := predicate2 g e p1 p2 (· ||| ·)
def effPxor (g : Reg4) (e p1 p2 : Reg4) : Effect := predicate2 g e p1 p2 (· ^^^ ·)
def effPandn (g : Reg4) (e p1 p2 : Reg4) : Effect := predicate2 g e p1 p2 fun a b => a &&& ~~~b
def effPsetImm (g : Reg4) (e : Reg4) (first : BitVec 8) (count : BitVec 9) : Effect := fun ι w =>
  ι.guarded g w fun w => ι.putPair e (laneRun first.toNat count.toNat) w
def effPsetReg (g : Reg4) (e : Reg4) (a : SReg) : Effect := fun ι w =>
  ι.guarded g w fun w => do
    let x ← ι.rs a
    ι.putPair e (laneRun 0 (Nat.min x.toNat 256)) w
def effPcnt (g : Reg4) (d : SReg) (p : Reg4) : Effect := fun ι w =>
  ι.guarded g w fun w => do
    let m ← ι.rp p
    ι.putS d (BitVec.ofNat 64 (popCount 256 m.toNat)) 1 w

/-! Whole steps: each instruction as the issue of a plain bundle that holds it. -/

def execNop (g : Reg4) (s : State) : Out :=
  issuePlain (.nop g) (effNop g) s
def execLi (g : Reg4) (d : SReg) (imm : BitVec 32) (s : State) : Out :=
  issuePlain (.li g d imm) (effLi g d imm) s
def execLih (g : Reg4) (d a : SReg) (imm : BitVec 32) (s : State) : Out :=
  issuePlain (.lih g d a imm) (effLih g d a imm) s
def execMov (g : Reg4) (d a : SReg) (s : State) : Out :=
  issuePlain (.mov g d a) (effMov g d a) s
def execAdd (g : Reg4) (d a b : SReg) (s : State) : Out :=
  issuePlain (.add g d a b) (effAdd g d a b) s
def execAddi (g : Reg4) (d a : SReg) (imm : BitVec 32) (s : State) : Out :=
  issuePlain (.addi g d a imm) (effAddi g d a imm) s
def execSub (g : Reg4) (d a b : SReg) (s : State) : Out :=
  issuePlain (.sub g d a b) (effSub g d a b) s
def execMul (g : Reg4) (d a b : SReg) (s : State) : Out :=
  issuePlain (.mul g d a b) (effMul g d a b) s
def execMulh (g : Reg4) (d a b : SReg) (s : State) : Out :=
  issuePlain (.mulh g d a b) (effMulh g d a b) s
def execMulhn (g : Reg4) (d a b : SReg) (s : State) : Out :=
  issuePlain (.mulhn g d a b) (effMulhn g d a b) s
def execDiv (g : Reg4) (d a b : SReg) (s : State) : Out :=
  issuePlain (.div g d a b) (effDiv g d a b) s
def execDivn (g : Reg4) (d a b : SReg) (s : State) : Out :=
  issuePlain (.divn g d a b) (effDivn g d a b) s
def execRem (g : Reg4) (d a b : SReg) (s : State) : Out :=
  issuePlain (.rem g d a b) (effRem g d a b) s
def execRemn (g : Reg4) (d a b : SReg) (s : State) : Out :=
  issuePlain (.remn g d a b) (effRemn g d a b) s
def execAnd (g : Reg4) (d a b : SReg) (s : State) : Out :=
  issuePlain (.and g d a b) (effAnd g d a b) s
def execAndi (g : Reg4) (d a : SReg) (imm : BitVec 32) (s : State) : Out :=
  issuePlain (.andi g d a imm) (effAndi g d a imm) s
def execOr (g : Reg4) (d a b : SReg) (s : State) : Out :=
  issuePlain (.or g d a b) (effOr g d a b) s
def execOri (g : Reg4) (d a : SReg) (imm : BitVec 32) (s : State) : Out :=
  issuePlain (.ori g d a imm) (effOri g d a imm) s
def execXor (g : Reg4) (d a b : SReg) (s : State) : Out :=
  issuePlain (.xor g d a b) (effXor g d a b) s
def execXori (g : Reg4) (d a : SReg) (imm : BitVec 32) (s : State) : Out :=
  issuePlain (.xori g d a imm) (effXori g d a imm) s
def execShl (g : Reg4) (d a b : SReg) (s : State) : Out :=
  issuePlain (.shl g d a b) (effShl g d a b) s
def execShli (g : Reg4) (d a : SReg) (sh : BitVec 6) (s : State) : Out :=
  issuePlain (.shli g d a sh) (effShli g d a sh) s
def execShr (g : Reg4) (d a b : SReg) (s : State) : Out :=
  issuePlain (.shr g d a b) (effShr g d a b) s
def execShri (g : Reg4) (d a : SReg) (sh : BitVec 6) (s : State) : Out :=
  issuePlain (.shri g d a sh) (effShri g d a sh) s
def execSar (g : Reg4) (d a b : SReg) (s : State) : Out :=
  issuePlain (.sar g d a b) (effSar g d a b) s
def execSari (g : Reg4) (d a : SReg) (sh : BitVec 6) (s : State) : Out :=
  issuePlain (.sari g d a sh) (effSari g d a sh) s
def execMin (g : Reg4) (d a b : SReg) (s : State) : Out :=
  issuePlain (.min g d a b) (effMin g d a b) s
def execMinn (g : Reg4) (d a b : SReg) (s : State) : Out :=
  issuePlain (.minn g d a b) (effMinn g d a b) s
def execMax (g : Reg4) (d a b : SReg) (s : State) : Out :=
  issuePlain (.max g d a b) (effMax g d a b) s
def execMaxn (g : Reg4) (d a b : SReg) (s : State) : Out :=
  issuePlain (.maxn g d a b) (effMaxn g d a b) s
def execClz (g : Reg4) (d a : SReg) (s : State) : Out :=
  issuePlain (.clz g d a) (effClz g d a) s
def execCtz (g : Reg4) (d a : SReg) (s : State) : Out :=
  issuePlain (.ctz g d a) (effCtz g d a) s
def execPopc (g : Reg4) (d a : SReg) (s : State) : Out :=
  issuePlain (.popc g d a) (effPopc g d a) s
def execBfx (g : Reg4) (d a : SReg) (sx : Bool) (pos wm1 : BitVec 6) (s : State) : Out :=
  issuePlain (.bfx g d a sx pos wm1) (effBfx g d a sx pos wm1) s
def execBfi (g : Reg4) (d a b : SReg) (pos wm1 : BitVec 6) (s : State) : Out :=
  issuePlain (.bfi g d a b pos wm1) (effBfi g d a b pos wm1) s
def execAdds (g : Reg4) (d a b : SReg) (un : Bool) (s : State) : Out :=
  issuePlain (.adds g d a b un) (effAdds g d a b un) s
def execSel (g : Reg4) (d a b : SReg) (p : Reg4) (s : State) : Out :=
  issuePlain (.sel g d a b p) (effSel g d a b p) s
def execCmp (g : Reg4) (e : Reg4) (a b : SReg) (cc : Cond) (s : State) : Out :=
  issuePlain (.cmp g e a b cc) (effCmp g e a b cc) s
def execCmpi (g : Reg4) (e : Reg4) (a : SReg) (cc : Cond) (imm : BitVec 32) (s : State) : Out :=
  issuePlain (.cmpi g e a cc imm) (effCmpi g e a cc imm) s
def execPand (g : Reg4) (e p1 p2 : Reg4) (s : State) : Out :=
  issuePlain (.pand g e p1 p2) (effPand g e p1 p2) s
def execPor (g : Reg4) (e p1 p2 : Reg4) (s : State) : Out :=
  issuePlain (.por g e p1 p2) (effPor g e p1 p2) s
def execPxor (g : Reg4) (e p1 p2 : Reg4) (s : State) : Out :=
  issuePlain (.pxor g e p1 p2) (effPxor g e p1 p2) s
def execPandn (g : Reg4) (e p1 p2 : Reg4) (s : State) : Out :=
  issuePlain (.pandn g e p1 p2) (effPandn g e p1 p2) s
def execPsetImm (g : Reg4) (e : Reg4) (first : BitVec 8) (count : BitVec 9) (s : State) : Out :=
  issuePlain (.psetImm g e first count) (effPsetImm g e first count) s
def execPsetReg (g : Reg4) (e : Reg4) (a : SReg) (s : State) : Out :=
  issuePlain (.psetReg g e a) (effPsetReg g e a) s
def execPcnt (g : Reg4) (d : SReg) (p : Reg4) (s : State) : Out :=
  issuePlain (.pcnt g d p) (effPcnt g d p) s

end Sys2Proof.Machine
end

