-- ==== Sys2Proof/Machine/StackEngine.lean ====
section
/-! DEFINITION. Stack engines (18, 16 R340): forwarding, selections, the bias table, product-key lookups and row additions. Events read `arg.k`, the cluster, and `arg.i`, the command. A forwarded command holds in `data` its descriptor's eight words and then, in pairs, the virtual and physical numbers of its pages; in `regs` its descriptor's address and its progress. -/

namespace Sys2Proof.Machine

/-! Issue (18 R369, R370). -/

def nmIssue (e : EF) (b : Reg4) (step : BitVec 12) : Effect := fun ι w =>
  ι.guarded e.g w fun w => do
    let base ← ι.ra b
    let ea := base + BitVec.ofInt 64 (step.toInt * ι.n.toNat * 64)
    if ea.toNat % 64 ≠ 0 then ι.failAt cALIGN ea
    else do
      let (_, w) ← ι.produce .stack e [ea] none w
      .ok w
def effNmadd (e : EF) (b : Reg4) (step : BitVec 12) : Effect := nmIssue e b step
def effNmtopk (e : EF) (b : Reg4) (step : BitVec 12) : Effect := nmIssue e b step
def effNmpk (e : EF) (b : Reg4) (step : BitVec 12) : Effect := nmIssue e b step
def effNmbias (e : EF) (b : Reg4) : Effect := nmIssue e b 0
def effNmfence (e : EF) : Effect := fun ι w =>
  ι.guarded e.g w fun w => do
    let (_, w) ← ι.produce .stack e [] none w
    .ok w

/-! Descriptors (18 R373, R378, R380, R382, R384). -/

/-- The fields of a descriptor that its checks found good, as the numbers of its table. -/
inductive NmJob where
  | topk (logit lstr e k rows capl sel cnt list : Nat) (nobias : Bool)
  | bias (src e : Nat) (add : Bool)
  | pk (qry key1 key2 val outv sel dh n c kw vd nq : Nat) (gath : Bool)
  | add (src idx dst nrows nr vd : Nat)
  deriving DecidableEq, Repr
/-- A range of memory: address, bytes, whether the command writes it. -/
abbrev NmRange := Nat × Nat × Bool

def aligned64 (l : List Nat) : Bool := l.all (fun a => a % 64 == 0)
/-- The job that a descriptor names, unless a field is outside its limits, a must-be-zero bit is set or an address is misaligned (18 R373). -/
def nmJob (i : Instr) (d : List Word) : Option NmJob :=
  let w := fun (i : Nat) => (d.getD i 0).toNat
  match i with
  | .nmtopk .. =>
    let lstr := field (w 1) 0 32
    let e := field (w 1) 32 12 + 1
    let k := field (w 1) 44 4 + 1
    let capl := field (w 2) 32 16
    if field (w 1) 49 7 ≠ 0 ∨ field (w 2) 12 4 ≠ 0 ∨ e < k ∨ lstr % 64 ≠ 0 ∨ lstr < 4 * e
        ∨ !aligned64 ([w 0, w 3, w 4] ++ (if capl = 0 then [] else [w 5])) then none
    else some (.topk (w 0) lstr e k (field (w 2) 0 12 + 1) capl (w 3) (w 4) (w 5) ((d.getD 1 0).getLsbD 48))
  | .nmbias .. =>
    if field (w 1) 13 3 ≠ 0 ∨ !aligned64 [w 0] then none else some (.bias (w 0) (field (w 1) 0 12 + 1) ((d.getD 1 0).getLsbD 12))
  | .nmpk .. =>
    let c := w 6
    let n := field c 4 10 + 1
    let cc := field c 14 5 + 1
    let kw := field c 19 5 + 1
    let gath := c.testBit 38
    if field c 39 1 ≠ 0 ∨ n < cc ∨ (!gath ∧ cc * cc < kw) ∨ !aligned64 ([w 0, w 3, w 4, w 5] ++ (if gath then [] else [w 1, w 2])) then none
    else some (.pk (w 0) (w 1) (w 2) (w 3) (w 4) (w 5) (16 * (field c 0 4 + 1)) n cc kw (16 * (field c 24 8 + 1)) (field c 32 6 + 1) gath)
  | .nmadd .. =>
    if field (w 3) 44 4 ≠ 0 ∨ !aligned64 [w 0, w 1, w 2] then none
    else some (.add (w 0) (w 1) (w 2) (field (w 3) 0 24 + 1) (field (w 3) 24 12 + 1) (16 * (field (w 3) 36 8 + 1)))
  | _ => none
/-- The ranges that a job names, the descriptor included (18 R372). -/
def NmJob.ranges (j : NmJob) (ea : Nat) : List NmRange :=
  (match j with
  | .topk logit lstr e k rows capl sel cnt list _ =>
    (List.range rows).map (fun r => (logit + r * lstr, 4 * e, false))
      ++ [(sel, 8 * k * rows, true), (cnt, 4 * e, true)] ++ (if capl = 0 then [] else [(list, 4 * capl * e, true)])
  | .bias src e _ => [(src, 4 * e, false)]
  | .pk qry key1 key2 val outv sel dh n _ kw vd nq gath =>
    [(qry, 8 * dh * nq, false), (val, 4 * vd * n * n, false), (outv, 4 * vd * nq, true), (sel, 8 * kw * nq, !gath)]
      ++ (if gath then [] else [(key1, 4 * dh * n, false), (key2, 4 * dh * n, false)])
  | .add src idx dst nrows nr vd => [(src, 4 * vd * nr, false), (idx, 4 * nr, false), (dst, 4 * vd * nrows, true)])
    ++ [(ea, 64, true)]

/-! Forwarding (18 R371-R374, 16 R340). -/

/-- The status word of an error (18 R374). -/
def nmError (m : Cmd) (code : BitVec 16) (cause : Nat) : Finish :=
  .error code (BitVec.ofNat 64 ((opcodeOf m.instr).toNat + 2 ^ 8 * cause)) (m.regs.headD 0) 0
/-- Translate every page of some ranges; the chunks are kept with their virtual addresses and whether the command writes them. A fault says whether its range is one. -/
def State.nmXlat (k : Nat) (a : Bool → Access) : List NmRange → State → (Except ((Nat × Nat × Nat) × Bool) (List (Nat × Bool × Chunk))) × State
  | [], s => (.ok [], s)
  | (va, n, wr) :: t, s =>
    match s.xlatRange k va n (a wr) false false with
    | (.error f, s) => (.error (f, wr), s)
    | (.ok cs, s) =>
      match State.nmXlat k a t s with
      | (.error f, s) => (.error f, s)
      | (.ok l, s) => (.ok (cs.map (fun c => (va + c.off, wr, c)) ++ l), s)
/-- The page numbers of translated chunks, in pairs. -/
def pageWords (l : List (Nat × Bool × Chunk)) : List Word :=
  (l.map (fun p => [BitVec.ofNat 64 (p.1 / 4096), BitVec.ofNat 64 (p.2.2.pa / 4096)])).flatten
def Cmd.isFence (m : Cmd) : Bool := match m.instr with | .nmfence _ => true | _ => false
/-- The stream's head may be forwarded: its Tokens are complete and, but for a fence, earlier writes of its Context have taken effect (16 R340, 18 R386). -/
def Cluster.mayForward (c : Cluster) (m : Cmd) : Bool := !m.started && c.atHead m && (m.isFence || !c.heldWrites.any (fun h => h.before m))
/-- NM_FORWARD. -/
def State.nmForward (s : State) : State :=
  match s.argCmd with
  | none => s
  | some m =>
    let k := s.arg.k
    if m.eng ≠ .stack ∨ !(s.cluster k).mayForward m then s
    else
      match m.instr, m.delivered with
      | .nmfence _, _ => s.modCluster k (fun c => c.setCmd { m with started := true, notBefore := c.clk + 16 })
      | _, some code => s.finish k m (nmError m (deliveredCode code) 4)
      | _, none =>
        let ea := (m.regs.headD 0).toNat
        match s.engineRead k ea 64 4 with
        | (.error f, s) => s.cmdFault k m 5 f 0 0 0
        | (.ok (bs, bad), s) =>
          let s := if bad then s.errUncorr k m.ctx 5 0 (s.paOf k ea) else s
          let d := (chunks 8 64 bs).map (fun b => (BitVec.ofNat 64 (leNat b) : Word))
          match nmJob m.instr d with
          | none => s.finish k m (nmError m cNM 1)
          | some j =>
            match State.nmXlat k (fun _ => .read) (j.ranges ea) s with
            | (.error f, s) => s.cmdFault k m 5 f.1 (bnat f.2) 0 0
            | (.ok l, s) =>
              if l.any (fun p => !pteNM p.2.2.leaf) then s.finish k m (nmError m cNM 2)
              else if l.any (fun p => p.2.1 && !pteW p.2.2.leaf) then s.finish k m (nmError m cPERM 3)
              else
                match State.nmXlat k (fun wr => if wr then .write else .read) (j.ranges ea) s with
                | (.error f, s) => s.cmdFault k m 5 f.1 (bnat f.2) 0 0
                | (.ok l, s) =>
                  let cs := l.map (·.2.2)
                  s.modCluster k (fun c => ((c.toHbm (chunkLines [cs])).countChunks 3 cs).setCmd { m with started := true, data := d ++ pageWords l, bad := bad })
def execNmForward (s : State) : Out := .next s.nmForward

/-! The memory of a forwarded command. -/

/-- The physical number of a page, from the pairs. -/
def findPage (vpn : Nat) : List Word → Nat
  | v :: p :: t => if v.toNat = vpn then p.toNat else findPage vpn t
  | _ => 0
/-- The pieces of a range within pages. -/
def nmPieces (m : Cmd) : Nat → Nat → Nat → List (Nat × Nat)
  | 0, _, _ => []
  | fuel + 1, va, n =>
    if n = 0 then []
    else
      let len := Nat.min n (4096 - va % 4096)
      (findPage (va / 4096) (m.data.drop 8) * 4096 + va % 4096, len) :: nmPieces m fuel (va + len) (n - len)
def Cmd.pieces (m : Cmd) (va n : Nat) : List (Nat × Nat) := nmPieces m (n / 4096 + 2) va n
/-- Bytes of a command's range, and whether some are marked. -/
def Cluster.nmRead (c : Cluster) (m : Cmd) (va n : Nat) : List Byte × Bool :=
  let ps := m.pieces va n
  ((ps.map (fun p => c.l2Bytes p.1 p.2)).flatten, ps.any (fun p => c.poisoned p.1 p.2))
def Cluster.nmWrite (c : Cluster) (m : Cmd) (va : Nat) (bs : List Byte) (bad : Bool) : Cluster :=
  ((m.pieces va bs.length).foldl (fun (a : Nat × Cluster) p => (a.1 + p.2, a.2.writeHbm p.1 ((bs.drop a.1).take p.2) bad)) (0, c)).2
/-- Elements of 32 bits. -/
def elems32 (bs : List Byte) : List Nat := (chunks 4 bs.length bs).map leNat
/-- Write elements of one sector. -/
def Cluster.nmWrite32 (c : Cluster) (m : Cmd) (va : Nat) (es : List Nat) (bad : Bool) : Cluster := c.nmWrite m va ((es.map (bytesLE 4)).flatten) bad
/-- The first marked 32-byte sector that a range touches. -/
def Cluster.firstMark (c : Cluster) (m : Cmd) (va n : Nat) : Option Nat :=
  ((List.range ((va % 32 + n + 31) / 32)).map (fun i => va / 32 * 32 + 32 * i)).find? (fun a => (c.nmRead m a 32).2)
/-- A record for each marked place that a command read (18 R375). -/
def State.nmRecords (s : State) (k : Nat) (m : Cmd) (vas : List Nat) : State :=
  vas.foldl (fun s va => s.errUncorr k m.ctx 5 0 (modulePa k (((m.pieces va 1).map (·.1)).headD 0))) s
/-- The first marked entry of the bias table's first `e`. -/
def firstBad (bads : SMap Bool) (e : Nat) : Option Nat := (bads.find? (fun p => decide (p.1 < e) && p.2)).map (·.1)
/-- The record of a marked entry of bank `b`: its place in the table, bank 1 behind bank 0. -/
def State.biasRecord (s : State) (k : Nat) (m : Cmd) (b : Bool) (e : Option Nat) : State :=
  match e with
  | some j => s.errUncorr k m.ctx 5 10 (BitVec.ofNat 64 (j + 4096 * bnat b))
  | none => s

/-! Service (01 R32). -/

/-- Readers of a bank. -/
def StackEngine.readers (e : StackEngine) (b : Bool) : Nat := if b then e.readers1 else e.readers0
/-- A cluster's forwarded command that the engine can serve: an `nmbias` only while its bank has no reader (18 R377). -/
def State.nmReady (s : State) (k : Nat) : Option Cmd :=
  let e := s.engine (stackOf k)
  ((s.cluster k).cmds.find? (fun m => decide (m.eng = .stack) && m.started)).filter (fun m => match m.instr with
    | .nmfence _ => false
    | .nmbias .. => e.readers (!e.active) == 0
    | _ => true)
/-- The command that the engine serves is an `nmadd` that it has begun: no other cluster's command splits it (01 R32). -/
def State.nmSplit (s : State) (k : Nat) : Bool :=
  match s.nmReady k with
  | some m => (match m.instr with | .nmadd .. => m.phase == 1 | _ => false)
  | none => false
/-- The cluster whose turn it is: one whose `nmadd` has begun, else the first ready one after the one served last. -/
def State.nmTurn (s : State) (k : Nat) : Bool :=
  let st := stackOf k
  let order := [1, 2, 3, 4].map (fun i => 4 * st + ((s.engine st).last + i) % 4)
  (order.find? s.nmSplit).or (order.find? (fun j => (s.nmReady j).isSome)) == some k
/-- The command that an event serves, with its job; the turn passes to its cluster. -/
def State.nmServe (s : State) : Option (Cmd × NmJob × State) :=
  match s.argCmd with
  | none => none
  | some m =>
    let k := s.arg.k
    if s.nmReady k = some m ∧ s.nmTurn k then
      (nmJob m.instr (m.data.take 8)).map (fun j => (m, j, s.modEngine (stackOf k) (fun e => { e with last := k % 4 })))
    else none

/-! The bias table (18 R376, R377). -/

def StackEngine.bank (e : StackEngine) (b : Bool) : SMap (BitVec 32) := if b then e.bank1 else e.bank0
def StackEngine.bads (e : StackEngine) (b : Bool) : SMap Bool := if b then e.bad1 else e.bad0
def StackEngine.addReader (e : StackEngine) (b : Bool) (up : Bool) : StackEngine :=
  let f := fun (n : Nat) => if up then n + 1 else n - 1
  if b then { e with readers1 := f e.readers1 } else { e with readers0 := f e.readers0 }
def StackEngine.setBank (e : StackEngine) (b : Bool) (v : SMap (BitVec 32)) (bad : SMap Bool) : StackEngine :=
  if b then { e with bank1 := v, bad1 := bad } else { e with bank0 := v, bad0 := bad }
/-- The words BANK and VER of a STAT (18 R378, R380). -/
def Cluster.nmStat (c : Cluster) (m : Cmd) (bank : Bool) (ver : BitVec 32) : Cluster :=
  let at_ := (m.regs.headD 0).toNat + 0x38
  (c.nmWrite m at_ [BitVec.ofNat 8 (bnat bank)] false).nmWrite m (at_ + 4) (bytesLE 4 ver.toNat) false

/-! Ranking (18 R379). -/

/-- One key ranks above another: NaN lowest. -/
def keyAbove (a b : Ex) : Bool :=
  if a.isNan then false else if b.isNan then true else decide (exCmp a b = 1)
/-- Insert behind every entry that is not below it. -/
def rankInsert (x : Nat × Ex) : List (Nat × Ex) → List (Nat × Ex)
  | [] => [x]
  | y :: t => if keyAbove x.2 y.2 then x :: y :: t else y :: rankInsert x t
/-- The `k` indexes of greatest key, in descending order; of equal keys the lower index first. -/
def topIndexes (k : Nat) (l : List (Nat × Ex)) : List Nat :=
  (l.foldl (fun a x => (rankInsert x a).take k) []).map (·.1)

/-! `nmtopk` (18 R379). -/

/-- One row of a selection: the winners with their weights. -/
def selectRow (xs : List Nat) (bias : Nat → Nat) (nobias : Bool) (k : Nat) : List (Nat × Nat) :=
  let sig := fun (x : Nat) => sigmoid (fF32.decode x)
  let key := fun (p : Nat × Nat) =>
    let v := fF32.decode p.1
    if v.isNan then Ex.invalid
    else
      let s := fF32.decode (sig p.1)
      if nobias then s else exAdd .rne s (fF32.decode (bias p.2))
  let ws := topIndexes k (xs.zipIdx.map (fun p => (p.2, key p)))
  ws.zip (normWeights (ws.map (fun w => sig (xs.getD w 0))))
/-- The counts of a command's lists, in one write: a sector that carries none of the marks kept in bit 32 is clean where it is written whole (21 R463). -/
def Cluster.writeCounts (c : Cluster) (m : Cmd) (cnt : Nat) (counts : List Word) : Cluster :=
  let c := c.nmWrite m cnt ((counts.map (fun w => bytesLE 4 (field w.toNat 0 32))).flatten) false
  (counts.zipIdx.filter (fun p => p.1.getLsbD 32)).foldl (fun c p => c.nmWrite m (cnt + 4 * p.2) (bytesLE 4 (field p.1.toNat 0 32)) true) c
/-- The list and count of one winner: a count is kept with its mark in bit 32. -/
def Cluster.selectOne (c : Cluster) (m : Cmd) (list capl r : Nat) (bad : Bool) (counts : List Word) (w : Nat) : Cluster × List Word :=
  let old := (counts.getD w 0).toNat
  let n := field old 0 32
  let c := if n < capl then c.nmWrite m (list + 4 * capl * w + 4 * n) (bytesLE 4 r) bad else c
  (c, setAt counts w (BitVec.ofNat 64 (n + 1 + (if bad ∨ old.testBit 32 then 2 ^ 32 else 0))))
/-- NMTOPK_EXEC: one row; the first takes the bank, the last writes the counts and STAT. -/
def State.nmtopkExec (s : State) : State :=
  match s.nmServe with
  | some (m, .topk logit lstr e k rows capl sel cnt list nobias, s) =>
    let cl := s.arg.k
    let st := stackOf cl
    let (m, s) := if m.phase = 0 then
        let g := s.engine st
        ({ m with phase := 1, regs := [m.regs.headD 0, BitVec.ofNat 64 (bnat g.active), g.version.setWidth 64] ++ List.replicate e 0 },
          s.modEngine st (fun g => g.addReader g.active true))
      else (m, s)
    let b := m.regs.getD 1 0 == 1
    let g := s.engine st
    let c := s.cluster cl
    let mark := c.firstMark m (logit + m.pos * lstr) (4 * e)
    let bs := (c.nmRead m (logit + m.pos * lstr) (4 * e)).1
    let biasMark := if nobias then none else firstBad (g.bads b) e
    let bad := mark.isSome || biasMark.isSome || m.bad
    let ws := selectRow (elems32 bs) (fun i => (SMap.get 0 (g.bank b) i).toNat) nobias k
    let s := (s.nmRecords cl m mark.toList).biasRecord cl m b biasMark
    let c := (s.cluster cl).nmWrite m (sel + 8 * k * m.pos) ((ws.map (fun p => bytesLE 4 p.1 ++ bytesLE 4 p.2)).flatten) bad
    let (c, counts) := ws.foldl (fun (a : Cluster × List Word) p => a.1.selectOne m list capl m.pos bad a.2 p.1) (c, m.regs.drop 3)
    let m := { m with regs := m.regs.take 3 ++ counts, pos := m.pos + 1 }
    if m.pos < rows then s.setCluster cl (c.setCmd m)
    else
      let c := (c.writeCounts m cnt counts).nmStat m b ((m.regs.getD 2 0).setWidth 32)
      ((s.setCluster cl c).modEngine st (fun g => g.addReader b false)).finish cl m .normal
  | _ => s
def execNmtopkExec (s : State) : Out := .next s.nmtopkExec

/-! `nmbias` (18 R381). -/

/-- NMBIAS_COMMIT. -/
def State.nmbiasCommit (s : State) : State :=
  match s.nmServe with
  | some (m, .bias src e add, s) =>
    let cl := s.arg.k
    let st := stackOf cl
    let g := s.engine st
    let i := !g.active
    let c := s.cluster cl
    let vs := elems32 (c.nmRead m src (4 * e)).1
    let marks := (List.range e).map (fun j => (c.nmRead m (src + 4 * j) 4).2)
    let old := fun (j : Nat) => (SMap.get 0 (g.bank g.active) j).toNat
    let oldBad := fun (j : Nat) => SMap.get false (g.bads g.active) j
    let new := fun (j : Nat) => if e ≤ j then old j else if add then add32 .rne (old j) (vs.getD j 0) else vs.getD j 0
    let newBad := fun (j : Nat) => if e ≤ j then oldBad j else m.bad || marks.getD j false || (add && oldBad j)
    let vals := (List.range 4096).foldl (fun a j => SMap.set 0 a j (BitVec.ofNat 32 (new j))) []
    let bads := (List.range 4096).foldl (fun a j => SMap.set false a j (newBad j)) []
    let s := s.modEngine st (fun g => { g.setBank i vals bads with active := i, version := g.version + 1 })
    let s := (s.nmRecords cl m (c.firstMark m src (4 * e)).toList).biasRecord cl m g.active (firstBad ((g.bads g.active).filter (fun p => add || decide (e ≤ p.1))) 4096)
    (s.modCluster cl (fun c => c.nmStat m i (g.version + 1))).finish cl m .normal
  | _ => s
def execNmbiasCommit (s : State) : Out := .next s.nmbiasCommit

/-! `nmpk` (18 R383). -/

/-- A sum as the engine gives it: the default NaN, +0 for an exact zero, else RNE. -/
def nmRound (x : Ex) : Nat := if x.isNan then 0x7FC00000 else if x.isZero then 0 else rne32 x
/-- The exact sum of products of two rows. -/
def dotRows (a b : List Nat) : Ex :=
  (a.zip b).foldl (fun x p => exAdd .rne x (exMul (fF32.decode p.1) (fF32.decode p.2))) (.zero false)
/-- The pairs that a lookup selects for one query. -/
def lookupPairs (q1 q2 : List Nat) (k1 k2 : List (List Nat)) (n c kw : Nat) : List (Nat × Nat) :=
  let a := k1.map (fun r => nmRound (dotRows q1 r))
  let b := k2.map (fun r => nmRound (dotRows q2 r))
  let top := fun (l : List Nat) => topIndexes c (l.zipIdx.map (fun p => (p.2, fF32.decode p.1)))
  let sum := fun (i j : Nat) => nmRound (exAdd .rne (fF32.decode (a.getD i 0)) (fF32.decode (b.getD j 0)))
  let cand := ((top a).map (fun i => (top b).map (fun j => (i * n + j, sum i j)))).flatten.foldl
    (fun (l : SMap Nat) p => SMap.put l p.1 p.2) []
  let ranked := topIndexes kw (cand.map (fun p => (p.1, fF32.decode p.2)))
  ranked.zip (normWeights (ranked.map (fun i => sigmoid (fF32.decode (SMap.get 0 cand i)))))
/-- One sector of a query's output row, from the value rows as they stand: rows are multiples of 64 bytes at multiples of 64, so an element that the command has written is read by later elements only through whole sectors. `seen` are the marked places of the values. -/
def Cluster.lookupSector (c : Cluster) (m : Cmd) (val out vd : Nat) (used : List (Nat × Nat)) (bad : Bool) (seen : List Nat) (j : Nat) : Cluster × List Nat :=
  let rows := used.map (fun p => (fF32.decode p.2, c.nmRead m (val + 4 * vd * p.1 + 32 * j) 32))
  let es := (List.range 8).map (fun d =>
    nmRound (rows.foldl (fun a r => exAdd .rne a (exMul r.1 (fF32.decode ((elems32 r.2.1).getD d 0)))) (.zero false)))
  let marks := used.filterMap (fun p => c.firstMark m (val + 4 * vd * p.1 + 32 * j) 32)
  (c.nmWrite32 m (out + 32 * j) es (bad || !marks.isEmpty), seen ++ marks)
/-- NMPK_EXEC: one query; the last writes RFLAG and RCNT. -/
def State.nmpkExec (s : State) : State :=
  match s.nmServe with
  | some (m, .pk qry key1 key2 val outv sel dh n c kw vd nq gath, s) =>
    let k := s.arg.k
    let cl := s.cluster k
    let q := m.pos
    let read := if gath then [(sel + 8 * kw * q, 8 * kw)] else [(qry + 8 * dh * q, 8 * dh), (key1, 4 * dh * n), (key2, 4 * dh * n)]
    let elems := fun (i : Nat) => elems32 (cl.nmRead m (read.getD i (0, 0)).1 (read.getD i (0, 0)).2).1
    let pairs := if gath then (chunks 2 kw (elems 0)).map (fun p => (p.getD 0 0, p.getD 1 0))
      else lookupPairs ((elems 0).take dh) ((elems 0).drop dh) (chunks dh n (elems 1)) (chunks dh n (elems 2)) n c kw
    let marks := read.filterMap (fun r => cl.firstMark m r.1 r.2)
    let pairBad := !marks.isEmpty || m.bad
    let none_ := fun (i : Nat) => decide (i = 0xFFFFFFFF)
    let beyond := pairs.zipIdx.filter (fun p => !none_ p.1.1 && decide (n * n ≤ p.1.1))
    let used := pairs.filter (fun p => !none_ p.1 && decide (p.1 < n * n))
    let cl := if gath then cl else cl.nmWrite m (sel + 8 * kw * q) ((pairs.map (fun p => bytesLE 4 p.1 ++ bytesLE 4 p.2)).flatten) pairBad
    let (cl, vmarks) := (List.range (vd / 8)).foldl (fun a j => a.1.lookupSector m val (outv + 4 * vd * q) vd used pairBad a.2 j) (cl, [])
    let s := (s.setCluster k cl).nmRecords k m (marks ++ vmarks)
    let cl := s.cluster k
    let rBad := (gath && pairBad) || m.regs.getD 3 0 == 1
    let rflag := beyond.foldl (fun a p => a ||| 2 ^ p.2) (m.regs.getD 1 0).toNat
    let rcnt := Nat.min 65535 ((m.regs.getD 2 0).toNat + beyond.length)
    let m := { m with regs := [m.regs.headD 0, BitVec.ofNat 64 rflag, BitVec.ofNat 64 rcnt, BitVec.ofNat 64 (bnat rBad)], pos := q + 1, phase := 1 }
    if m.pos < nq then s.setCluster k (cl.setCmd m)
    else (s.setCluster k (cl.nmWrite m ((m.regs.headD 0).toNat + 0x38) (bytesLE 6 (rflag + 2 ^ 32 * rcnt)) rBad)).finish k m .normal
  | _ => s
def execNmpkExec (s : State) : Out := .next s.nmpkExec

/-! `nmadd` (18 R385). -/

/-- What the additions have come to: the cluster, NF, RCNT, the index of the row in hand and whether it was marked, whether marked data has fed the command, and the marked places that this event has met. -/
structure NmAdd where
  cl : Cluster
  nf : Bool
  rcnt : Nat
  idx : Nat
  idxBad : Bool
  bad : Bool
  marked : List Nat
/-- One sector of an addend row: its source, its destination. -/
def NmAdd.sector (a : NmAdd) (m : Cmd) (sv dv : Nat) : NmAdd :=
  let xs := elems32 (a.cl.nmRead m dv 32).1
  let ys := elems32 (a.cl.nmRead m sv 32).1
  let zs := (xs.zip ys).map (fun p => add32 .rne p.1 p.2)
  let special := fun (v : Nat) => field v 23 8 == 255
  let marks := (a.cl.firstMark m dv 32).toList ++ (a.cl.firstMark m sv 32).toList
  { a with
    cl := a.cl.nmWrite32 m dv zs (a.idxBad || m.bad || !marks.isEmpty), nf := a.nf || xs.any special || ys.any special || zs.any special
    bad := a.bad || !marks.isEmpty, marked := a.marked ++ marks }
/-- The index of addend row `r`, read as it stands then; one at or beyond the table's end is counted. -/
def NmAdd.index (a : NmAdd) (m : Cmd) (idx nrows r : Nat) : NmAdd :=
  let i := leNat (a.cl.nmRead m (idx + 4 * r) 4).1
  let mark := (a.cl.firstMark m (idx + 4 * r) 4).toList
  { a with
    idx := i, idxBad := !mark.isEmpty, bad := a.bad || !mark.isEmpty, marked := a.marked ++ mark
    rcnt := if i ≠ 0xFFFFFFFF ∧ nrows ≤ i then Nat.min 65535 (a.rcnt + 1) else a.rcnt }
/-- Sector `u` of the command, `w` of them to a row: the first of a row reads its index. -/
def NmAdd.unit (a : NmAdd) (m : Cmd) (src idx dst nrows w u : Nat) : NmAdd :=
  let a := if u % w = 0 then a.index m idx nrows (u / w) else a
  if nrows ≤ a.idx then a else a.sector m (src + 32 * u) (dst + 32 * (w * a.idx + u % w))
/-- Progress that an `nmadd` keeps in its command. -/
def NmAdd.ofCmd (c : Cluster) (m : Cmd) : NmAdd :=
  let r := fun (i : Nat) => (m.regs.getD i 0).toNat
  { cl := c, nf := r 1 == 1, rcnt := r 2, idx := r 3, idxBad := r 4 == 1, bad := r 5 == 1 || m.bad, marked := [] }
def NmAdd.toCmd (a : NmAdd) (m : Cmd) (pos : Nat) : Cmd :=
  { m with
    phase := 1, pos := pos
    regs := [m.regs.headD 0, BitVec.ofNat 64 (bnat a.nf), BitVec.ofNat 64 a.rcnt, BitVec.ofNat 64 a.idx, BitVec.ofNat 64 (bnat a.idxBad), BitVec.ofNat 64 (bnat a.bad)] }
/-- NMADD_EXEC: `arg.j` sectors, or with 0 all that are left (16 R341); after the last, NF and RCNT. -/
def State.nmaddExec (s : State) : State :=
  match s.nmServe with
  | some (m, .add src idx dst nrows nr vd, s) =>
    let k := s.arg.k
    let w := vd / 8
    let n := if s.arg.j = 0 ∨ nr * w ≤ m.pos + s.arg.j then nr * w - m.pos else s.arg.j
    let a := (List.range n).foldl (fun a i => a.unit m src idx dst nrows w (m.pos + i)) (NmAdd.ofCmd (s.cluster k) m)
    if m.pos + n < nr * w then (s.setCluster k (a.cl.setCmd (a.toCmd m (m.pos + n)))).nmRecords k m a.marked
    else
      let at_ := (m.regs.headD 0).toNat + 0x38
      let c := (a.cl.nmWrite m at_ [BitVec.ofNat 8 (bnat a.nf)] a.bad).nmWrite m (at_ + 4) (bytesLE 2 a.rcnt) a.bad
      ((s.setCluster k c).nmRecords k m a.marked).finish k m .normal
  | _ => s
def execNmaddExec (s : State) : Out := .next s.nmaddExec

/-- NMFENCE_FINISH (18 R386): 16 clk after its predecessors. -/
def State.nmfenceFinish (s : State) : State :=
  match s.argCmd with
  | some m =>
    match m.instr with
    | .nmfence _ => if m.started ∧ m.notBefore ≤ (s.cluster s.arg.k).clk then s.finish s.arg.k m .normal else s
    | _ => s
  | none => s
def execNmfenceFinish (s : State) : Out := .next s.nmfenceFinish

/-! Whole steps: each instruction as the issue of a plain bundle that holds it. -/

def execNmadd (e : EF) (b : Reg4) (step : BitVec 12) (s : State) : Out :=
  issuePlain (.nmadd e b step) (effNmadd e b step) s
def execNmtopk (e : EF) (b : Reg4) (step : BitVec 12) (s : State) : Out :=
  issuePlain (.nmtopk e b step) (effNmtopk e b step) s
def execNmpk (e : EF) (b : Reg4) (step : BitVec 12) (s : State) : Out :=
  issuePlain (.nmpk e b step) (effNmpk e b step) s
def execNmbias (e : EF) (b : Reg4) (s : State) : Out :=
  issuePlain (.nmbias e b) (effNmbias e b) s
def execNmfence (e : EF) (s : State) : Out :=
  issuePlain (.nmfence e) (effNmfence e) s

end Sys2Proof.Machine
end

