-- ==== Sys2Proof/Machine/Remote.lean ====
section
/-! DEFINITION. Remote operations at their origin (17 R345-R347, R358-R368): Handles, issue, sending, replies; `hwait` and `htest`. Events read `arg.k`, the cluster, and `arg.i`, a command or a place in the inbox. -/

namespace Sys2Proof.Machine

/-! Handles (17 R361). -/

/-- One more operation is produced. -/
def Handle.produce (t : Handle) : Handle :=
  if t.st.pending then { t with st := .issued, localLeft := t.localLeft + 1, left := t.left + 1, ops := t.ops + 1 }
  else { Handle.free with st := .issued, localLeft := 1, left := 1, ops := 1 }
/-- One operation is locally done. -/
def Handle.opLocal (t : Handle) : Handle :=
  { t with localLeft := t.localLeft - 1, st := if t.localLeft ≤ 1 ∧ t.st = .issued then .localDone else t.st, acq := t.acq && decide (1 < t.localLeft) }
/-- One more operation is produced, and it acquires. -/
def Handle.produceAcq (t : Handle) : Handle := { t.produce with acq := true }
/-- A packet fails. -/
def Handle.packetFail (t : Handle) (code : BitVec 16) (off : Nat) : Handle :=
  let t := if t.ecount = 0 ∨ off < t.foff.toNat then { t with code := code, foff := BitVec.ofNat 64 off } else t
  { t with ecount := if t.ecount = BitVec.allOnes 32 then t.ecount else t.ecount + 1 }
/-- One operation is finished. -/
def Handle.opDone (t : Handle) (failed : Bool) : Handle :=
  let e := t.errs || failed
  { t with left := t.left - 1, errs := e, acq := t.acq && decide (1 < t.left), st := if t.left ≤ 1 then (if e then .error else .remoteDone) else t.st }
def Context.modHnd (x : Context) (h : Nat) (f : Handle → Handle) : Context := if h = 0 then x else x.setHnd h (f (x.hnd h))
/-- An operation is produced under a Handle; a ticket of an earlier `gbar` under it stands no longer (15 R323). -/
def Context.produceHnd (x : Context) (h : Nat) (acquires : Bool) : Context :=
  { x.modHnd h (if acquires then Handle.produceAcq else Handle.produce) with tickets := SMap.del x.tickets h }

/-! Issue (17 R358-R360, R365, R366). -/

def newRemote (hnd : Nat) (ref : Word) (off len : Nat) (va : Word) (dest : Option SReg) : Remote :=
  { hnd := hnd, peer := none, peerIdx := field ref.toNat 0 12, win := field ref.toNat 12 12, off := off, len := len, localVa := va, sent := 0,
    out := 0, failed := 0, dest := dest, allSent := false, locDone := false, done := false }
/-- Unfinished atomics under a Handle. -/
def Cluster.atomicsUnder (cl : Cluster) (c h : Nat) : Bool :=
  cl.cmds.any (fun m => m.ctx == c && (match m.instr, m.remote with
    | .ramo _, some r => r.hnd == h
    | .rcas _, some r => r.hnd == h
    | _, _ => false))
/-- Wait for earlier acquiring operations (16 R336). -/
def Issue.acquireGate (ι : Issue) : Except Stop Unit :=
  if (ι.cl.acquiring ι.c).isEmpty then .ok () else .error (.block .handle .network (ι.cl.acquiring ι.c) none)
/-- The base of each local page that an operation touches. -/
def pageBases (va : Nat) (cs : List Chunk) : List Word := cs.map (fun c => BitVec.ofNat 64 (c.pa - (va + c.off) % 4096))
/-- `put`, `get` and `acc`. -/
def transferOp (f : RF) (isGet : Bool) (maxType : Nat) : Effect := fun ι w =>
  ι.guarded f.e.g w fun w => do
    ι.raReady [f.b, f.b + 1, f.b + 2]
    let l := ι.x.areg (f.b + 2)
    let len := field l.toNat 0 24
    if len = 0 ∨ len % 4 ≠ 0 ∨ maxType < field l.toNat 24 4 ∨ field l.toNat 28 4 ≠ 0 ∨ (isGet ∧ field l.toNat 32 32 ≠ 0) then ι.fail cILLEGAL else do
    let a ← ι.ra f.b
    let ref ← ι.ra (f.b + 1)
    let l ← ι.ra (f.b + 2)
    let adv : Int := f.s.toInt * ι.n.toNat * len
    let va := a + BitVec.ofInt 64 adv
    let off := (((field ref.toNat 24 40 : Nat) + adv) % 2 ^ 40).toNat
    if va.toNat % 4 ≠ 0 then ι.failAt cALIGN va
    else if off % 4 ≠ 0 then ι.failAt cALIGN (BitVec.ofNat 64 off)
    else do
      ι.acquireGate
      if ι.cl.atomicsUnder ι.c f.n.toNat then .error (.block .engine .network [] none)
      else
        let walk := fun (s : State) => s.xlatRange ι.k va.toNat len (if isGet then .write else .read) false true
        match walk w.st with
        | (.error (cause, level, va), _) => .error (.fault va (ringInfo 0 cause level (bnat isGet) ι.c 0 0) (fun s => (walk s).2))
        | (.ok cs, st) => do
          let (id, w) ← ι.produce .network f.e [l] (some (newRemote f.n.toNat ref off len va none)) { w with st := st }
          .ok (w.modCl ι (fun cl =>
            let cl := { cl with cmds := cl.cmds.map (fun (m : Cmd) => if m.id = id then { m with data := pageBases va.toNat cs } else m) }
            cl.modContext ι.c (fun x => x.produceHnd f.n.toNat (acquires ι.instr))))
def effPut (f : RF) : Effect := transferOp f false 0
def effGet (f : RF) : Effect := transferOp f true 0
def effAcc (f : RF) : Effect := transferOp f false 1
/-- `ramo` and `rcas`: `regs` gives v and c. -/
def atomicOp (f : RaF) (regs : Issue → Except Stop (List Word)) : Effect := fun ι w =>
  ι.guarded f.e.g w fun w => do
    let ref ← ι.rs f.a
    let vs ← regs ι
    ι.ws f.d
    let off := field ref.toNat 24 40
    let n := if f.w then 8 else 4
    if off % n ≠ 0 then ι.failAt cALIGN (BitVec.ofNat 64 off)
    else do
      ι.acquireGate
      if (ι.x.hnd f.n.toNat).st.pending then .error (.block .engine .network [] none)
      else do
        let dest := if f.d = 0 then none else some f.d
        let (id, w) ← ι.produce .network f.e vs (some (newRemote f.n.toNat ref off n 0 dest)) w
        .ok (w.modX ι (fun x =>
          { x.produceHnd f.n.toNat (acquires ι.instr) with sWait := if f.d = 0 then x.sWait else SMap.put x.sWait f.d.toNat id }))
def effRamo (f : RaF) : Effect := fun ι w =>
  ι.guarded f.e.g w fun w =>
    if f.x = 1 ∧ f.w then ι.fail cILLEGAL
    else atomicOp f (fun ι => do
      let v ← ι.rs f.d
      .ok [v, 0]) ι w
def effRcas (f : RaF) : Effect := atomicOp f (fun ι => do
  let c ← ι.rs f.d
  let v ← ι.rs f.x
  .ok [v, c])

/-! `hwait` and `htest` (17 R367, R368). -/

def hndSet (a : Word) : List Nat := (List.range 32).filter (fun h => h ≠ 0 && a.getLsbD h)
def hndList (h1 h2 h3 h4 : Hnd) : List Nat := [h1.toNat, h2.toNat, h3.toNat, h4.toNat].filter (· ≠ 0)
/-- Wait for the unfinished operations of some Handles, or with LOC for those not locally done. -/
def waitHandles (ι : Issue) (loc : Bool) (hs : List Nat) (w : Work) : Res :=
  let on := (ι.cl.cmds.filter (fun m => m.ctx == ι.c && (match m.remote with
    | some r => hs.contains r.hnd && (if loc then !r.locDone else !r.done)
    | none => false))).map (·.id)
  if on.isEmpty then .ok w else .error (.block .handle .network on none)
def effHwaitImm (g : Reg4) (loc : Bool) (h1 h2 h3 h4 : Hnd) : Effect := fun ι w =>
  ι.guarded g w fun w => waitHandles ι loc (hndList h1 h2 h3 h4) w
def effHwaitReg (g : Reg4) (loc : Bool) (a : SReg) : Effect := fun ι w =>
  ι.guarded g w fun w => do
    let v ← ι.rs a
    waitHandles ι loc (hndSet v) w
def handlesReady (x : Context) (loc : Bool) (hs : List Nat) : Bool :=
  hs.all (fun h => !(x.hnd h).st.pending || (loc && decide ((x.hnd h).st = .localDone)))
def effHtestPred (g : Reg4) (loc : Bool) (e : Reg4) (h1 h2 h3 h4 : Hnd) : Effect := fun ι w =>
  ι.guarded g w fun w => ι.putPair e (allLanes (handlesReady ι.x loc (hndList h1 h2 h3 h4))) w
def effHtestPredReg (g : Reg4) (loc : Bool) (e : Reg4) (a : SReg) : Effect := fun ι w =>
  ι.guarded g w fun w => do
    let v ← ι.rs a
    ι.putPair e (allLanes (handlesReady ι.x loc (hndSet v))) w
/-- The first 8 bytes of R364. h0 names no Handle and reads as FREE. -/
def Handle.word (t : Handle) : Word := BitVec.ofNat 64 (t.st.code + 2 ^ 16 * t.code.toNat + 2 ^ 32 * t.ecount.toNat)
def Context.hndOf (x : Context) (h : Hnd) : Handle := if h = 0 then Handle.free else x.hnd h.toNat
def effHtestScalar (g : Reg4) (d : SReg) (h : Hnd) : Effect := fun ι w =>
  ι.guarded g w fun w => ι.putS d (ι.x.hndOf h).word 1 w
def effHtestOff (g : Reg4) (d : SReg) (h : Hnd) : Effect := fun ι w =>
  ι.guarded g w fun w => ι.putS d (keepBits (ι.x.hndOf h).foff 0 40) 1 w

/-! Progress at the origin. -/

/-- The origin of a returned value (21 R425). -/
def Cmd.origin (m : Cmd) (h : Nat) : Origin := { pc := m.pc, iter := m.iter, opcode := opcodeOf m.instr, handle := h, addr := 0 }
/-- A precise S-slot trap that comes to a blocked Group barrier issue. -/
def Context.rejected (x : Context) (code : BitVec 16) (now : Nat) : Context :=
  { x with trapPending := some (Trap.slotTrap code 0 x.iter), st := if x.st = .blocked then .ready else x.st
           release := if x.st = .blocked then now else x.release }
/-- The arrival of a `gbar` has failed: it has no ticket to wait on, and its issue traps (15 R322, assumption 20). -/
def Context.arrivalFailed (x : Context) (m : Cmd) (now : Nat) : Context :=
  match m.instr, m.remote with
  | .gbar .., some r => if x.live ∧ !m.left ∧ x.pc = m.pc ∧ x.iter = m.iter then x.rejected (x.hnd r.hnd).code now else x
  | _, _ => x
/-- An operation is locally done. -/
def Cluster.opLocal (c : Cluster) (m : Cmd) : Cluster :=
  match m.remote with
  | some r =>
    if r.locDone then c
    else (c.setCmd { m with remote := some { r with locDone := true } }).modContext m.ctx (fun x => x.modHnd r.hnd Handle.opLocal)
  | none => c
/-- An operation is finished (17 R361): its Handle, the register that awaits it, its Token, and the releases that wait for it. -/
def Cluster.opDone (c : Cluster) (m : Cmd) (f : Finish) : Cluster :=
  match m.remote with
  | none => c
  | some r =>
    let failed := decide (r.failed ≠ 0)
    let c := c.modContext m.ctx (fun x =>
      let x := x.modHnd r.hnd (fun t => ((if r.locDone then t else t.opLocal).opDone failed))
      let x := if decide (r.hnd ≠ 0) && decide ((x.hnd r.hnd).st = .error) then { x with herr := true } else x
      let x := if failed then x.arrivalFailed m c.clk else x
      match r.dest with
      | none => x
      | some d =>
        let x := { x with sWait := SMap.del x.sWait d.toNat }
        if failed then { x with sBad := SMap.put x.sBad d.toNat (m.origin r.hnd) } else x)
    let c := c.finish m f
    c.performHeld c.heldWrites.length
/-- One packet of an operation is finished, or failed with a code at an offset. -/
def Cluster.opPacket (c : Cluster) (m : Cmd) (fail : Option (BitVec 16 × Nat)) : Cluster :=
  match m.remote with
  | none => c
  | some r =>
    let r := { r with out := r.out - 1, failed := r.failed + bnat fail.isSome }
    let c := match fail with
      | some (code, off) => c.modContext m.ctx (fun x => x.modHnd r.hnd (fun t => t.packetFail code off))
      | none => c
    let m := { m with remote := some r }
    let c := c.setCmd m
    if r.allSent ∧ r.out = 0 then c.opDone m .normal else c
/-- A rejected Group barrier read gives its blocked issue a precise trap (15 R322); the read is gone. -/
def Cluster.rejectPoll (c : Cluster) (m : Cmd) (code : BitVec 16) : Cluster :=
  let x := c.context m.ctx
  let c := { c with cmds := c.cmds.filter (fun q => q.id ≠ m.id) }
  if x.live ∧ x.pc = m.pc ∧ x.iter = m.iter then c.setContext m.ctx (x.rejected code c.clk) else c
/-- An operation sends nothing more and fails: one failed packet at an offset. -/
def Cluster.opRefuse (c : Cluster) (m : Cmd) (code : BitVec 16) (off : Nat) (f : Finish) : Cluster :=
  match m.remote with
  | none => c
  | some r => if m.isPoll then c.rejectPoll m code else
    let m := { m with queued := false, started := true, remote := some { r with allSent := true, failed := r.failed + 1 } }
    let c := (c.setCmd m).modContext m.ctx (fun x => x.modHnd r.hnd (fun t => t.packetFail code off))
    if r.out = 0 then c.opDone m f else c

/-! Sending (17 R353, R358, R362, 20 R417, R418). -/

/-- A free request place of a Context. -/
def Cluster.freePlace (c : Cluster) (ctx : Nat) : Option Nat :=
  ((List.range 256).map (· + 256 * ctx)).find? (fun n => (SMap.find c.places n).isNone)
/-- The Selvedge entry of window `w` (17 R349). -/
def Cluster.selOf (c : Cluster) (w : Nat) : Option Sel := c.sel.find? (fun e => e.win == w)
def Sel.valid (e : Sel) : Bool := recField e.desc 134 1 == 1
/-- The tag that a packet to window `w` carries: the FGEN of this cluster's own Window of that number, 0 where none is exposed (17 R353, R356). -/
def Cluster.tagOf (c : Cluster) (w : Nat) : BitVec 8 :=
  match (c.selOf w).filter (·.valid) with | some e => e.fgen | none => 0
/-- The entry of the OSEQ table for a cluster of a device. -/
def Cluster.oseqAt (c : Cluster) (dev cl : Nat) : Nat := field c.ordbase.toNat 18 16 * 2 ^ 18 + 4 * (48 * dev + cl)
/-- Take the next OSEQ toward a cluster. -/
def Cluster.takeOseq (c : Cluster) (dev cl : Nat) : BitVec 16 × Cluster :=
  let a := c.oseqAt dev cl
  let v := leNat (c.l2Bytes a 2)
  (BitVec.ofNat 16 v, c.writeL2 a (bytesLE 2 (v + 1)) false)
/-- Some ordered request to a cluster waits for its resend. -/
def Cluster.resending (c : Cluster) (dev cl : Nat) : Bool :=
  c.places.any (fun p => p.2.retry.isSome && p.2.pkt.ordered && p.2.pkt.ddev == dev && p.2.pkt.dcl == cl)
/-- A request as cluster `k` builds it. -/
def request (s : State) (k : Nat) (kind : BitVec 8) (peer : Nat × Nat × BitVec 12) (win off elems : Nat) (ordered : Bool) (arg : BitVec 32)
    (payload : List Byte) (pois : Bool) : Packet :=
  { kind := kind, ordered := ordered, rpl := false, pois := pois, sdev := (s.cluster k).device.toNat, scl := k, ddev := peer.1, dcl := peer.2.1
    hop := 0, via := peer.1, ph := false, rtag := 0, win := win, wid := peer.2.2, oseq := 0, off := off, elems := elems, arg := arg
    payload := payload, tag := (s.cluster k).tagOf win, acq := false, adm := false }
/-- Put a request into a place and send it. -/
def State.sendRequest (s : State) (k ctx id : Nat) (p : Packet) (place : Nat) : State :=
  let c := s.cluster k
  let (o, c) := if p.ordered then c.takeOseq p.ddev p.dcl else (0, c)
  let p := { p with rtag := 256 * ctx + place % 256, oseq := o, no := c.nextReq }
  (s.setCluster k { c with places := SMap.put c.places place { cmd := id, pkt := p, retry := none }, nextReq := c.nextReq + 1 }).netSend p
/-- Whether requests to a device can leave (20 R413). -/
def State.reachable (s : State) (dev : Nat) : Bool := decide (dev = s.deviceNo) || routeValid (s.route dev)

/-- The scope of the release that an operation carries before it leaves (16 R335, 12 R284, R285, 15 R319). -/
def releaseScope : Instr → Option (BitVec 4)
  | .put f => if f.order = .rel then some f.scope else none
  | .acc f => if f.order = .rel then some f.scope else none
  | .ramo f => if f.order = .rel then some f.scope else none
  | .rcas f => if f.order = .rel then some f.scope else none
  | .spawnRemote .. => some 6
  | .joinParent .. => some 6
  | .gbar _ sc _ _ => some sc
  | .gbarArrive _ sc _ _ _ _ => some sc
  | _ => none
/-- A Group barrier read releases nothing. -/
def Cmd.release (m : Cmd) : Option (BitVec 4) := if m.isPoll then none else releaseScope m.instr
/-- What a command still waits for before it leaves: earlier local joins (12 R285), earlier writes that are held, earlier remote operations in the scope of its release (16 R335, R339). -/
def State.departWait (s : State) (k : Nat) (m : Cmd) (r : Remote) : Bool :=
  let held := (s.cluster k).heldWrites.any (fun h => h.before m
    && (m.release.isSome || (readsSource m.instr && (m.localRange r).any (fun q => h.touches q.1 q.2))))
  let own := (s.targetOf k r).map (fun p => (p.1, p.2.1))
  let earlier := match m.release with
    | some sc => (s.remoteOps k m.ctx sc own (fun q r => !r.done && decide (q.id < m.id) && !q.isPoll)).isEmpty
    | none => true
  held || (s.cluster k).joinsBefore m || !earlier
/-- The pieces of a local range, from the page bases that the issue translated. -/
def localPieces (pages : List Word) (va off n : Nat) : List (Nat × Nat) :=
  let pos := va % 4096 + off
  let first := Nat.min n (4096 - pos % 4096)
  let page := fun (i : Nat) => (pages.getD i 0).toNat
  if first = n then [(page (pos / 4096) + pos % 4096, n)]
  else [(page (pos / 4096) + pos % 4096, first), (page (pos / 4096 + 1), n - first)]
/-- Bytes of the next packet of a transfer. -/
def Remote.nextLen (r : Remote) : Nat := Nat.min (256 - (r.off + r.sent) % 256) (r.len - r.sent)
/-- The next packet of an operation, its bytes counted in `len`, the cluster after its source read, and the bytes it moves. -/
def nextPacket (s : State) (k : Nat) (m : Cmd) (r : Remote) (peer : Nat × Nat × BitVec 12) : Packet × Cluster × Nat :=
  let c := s.cluster k
  let n := r.nextLen
  let off := (r.off + r.sent) % 2 ^ 40
  let ps := localPieces m.data r.localVa.toNat r.sent n
  let sword : BitVec 32 := (m.regs.headD 0).extractLsb' 32 32
  let source := fun (kind : BitVec 8) (ord : Bool) =>
    let c := c.writeBack ((ps.map (fun p => linesOf p.1 p.2)).flatten)
    let bs := (ps.map (fun p => c.l2Bytes p.1 p.2)).flatten
    (request s k kind peer r.win off (n / 4) ord sword bs (ps.any (fun p => c.poisoned p.1 p.2)), c, n)
  let single := fun (kind : BitVec 8) (elems : Nat) (ord : Bool) (arg : BitVec 32) (pay : List Byte) =>
    (request s k kind peer r.win r.off elems ord arg pay false, c, Nat.max 1 r.len)
  match m.instr with
  | .put f => source kPUT f.ord
  | .acc f => source (if field (m.regs.headD 0).toNat 24 4 = 0 then kACCF else kACCI) f.ord
  | .get f =>
    ({ request s k kGETREQ peer r.win off (n / 4) f.ord 0 [] false with acq := decide (f.order = .acq ∨ f.order = .sc) }, c, n)
  | .ramo f => single kRAMO 2 f.ord ((wordOf m.instr).extractLsb' 0 12 |>.setWidth 32) (bytesLE 8 (m.regs.headD 0).toNat)
  | .rcas f => single kRCAS 4 f.ord ((wordOf m.instr).extractLsb' 0 8 |>.setWidth 32)
      (bytesLE 8 (m.regs.headD 0).toNat ++ bytesLE 8 (m.regs.getD 1 0).toNat)
  | .spawnRemote .. => single kSPAWN 16 false 0 ((m.data.map (fun w => bytesLE 8 w.toNat)).flatten)
  | .joinParent .. => single kJOIN 1 false 0 []
  | .gbarWait .. => ({ request s k kGETREQ peer r.win r.off 2 false 0 [] false with acq := true }, c, 8)
  | .gbar .. => if m.isPoll then ({ request s k kGETREQ peer r.win r.off 2 false 0 [] false with acq := true }, c, 8)
    else single kARRIVE 2 false 0 (bytesLE 8 (m.regs.headD 0).toNat)
  | _ => single kARRIVE 2 false 0 (bytesLE 8 (m.regs.headD 0).toNat)
/-- The command's ORD field. -/
def orderedOp : Instr → Bool
  | .put f => f.ord
  | .get f => f.ord
  | .acc f => f.ord
  | .ramo f => f.ord
  | .rcas f => f.ord
  | _ => false
/-- A remote operation that may send now. -/
def State.maySend (s : State) (k : Nat) (m : Cmd) (r : Remote) : Bool :=
  !r.allSent && m.waits.isEmpty && (if m.queued then (s.cluster k).atHead m else true) && (m.started || !s.departWait k m r)
/-- The release of a command writes back every dirty line (16 R334, R335): at scope stack or wider, and for a Group barrier arrival at any. -/
def Cmd.writesBack (m : Cmd) : Bool :=
  match m.release with
  | some sc => decide (3 ≤ sc.toNat) || (match m.instr with | .gbar .. | .gbarArrive .. => true | _ => false)
  | none => false
/-- Send the next packet of an operation whose peer is known. -/
def State.sendNext (s : State) (k : Nat) (m : Cmd) (r : Remote) (peer : Nat × Nat × BitVec 12) : State :=
  let c := s.cluster k
  if !s.reachable peer.1 then s.setCluster k (c.opRefuse m cLINK (r.off + r.sent) .normal)
  else
    match c.freePlace m.ctx with
    | none => s
    | some n =>
      if orderedOp m.instr && c.resending peer.1 peer.2.1 then s
      else
        let c := if m.writesBack && !m.started then c.writeBackAll else c
        let s := s.setCluster k c
        let (p, c, len) := nextPacket s k m r peer
        let all := decide (r.len ≤ r.sent + len)
        let r := { r with peer := some peer, sent := r.sent + len, out := r.out + 1, allSent := all }
        let m := { m with started := true, queued := m.queued && !all, remote := some r }
        let c := c.setCmd m
        let early := (match m.instr with | .put _ | .acc _ | .spawnRemote .. => true | _ => false)
        let c := if all && early then c.opLocal m else c
        (s.setCluster k c).sendRequest k m.ctx m.id p n
/-- A remote operation goes on: its peer entry is read first (17 R347). -/
def State.sendOp (s : State) (k : Nat) (m : Cmd) (r : Remote) : State :=
  if !s.maySend k m r then s
  else
    match m.delivered, r.peer with
    | some code, _ => s.modCluster k (fun c => c.opRefuse m (deliveredCode code) r.off .normal)
    | none, some p => s.sendNext k m r p
    | none, none =>
      match s.readPeer k r.peerIdx with
      | (.error f, s) => s.cmdFault k m 4 f 0 0 0
      | (.ok none, s) => s.modCluster k (fun c => c.opRefuse m cPEER r.off .normal)
      | (.ok (some p), s) => s.sendNext k m r p

/-! Replies (17 R361-R363). -/

/-- The reply at a place of the inbox of cluster `arg.k`, with the place it answers. -/
def State.takeReply (s : State) (kind : BitVec 8) : Option (Packet × Place × State) :=
  let c := s.cluster s.arg.k
  match c.inbox[s.arg.i]? with
  | none => none
  | some p =>
    if p.kind ≠ kind then none
    else
      let c1 := { c with inbox := c.inbox.eraseIdx s.arg.i }
      match SMap.find c.places p.rtag with
      | none => some (p, { cmd := c.nextCmd, pkt := p, retry := none }, s.setCluster s.arg.k c1)
      | some pl => some (p, pl, s.setCluster s.arg.k (if kind = kENACK then c1 else { c1 with places := SMap.del c1.places p.rtag }))
/-- The failure that a reply means for its packet. -/
def replyFail (p : Packet) (off : Nat) : Option (BitVec 16 × Nat) :=
  if p.kind = kFAIL then some (p.arg.setWidth 16, off) else if p.pois then some (cPOISON, off) else none
/-- An error of an epoch command. The network port has no engine status word (21 R424): it reads 0. -/
def networkError (code : BitVec 16) : Finish := .error code 0 0 0
/-- A reply to a `gbar` or `gbar.wait` read: the next read of a record of this cluster's own slice comes a clk later, of another 64 × GPOLL clk later (15 R322). -/
def Cluster.pollReply (c : Cluster) (m : Cmd) (p : Packet) (k : Nat) : Cluster :=
  match replyFail p p.off with
  | some (code, _) =>
    c.rejectPoll m code
  | none =>
    let far := match m.remote with | some r => (match r.peer with | some (d, cl, _) => decide (d ≠ c.device.toNat ∨ cl ≠ k) | none => true) | none => true
    let wait := if far then 64 * Nat.max 1 (field c.hemcfgRound.toNat 16 16) else 1
    c.setCmd { m with phase := 1, data := [BitVec.ofNat 64 (leNat (p.payload.take 8))], notBefore := c.clk + wait }
/-- DONE: a packet has been performed, or a notice accepted. -/
def State.doneReply (s : State) : State :=
  match s.takeReply kDONE with
  | none => s
  | some (p, pl, s1) =>
    match (s1.cluster s.arg.k).cmd pl.cmd with
    | none => s1
    | some m =>
      if m.remote.isSome then s1.modCluster s.arg.k (fun c => c.opPacket m (replyFail p pl.pkt.off))
      else match m.instr with
        | .wunlock .. => s1.finish s.arg.k m .normal
        | _ => s1
def execDone (s : State) : Out := .next s.doneReply
/-- GETDATA: bytes land in the origin's slice (17 R359), or answer a Group barrier read. -/
def State.getdataReply (s : State) : State :=
  match s.takeReply kGETDATA with
  | none => s
  | some (p, pl, s1) =>
    match (s1.cluster s.arg.k).cmd pl.cmd with
    | none => s1
    | some m =>
      match m.remote with
      | none => s1
      | some r =>
        if m.isPoll then s1.modCluster s.arg.k (fun c => c.pollReply m p s.arg.k)
        else
          let at_ := (pl.pkt.off + 2 ^ 40 - r.off) % 2 ^ 40
          let n := 4 * pl.pkt.elems
          let ps := localPieces m.data r.localVa.toNat at_ n
          let land := fun (a : Nat × Cluster) (q : Nat × Nat) => (a.1 + q.2, a.2.writeL2 q.1 ((padTo n p.payload).drop a.1 |>.take q.2) p.pois)
          s1.modCluster s.arg.k (fun c => (ps.foldl land (0, c)).2.opPacket m (replyFail p pl.pkt.off))
def execGetdata (s : State) : Out := .next s.getdataReply
/-- The value that an atomic returns reaches its register, or its Handle's ticket (17 R360, 15 R321, R323). -/
def Context.returned (x : Context) (m : Cmd) (r : Remote) (v : Word) : Context :=
  match r.dest, m.instr with
  | some d, _ => x.setS d v
  | none, .gbar .. => if m.left then x else { x with tickets := SMap.put x.tickets r.hnd (m.pc, v) }
  | none, _ => x
/-- ATOMRET: the old value or the ticket. -/
def State.atomretReply (s : State) : State :=
  match s.takeReply kATOMRET with
  | none => s
  | some (p, pl, s1) =>
    match (s1.cluster s.arg.k).cmd pl.cmd with
    | none => s1
    | some m =>
      match m.remote with
      | none => s1
      | some r =>
        let v : Word := BitVec.ofNat 64 (leNat (p.payload.take 8))
        let c := s1.cluster s.arg.k
        let c := if p.pois then c else c.modContext m.ctx (fun x => x.returned m r v)
        s1.setCluster s.arg.k (c.opPacket m (replyFail p pl.pkt.off))
def execAtomret (s : State) : Out := .next s.atomretReply
/-- A request ends in failure: its operation counts a failed packet; an epoch command's Token ends in error. -/
def State.requestFailed (s : State) (k : Nat) (pl : Place) (code : BitVec 16) : State :=
  match (s.cluster k).cmd pl.cmd with
  | none => s
  | some m =>
    if m.isPoll then s.modCluster k (fun c => c.pollReply m { replyTo pl.pkt kFAIL with arg := code.setWidth 32 } k)
    else if m.remote.isSome then s.modCluster k (fun c => c.opPacket m (some (code, pl.pkt.off)))
    else match m.instr with
      | .wlock .. => s.finish k m (networkError code)
      | .wunlock .. => s.finish k m (networkError code)
      | _ => s
/-- FAIL: a refusal. -/
def State.failReplyIn (s : State) : State :=
  match s.takeReply kFAIL with
  | none => s
  | some (p, pl, s1) => s1.requestFailed s.arg.k pl (p.arg.setWidth 16)
def execFail (s : State) : Out := .next s.failReplyIn
/-- GRANT: the lock is held and the `wlock` completes (17 R355). -/
def State.grantReply (s : State) : State :=
  match s.takeReply kGRANT with
  | none => s
  | some (_, pl, s1) =>
    match (s1.cluster s.arg.k).cmd pl.cmd with
    | none => s1
    | some m =>
      match m.instr with
      | .wlock _ w _ _ =>
        let peer := field (m.regs.headD 0).toNat 0 12
        (s1.modContext s.arg.k m.ctx (fun x => { x with locks := x.locks ++ [(w.toNat, peer)] })).finish s.arg.k m .normal
      | _ => s1
def execGrant (s : State) : Out := .next s.grantReply

/-! Resending (20 R416-R418). -/

/-- ENACK: a relaxed request is resent alone, ordered requests from OSEQ N on together, 256 clk later. -/
def State.enackReply (s : State) : State :=
  match s.takeReply kENACK with
  | none => s
  | some (p, pl, s1) =>
    s1.modCluster s.arg.k (fun c =>
      let t := some (c.clk + 256)
      { c with places := c.places.map (fun q =>
          let x := q.2.pkt
          if pl.pkt.ordered then
            if x.ordered ∧ x.ddev = pl.pkt.ddev ∧ x.dcl = pl.pkt.dcl ∧ (x.oseq - p.arg.setWidth 16).toNat < 2 ^ 15 then (q.1, { q.2 with retry := t }) else q
          else if q.1 = p.rtag then (q.1, { q.2 with retry := t }) else q) })
def execEnack (s : State) : Out := .next s.enackReply
/-- ENACK_RESEND: the request in place `arg.i` is sent again once its time has come; ordered requests to one cluster in OSEQ order. A target that has become unreachable fails it with LINK_ERR (20 R413). -/
def State.enackResend (s : State) : State :=
  let c := s.cluster s.arg.k
  match SMap.find c.places s.arg.i with
  | none => s
  | some pl =>
    let p := pl.pkt
    let first := !p.ordered || c.places.all (fun q =>
      q.2.retry.isNone || !q.2.pkt.ordered || q.2.pkt.ddev != p.ddev || q.2.pkt.dcl != p.dcl || decide ((q.2.pkt.oseq - p.oseq).toNat < 2 ^ 15))
    match pl.retry with
    | none => s
    | some t =>
      if c.clk < t ∨ !first then s
      else if !s.reachable p.ddev then (s.modCluster s.arg.k (fun c => { c with places := SMap.del c.places s.arg.i })).requestFailed s.arg.k pl cLINK
      else (s.setCluster s.arg.k { c with places := SMap.put c.places s.arg.i { pl with retry := none } }).netSend p
def execEnackResend (s : State) : Out := .next s.enackResend
/-- Cancel the request that cluster `k` holds in a place: it finishes as failed with LINK_ERR. -/
def State.cancelPlace (s : State) (k n : Nat) : State :=
  match SMap.find (s.cluster k).places n with
  | none => s
  | some pl => (s.modCluster k (fun c => { c with places := SMap.del c.places n })).requestFailed k pl cLINK
/-- The packets that a port holds: those that wait, those in its replay buffer, and those in transit in its input buffers. -/
def FPort.holds (x : FPort) : List Packet := x.waiting ++ x.replay.map (·.pkt) ++ x.input.map (·.2)
/-- A port no longer holds some packets. -/
def FPort.cancel (x : FPort) (gone : Packet → Bool) : FPort :=
  { x with
    waiting := x.waiting.filter (fun p => !gone p), replay := x.replay.filter (fun l => !gone l.pkt), input := x.input.filter (fun q => !gone q.2) }
/-- The request that cluster `k` holds in place `p.rtag` is the packet `p`, and not a later one that has taken the place since. -/
def Cluster.holdsRequest (c : Cluster) (p : Packet) : Bool := (SMap.find c.places p.rtag).any (fun pl => pl.pkt.no == p.no)
/-- A packet that a port held is cancelled: a request of this module that is still unanswered finishes as failed, one of another module gets the FAIL that tells its origin so (assumption 44). -/
def State.cancelPacket (s : State) (p : Packet) : State :=
  if p.rpl then s
  else if p.sdev = s.deviceNo then (if (s.cluster p.scl).holdsRequest p then s.cancelPlace p.scl p.rtag else s)
  else s.failReply p cLINK
/-- CANCEL_HELD_PACKETS: with `arg.flag` every packet to device `arg.i`, else every packet that port `arg.k` holds. No port sends one of them again; the sequence numbers of those that leave a replay buffer stay used (assumption 86). -/
def State.cancelHeld (s : State) : State :=
  if s.arg.flag then
    let gone := fun (p : Packet) => p.ddev == s.arg.i
    let held := ((s.ports.map (fun q => q.2.holds)).flatten ++ s.stranded).filter gone
    let s1 := { s with ports := s.ports.map (fun q => (q.1, q.2.cancel gone)), stranded := s.stranded.filter (fun p => !gone p) }
    clusterIds.foldl (fun s k =>
      ((s.cluster k).places.filter (fun q => q.2.pkt.ddev == s.arg.i)).foldl (fun s q => s.cancelPlace k q.1) s) (held.foldl State.cancelPacket s1)
  else (s.port s.arg.k).holds.foldl State.cancelPacket (s.modPort s.arg.k (·.cancel (fun _ => true)))
def execCancelHeldPackets (s : State) : Out := .next s.cancelHeld

/-! Whole steps: each instruction as the issue of a plain bundle that holds it. -/

def execPut (f : RF) (s : State) : Out :=
  issuePlain (.put f) (effPut f) s
def execGet (f : RF) (s : State) : Out :=
  issuePlain (.get f) (effGet f) s
def execAcc (f : RF) (s : State) : Out :=
  issuePlain (.acc f) (effAcc f) s
def execRamo (f : RaF) (s : State) : Out :=
  issuePlain (.ramo f) (effRamo f) s
def execRcas (f : RaF) (s : State) : Out :=
  issuePlain (.rcas f) (effRcas f) s
def execHwaitImm (g : Reg4) (loc : Bool) (h1 h2 h3 h4 : Hnd) (s : State) : Out :=
  issuePlain (.hwaitImm g loc h1 h2 h3 h4) (effHwaitImm g loc h1 h2 h3 h4) s
def execHwaitReg (g : Reg4) (loc : Bool) (a : SReg) (s : State) : Out :=
  issuePlain (.hwaitReg g loc a) (effHwaitReg g loc a) s
def execHtestPred (g : Reg4) (loc : Bool) (e : Reg4) (h1 h2 h3 h4 : Hnd) (s : State) : Out :=
  issuePlain (.htestPred g loc e h1 h2 h3 h4) (effHtestPred g loc e h1 h2 h3 h4) s
def execHtestPredReg (g : Reg4) (loc : Bool) (e : Reg4) (a : SReg) (s : State) : Out :=
  issuePlain (.htestPredReg g loc e a) (effHtestPredReg g loc e a) s
def execHtestScalar (g : Reg4) (d : SReg) (h : Hnd) (s : State) : Out :=
  issuePlain (.htestScalar g d h) (effHtestScalar g d h) s
def execHtestOff (g : Reg4) (d : SReg) (h : Hnd) (s : State) : Out :=
  issuePlain (.htestOff g d h) (effHtestOff g d h) s

end Sys2Proof.Machine
end

