-- ==== Sys2Proof/Machine/Spawn.lean ====
section
/-! DEFINITION. `spawn` and `join` (12 R283-R285) and the Group barrier instructions (15 R318-R323). Events read `arg.k`, the cluster, and `arg.i`, a command. -/

namespace Sys2Proof.Machine

/-- An S-slot remote operation enters the network port, outside the command queues. Answers its number. -/
def Issue.raiseOp (ι : Issue) (r : Remote) (regs data : List Word) (waits : List Nat) (w : Work) : Nat × Work :=
  let cl := w.cl ι
  let m := { newCmd ι cl.nextCmd .network 0 regs waits none false false (some r) with data := data }
  let cl := { cl with cmds := cl.cmds ++ [m], nextCmd := cl.nextCmd + 1 }
  let cl := cl.modContext ι.c (fun x =>
    { x.modHnd r.hnd (fun t => if r.locDone then t.produce.opLocal else t.produce) with tickets := SMap.del x.tickets r.hnd })
  (m.id, { w with st := w.st.setCluster ι.k cl })
/-- A single operation waits while its Handle is not resolved (12 R284). -/
def Issue.handleFree (ι : Issue) (n : Nat) : Except Stop Unit :=
  if (ι.x.hnd n).st.pending then .error (.block .handle .network (ι.cl.handleCmds ι.c [n]) none) else .ok ()
/-- Earlier writes of the Context that are held must take effect before a record is pushed. -/
def Issue.heldGate (ι : Issue) : Except Stop Unit := if ι.cl.heldWrites.any (fun h => h.ctx == ι.c) then .error .stall else .ok ()

/-! `spawn` (12 R284). -/

/-- The record at an address, read as a load of scope core; the issue stalls until its data is held. -/
def readRecord64 (ι : Issue) (va : Word) (w : Work) : Except Stop (BitVec 512 × Work) := do
  let r := [(va.toNat, 64)]
  ι.gate 0 r
  let (cs, w) ← xlatPieces ι .read r w
  ι.heldBytes cs
  let cl := w.cl ι
  if cl.chunksBad cs.flatten then ι.failAt cPOISON va
  else
    let (d, w) := (ι.touchRead .plain cs w).lag (cl.loadBase cs)
    .ok (recOfBytes (cl.readChunks cs.flatten), { w with idle := Nat.max w.idle (d - 1) })
/-- The record as `spawn` completes it: PRIO, and with LV the task's Group indexes. -/
def spawnRecord (x : Context) (r : BitVec 512) (prio : BitVec 3) (lv : Bool) : BitVec 512 :=
  let r := recSet r 160 3 prio.toNat
  if lv then recSet (recSet r 256 192 (lvlBits x.lvl)) 163 1 (bnat x.tail) else r
/-- The record that a `spawn` sends. -/
def spawnRead (ι : Issue) (va : Word) (prio : BitVec 3) (lv : Bool) (w : Work) : Except Stop (BitVec 512 × Work) := do
  if va.toNat % 64 ≠ 0 then ι.failAt cALIGN va
  else do
    let (r, w) ← readRecord64 ι va w
    if (recCode r).toNat % 4 ≠ 0 then ι.failAt cALIGN (recCode r) else .ok (spawnRecord ι.x r prio lv, w)
/-- What stands of a local `spawn` that finds its level full (12 R284): the record has been read, with the stall, the counts and the lines that this took. -/
def Issue.recordRead (ι : Issue) (va : Word) (prio : BitVec 3) (lv : Bool) (w : Work) (s : State) : State :=
  match spawnRead { ι with pre := s } va prio lv { w with st := s } with
  | .ok (_, w) => w.st.modCluster ι.k (fun c => c.idleClk w.idle)
  | .error _ => s
def effSpawnLocal (g : Reg4) (a : SReg) (prio : BitVec 3) (lv : Bool) : Effect := fun ι w =>
  ι.guarded g w fun w => do
    let va ← ι.rs a
    let (r, w1) ← spawnRead ι va prio lv w
    ι.heldGate
    let cl := w1.cl ι
    if cl.levelFull prio.toNat then .error (.block .engine .queue [] (some (ι.recordRead va prio lv w)))
    else .ok (w1.modCl ι (fun cl => { cl with pushes := cl.pushes ++ [{ src := .spawn, rcd := r }] }))
def effSpawnRemote (g : Reg4) (n : Hnd) (a b : SReg) (prio : BitVec 3) (lv : Bool) : Effect := fun ι w =>
  ι.guarded g w fun w => do
    let va ← ι.rs a
    let peer ← ι.rs b
    let (r, w) ← spawnRead ι va prio lv w
    ι.handleFree n.toNat
    let ref := BitVec.ofNat 64 (field peer.toNat 0 12 + 2 ^ 12 * 4095)
    let op := { newRemote n.toNat ref 0 0 0 none with locDone := true }
    .ok (ι.raiseOp op [] ((List.range 8).map (fun i => BitVec.ofNat 64 (recField r (64 * i) 64))) [] w).2

/-! `join` (12 R285). -/

/-- A local join: the issue does not wait. Its decrement follows what the Context did before, held writes too, and precedes its next access. Of one bundle the slot order is the program order: the join or `spawn` of slot S precedes the accesses of slots A and E (12 R285, assumption 96). -/
def joinLocal (ι : Issue) (va : Word) (w : Work) : Res :=
  if va = 0 then .ok w
  else if va.toNat % 64 ≠ 0 then ι.failAt cALIGN va
  else do
    let (cs, w) ← xlatPieces ι .write [(va.toNat, 64)] w
    .ok (w.modCl ι (fun cl => { cl with joins := cl.joins ++ [{ ctx := ι.c, va := va, pa := (cs.flatten.map (·.pa)).headD 0, seq := cl.nextCmd }] }))
/-- `join` on the parent. The remote form finds a misaligned address before it finds h0, in the order of 12 R285's procedure, and its packet carries the whole address in its offset (assumption 96). -/
def effJoinParent (g : Reg4) (n : Hnd) : Effect := fun ι w =>
  ι.guarded g w fun w =>
    let va := ι.x.prec.setWidth 64
    if !ι.x.ppeer.getLsbD 12 then joinLocal ι va w
    else if va = 0 then .ok w
    else if va.toNat % 64 ≠ 0 then ι.failAt cALIGN va
    else if n = 0 then ι.fail cILLEGAL
    else do
      ι.handleFree n.toNat
      let ref := BitVec.ofNat 64 (field ι.x.ppeer.toNat 0 12 + 2 ^ 12 * 4095)
      .ok (ι.raiseOp (newRemote n.toNat ref va.toNat 0 0 none) [] [] [] w).2
def effJoinRecord (g : Reg4) (a : SReg) : Effect := fun ι w =>
  ι.guarded g w fun w => do
    let va ← ι.rs a
    joinLocal ι va w

/-! Group barriers (15 R318-R323). -/

def refOff (ref : Word) : Nat := field ref.toNat 24 40
/-- A barrier reference names a record at a multiple of 64. -/
def refAligned (ι : Issue) (ref : Word) : Except Stop Unit :=
  if refOff ref % 64 ≠ 0 then ι.failAt cALIGN (BitVec.ofNat 64 (refOff ref)) else .ok ()
def effGbarArrive (g : Reg4) (_scope : BitVec 4) (d a : SReg) (n : Hnd) (t : Tok) : Effect := fun ι w =>
  ι.guarded g w fun w => do
    let ref ← ι.rs a
    ι.ws d
    refAligned ι ref
    ι.handleFree n.toNat
    let dest := if d = 0 then none else some d
    let (id, w) := ι.raiseOp (newRemote n.toNat ref (refOff ref) 16 0 dest) [ref] [] (ι.x.captured [t.toNat]) w
    .ok (if d = 0 then w else w.modX ι (fun x => { x with sWait := SMap.put x.sWait d.toNat id }))
/-- Generation `g` is released for a reader that sees `gen` (15 R319). -/
def genReleased (gen g : Nat) : Bool := decide (1 ≤ (gen + 2 ^ 32 - g) % 2 ^ 32 ∧ (gen + 2 ^ 32 - g) % 2 ^ 32 ≤ 2 ^ 31 - 1)
/-- The read that this blocked issue repeats, of the record that its reference names. -/
def Issue.poll (ι : Issue) (ref : Word) : Option Cmd :=
  ι.cl.cmds.find? (fun m => m.ctx == ι.c && m.isPoll && decide (m.pc = ι.pc ∧ m.iter = ι.iter) && (match m.remote with
    | some r => decide (r.peerIdx = field ref.toNat 0 12 ∧ r.win = field ref.toNat 12 12 ∧ r.off = refOff ref)
    | none => false))
/-- Wait until the record's generation shows `ticket` released: the read goes on while the issue is blocked. A read that another issue of the Context left behind ends. -/
def waitGen (ι : Issue) (ref : Word) (ticket : Nat) (w : Work) : Res :=
  match ι.poll ref with
  | none =>
    let m := newCmd ι ι.cl.nextCmd .barrier 0 [] [] none false false (some (newRemote 0 ref (refOff ref) 8 0 none))
    .error (.block .barrier .matrix [m.id] (some (fun s => s.modCluster ι.k (fun cl =>
      { cl with cmds := cl.cmds.filter (fun q => !(q.ctx == ι.c && q.isPoll)) ++ [m], nextCmd := m.id + 1 }))))
  | some m =>
    if m.phase = 1 ∧ genReleased (field (m.data.headD 0).toNat 32 32) (ticket % 2 ^ 32) then
      .ok (w.modCl ι (fun cl => { cl with cmds := cl.cmds.filter (fun q => q.id ≠ m.id) }))
    else .error (.block .barrier .matrix [m.id] none)
def effGbarWait (g : Reg4) (_scope : BitVec 4) (a b : SReg) : Effect := fun ι w =>
  ι.guarded g w fun w => do
    let ref ← ι.rs a
    let t ← ι.rs b
    refAligned ι ref
    waitGen ι ref t.toNat w
def effGbar (g : Reg4) (_scope : BitVec 4) (a : SReg) (n : Hnd) : Effect := fun ι w =>
  ι.guarded g w fun w => do
    let ref ← ι.rs a
    refAligned ι ref
    match (SMap.find ι.x.tickets n.toNat).filter (fun t => decide (t.1 = ι.pc)) with
    | some (_, t) => do
      let w ← waitGen ι ref t.toNat w
      .ok (w.modX ι (fun x => { x.setHnd n.toNat Handle.free with tickets := SMap.del x.tickets n.toNat }))
    | none =>
      let mine := ι.cl.cmds.find? (fun m => m.ctx == ι.c && (match m.instr, m.remote with
        | .gbar .., some r => !m.left && r.hnd == n.toNat && decide (m.pc = ι.pc)
        | _, _ => false))
      match mine with
      | some m => .error (.block .barrier .matrix [m.id] none)
      | none => do
        ι.handleFree n.toNat
        let arrive := fun (s : State) => ι.raiseOp (newRemote n.toNat ref (refOff ref) 16 0 none) [ref] [] [] { w with st := s }
        .error (.block .barrier .matrix [(arrive ι.pre).1] (some (fun s => (arrive s).2.st)))
/-- A gated arrival. -/
def gatedArrival : Instr → Bool
  | .gbarArrive _ _ _ _ _ t => t ≠ 0
  | _ => false
/-- GBAR_DEFERRED_ARRIVAL: the arrival of a `gbar.arrive` whose captured commands have finished. -/
def State.deferredArrival (s : State) : State :=
  match s.argCmd with
  | some m => match m.remote with
    | some r => if gatedArrival m.instr then s.sendOp s.arg.k m r else s
    | none => s
  | none => s
def execGbarDeferredArrival (s : State) : Out := .next s.deferredArrival
/-- GBAR_WAIT_POLL: the read of a blocked Group barrier issue, at first and again once its interval has passed. -/
def State.gbarPoll (s : State) : State :=
  match s.argCmd with
  | none => s
  | some m =>
    match m.remote with
    | none => s
    | some r =>
      if !m.isPoll then s
      else if m.phase = 0 then s.sendOp s.arg.k m r
      else if (s.cluster s.arg.k).clk < m.notBefore then s
      else
        let r := { r with sent := 0, out := 0, allSent := false }
        let m := { m with phase := 0, remote := some r }
        (s.modCluster s.arg.k (fun c => c.setCmd m)).sendOp s.arg.k m r
def execGbarWaitPoll (s : State) : Out := .next s.gbarPoll

/-! Whole steps: each instruction as the issue of a plain bundle that holds it. -/

def execSpawnLocal (g : Reg4) (a : SReg) (prio : BitVec 3) (lv : Bool) (s : State) : Out :=
  issuePlain (.spawnLocal g a prio lv) (effSpawnLocal g a prio lv) s
def execSpawnRemote (g : Reg4) (n : Hnd) (a b : SReg) (prio : BitVec 3) (lv : Bool) (s : State) : Out :=
  issuePlain (.spawnRemote g n a b prio lv) (effSpawnRemote g n a b prio lv) s
def execJoinParent (g : Reg4) (n : Hnd) (s : State) : Out :=
  issuePlain (.joinParent g n) (effJoinParent g n) s
def execJoinRecord (g : Reg4) (a : SReg) (s : State) : Out :=
  issuePlain (.joinRecord g a) (effJoinRecord g a) s
def execGbarArrive (g : Reg4) (scope : BitVec 4) (d a : SReg) (n : Hnd) (t : Tok) (s : State) : Out :=
  issuePlain (.gbarArrive g scope d a n t) (effGbarArrive g scope d a n t) s
def execGbarWait (g : Reg4) (scope : BitVec 4) (a b : SReg) (s : State) : Out :=
  issuePlain (.gbarWait g scope a b) (effGbarWait g scope a b) s
def execGbar (g : Reg4) (scope : BitVec 4) (a : SReg) (n : Hnd) (s : State) : Out :=
  issuePlain (.gbar g scope a n) (effGbar g scope a n) s

end Sys2Proof.Machine
end

