-- ==== Sys2Proof/Machine/Window.lean ====
section
/-! DEFINITION. Windows (17 R348-R357): epoch instructions, exposure, and what a cluster's network port does with the packets that arrive. Events read `arg.k`, the cluster, and `arg.i`, a command or a place in the inbox. -/

namespace Sys2Proof.Machine

/-! The Selvedge table (17 R348, R350). -/

def Cluster.modSel (c : Cluster) (w : Nat) (f : Sel → Sel) : Cluster := { c with sel := c.sel.map (fun e => if e.win = w then f e else e) }
def Sel.base (e : Sel) : Nat := recField e.desc 0 56
def Sel.size (e : Sel) : Nat := recField e.desc 64 40
/-- Rights: 0 RD, 1 WR, 2 AC, 3 AT. -/
def Sel.right (e : Sel) (i : Nat) : Bool := recField e.desc (128 + i) 1 == 1
def Sel.kind (e : Sel) : Nat := recField e.desc 132 2
def Sel.glo (e : Sel) : Nat := recField e.desc 256 12
def Sel.gn (e : Sel) : Nat := recField e.desc 268 12
/-- The descriptor of window `w` in the window table. -/
def Cluster.descAt (c : Cluster) (w : Nat) : Nat := field c.winbase.toNat 12 44 * 4096 + 64 * w
def Cluster.winid (c : Cluster) : Nat := field c.winbase.toNat 0 12

/-! Issue of the epoch instructions (17 R352, R366). -/

/-- What an epoch instruction finds wrong at its issue (17 R366): ILLEGAL, which comes before any other fault (03 R59), by its register operand where that can be read, and its own Window not exposed. -/
structure EpochCheck where
  illegal : Issue → Option Word → Bool
  closed : Issue → Bool
/-- The value of a register operand that a check may look at: also one that will raise POISON, but none that a remote operation has still to return (assumption 32). -/
def Issue.rsSeen (ι : Issue) (a : SReg) : Option Word :=
  match ι.rs a with
  | .ok v => some v
  | .error (.trap ..) => some (ι.x.sreg a)
  | .error _ => none
/-- The operands of an epoch instruction after its checks: none, or an s-register. -/
def EpochCheck.regs (q : EpochCheck) (ι : Issue) (a : Option SReg) : Except Stop (List Word) :=
  match a with
  | none => if q.illegal ι none then ι.fail cILLEGAL else if q.closed ι then ι.fail cWINDOW else .ok []
  | some a =>
    match ι.rs a with
    | .error .wait => .error .wait
    | r =>
      if q.illegal ι (ι.rsSeen a) then ι.fail cILLEGAL
      else match r with
        | .error (.trap t k) => .error (.trap t k)
        | r => if q.closed ι then ι.fail cWINDOW else r.map (fun v => [v])
/-- An epoch instruction: it is checked and produced at its first attempt, and its issue stays blocked until the command has completed, whatever its guard reads by then. -/
def epochIssue (e : EF) (a : Option SReg) (q : EpochCheck) : Effect := fun ι w =>
  match ι.x.epochs.find? (fun p => decide (p.1 = ι.pc ∧ p.2.1 = ι.iter)) with
  | some (_, _, _, true) =>
    .ok (w.modX ι (fun x => { x with epochs := x.epochs.filter (fun p => !decide (p.1 = ι.pc ∧ p.2.1 = ι.iter)) }))
  | some (_, _, id, false) => .error (.block .window .network [id] none)
  | none =>
    ι.guarded e.g w fun w => do
      let vs ← q.regs ι a
      let start := fun (s : State) => ι.produce .network e vs none { w with st := s }
      let (id, _) ← start ι.pre
      .error (.block .window .network [id] (some (fun s =>
        match start s with
        | .ok (_, w') => (w'.modX ι (fun x => { x with epochs := x.epochs ++ [(ι.pc, ι.iter, id, false)] })).st
        | .error _ => s)))
/-- The cluster's own Window while it is exposed (17 R366). -/
def Issue.ownWindow (ι : Issue) (w : BitVec 12) : Option Sel := (ι.cl.selOf w.toNat).filter (·.valid)
/-- The peers of a set (17 R365). -/
def peerSet (a : Word) : List Nat := (List.range (field a.toNat 12 12 + 1)).map (· + field a.toNat 0 12)
/-- A set that runs past index 4,095 raises ILLEGAL (17 R366). -/
def peersPast (a : Word) : Bool := decide (4095 < field a.toNat 0 12 + field a.toNat 12 12)
/-- The checks of an instruction on the own Window of a kind; `more` is what else is ILLEGAL while it is exposed. -/
def ownChecks (w : BitVec 12) (kind : Nat) (more : Sel → Bool) : EpochCheck where
  illegal ι v := v.any peersPast || (ι.ownWindow w).any (fun x => x.kind != kind || more x)
  closed ι := (ι.ownWindow w).isNone
/-- The checks of an instruction on a remote Window. -/
def remoteChecks (illegal : Issue → Option Word → Bool) : EpochCheck where
  illegal := illegal
  closed _ := false
def effWfence (e : EF) (w : BitVec 12) (_mode : BitVec 2) : Effect := epochIssue e none (ownChecks w 0 (fun _ => false))
def effWpost (e : EF) (w : BitVec 12) (a : SReg) : Effect := epochIssue e (some a) (ownChecks w 1 (fun x => decide (x.ep ≠ .closed)))
def effWstart (e : EF) (w : BitVec 12) (a : SReg) : Effect :=
  epochIssue e (some a) (remoteChecks fun ι v => v.any peersPast || ι.x.starts.any (fun p => p.1 == w.toNat))
def effWcomplete (e : EF) (w : BitVec 12) : Effect := epochIssue e none (remoteChecks fun ι _ => !ι.x.starts.any (fun p => p.1 == w.toNat))
def effWwait (e : EF) (w : BitVec 12) : Effect := epochIssue e none (ownChecks w 1 (fun _ => false))
def lockKey (w : BitVec 12) (v : Word) : Nat × Nat := (w.toNat, field v.toNat 0 12)
def effWlock (e : EF) (w : BitVec 12) (a : SReg) (_ex : Bool) : Effect :=
  epochIssue e (some a) (remoteChecks fun ι v => v.any (fun v => ι.x.locks.contains (lockKey w v)))
def effWunlock (e : EF) (w : BitVec 12) (a : SReg) : Effect :=
  epochIssue e (some a) (remoteChecks fun ι v => v.any (fun v => !ι.x.locks.contains (lockKey w v)))
def effWexpose (e : EF) (_w : BitVec 12) (b : Reg4) : Effect := fun ι w =>
  ι.guarded e.g w fun w => do
    let va ← ι.ra b
    if va.toNat % 64 ≠ 0 then ι.failAt cALIGN va
    else do
      let (_, w) ← ι.produce .network e [va] none w
      .ok w
def effWrevoke (e : EF) (_w : BitVec 12) : Effect := fun ι w =>
  ι.guarded e.g w fun w => do
    let (_, w) ← ι.produce .network e [] none w
    .ok w

/-! The count words of a descriptor (17 R348). -/

/-- WSTAT takes `stat` and REJ rises by `rej`, at the L2 slice; an update that fails translation is lost and leaves a PATH 14 notice. -/
def State.windowStat (s : State) (k w : Nat) (stat : BitVec 32) (rej : Nat) : State :=
  let va := (s.cluster k).descAt w + 24
  match s.xlatRange k va 8 .write false false with
  | (.error (cause, level, va), s) =>
    s.modCluster k (fun c => c.notice (BitVec.ofNat 64 va) (ringInfo 14 cause level 1 0 0 0) (BitVec.ofNat 64 w))
  | (.ok cs, s) =>
    let c := (s.cluster k).cleanChunks cs
    let v := leNat (c.readChunksL2 cs)
    let n := field v 0 32 ||| stat.toNat
    let r := Nat.min (field v 32 32 + rej) (2 ^ 32 - 1)
    s.setCluster k (c.writeChunks cs (bytesLE 8 (n + 2 ^ 32 * r)) false)
/-- The REFUSED record of a packet (21 R428, R429). -/
def State.refusedRecord (s : State) (k : Nat) (p : Packet) (code : BitVec 16) : State :=
  s.errCluster k 0 2 4 code (BitVec.ofNat 64 p.off) (BitVec.ofNat 64 (p.win % 4096 + 2 ^ 12 * (p.sdev % 2048) + 2 ^ 23 * (p.scl % 64)))
/-- A refused packet (17 R350, R351): REJ where the Window has an entry, a record, and, but for notices that need none, a reply. -/
def State.refuse (s : State) (k : Nat) (p : Packet) (code : BitVec 16) : State :=
  let s := if ((s.cluster k).selOf p.win).any (·.valid) then s.windowStat k p.win 0 1 else s
  let s := s.refusedRecord k p code
  if p.kind = kMARKER ∨ p.kind = kCOMPLETE then s else s.failReply p code

/-! Progress of the epoch commands (17 R352-R357). -/

def encPeer (p : Nat × Nat × BitVec 12) : Word := BitVec.ofNat 64 (p.1 + 2 ^ 11 * p.2.1 + 2 ^ 32 * p.2.2.toNat)
def decPeer (w : Word) : Nat × Nat × BitVec 12 := (field w.toNat 0 11, field w.toNat 11 6, BitVec.ofNat 12 (field w.toNat 32 12))
/-- The window of an epoch command. -/
def epochWin : Instr → Option Nat
  | .wfence _ w _ => some w.toNat
  | .wpost _ w _ => some w.toNat
  | .wstart _ w _ => some w.toNat
  | .wcomplete _ w => some w.toNat
  | .wwait _ w => some w.toNat
  | .wlock _ w _ _ => some w.toNat
  | .wunlock _ w _ => some w.toNat
  | _ => none
/-- The peer indexes that an epoch command names (17 R352). -/
def Cluster.epochPeers (c : Cluster) (m : Cmd) : List Nat :=
  match m.instr with
  | .wfence _ w _ => (match c.selOf w.toNat with
    | some e => (List.range (e.gn + 1)).map (· + e.glo)
    | none => [])
  | .wpost .. => peerSet (m.regs.headD 0)
  | .wstart .. => peerSet (m.regs.headD 0)
  | .wcomplete _ w => ((c.context m.ctx).starts.filter (fun p => p.1 == w.toNat)).map (·.2)
  | .wlock .. => [field (m.regs.headD 0).toNat 0 12]
  | .wunlock .. => [field (m.regs.headD 0).toNat 0 12]
  | _ => []
/-- Read the entries of some peers; the first that fails decides. -/
def State.readPeers (k : Nat) : List Nat → State → (Except (Nat × Nat × Nat) (Option (List Word))) × State
  | [], s => (.ok (some []), s)
  | i :: t, s =>
    match s.readPeer k i with
    | (.error f, s) => (.error f, s)
    | (.ok none, s) => (.ok none, s)
    | (.ok (some p), s) =>
      match State.readPeers k t s with
      | (.ok (some l), s) => (.ok (some (encPeer p :: l)), s)
      | r => r
/-- Whether packets that the epoch of window `w` admitted are still to be performed. -/
def Cluster.admitted (c : Cluster) (w : Nat) : Bool := c.inbox.any (fun p => p.adm && p.win == w && !p.rpl)
/-- Unfinished remote operations of a Context to window `w` of some peers. -/
def Cluster.opsTo (c : Cluster) (ctx w : Nat) (idx : List Nat) (dst : List Word) : Bool :=
  c.cmds.any (fun m => m.ctx == ctx && (match m.remote with
    | some r => !r.done && r.win == w && !m.isPoll
      && (idx.contains r.peerIdx || (match r.peer with | some p => dst.contains (encPeer p) | none => false))
    | none => false))
/-- Open the epoch of window `w` at this cluster: dirty lines are written back first (17 R352). -/
def Cluster.openEpoch (c : Cluster) (w : Nat) (f : Sel → Sel) : Cluster := c.writeBackAll.modSel w f
/-- The third check on an admitted packet (17 R350): code of the refusal, if any. -/
def packetLength (p : Packet) : Nat :=
  if p.kind = kRAMO ∨ p.kind = kRCAS then (if p.arg.getLsbD 7 then 8 else 4) else if p.kind = kARRIVE then 16 else 4 * p.elems
def packetRight (p : Packet) : Option Nat :=
  if p.kind = kPUT then some 1
  else if p.kind = kGETREQ then some 0
  else if p.kind = kACCF ∨ p.kind = kACCI then some 2
  else if p.kind = kRAMO ∨ p.kind = kRCAS ∨ p.kind = kARRIVE then some 3
  else none
def Sel.allows (e : Sel) (p : Packet) : Bool :=
  decide (p.off + packetLength p ≤ e.size) && (match packetRight p with | some r => e.right r | none => false)

/-! Performing an admitted access (17 R350, R357-R360, 15 R319). -/

/-- The count of an access that goes on within a packet: a line that the part before it has touched is counted already (19 R400). -/
def Cluster.countFrom (c : Cluster) (cls : Nat) : List Chunk → Cluster
  | [] => c
  | x :: t =>
    let skip := if x.pa % 64 = 0 then 0 else Nat.min x.len (64 - x.pa % 64)
    (c.count cls (x.pa + skip) (x.len - skip)).countChunks cls t
/-- Perform an access of `n` bytes from byte `at_` of the packet on, at the Window: a page that does not translate refuses it with PERM (17 R357). -/
def State.performAt (s : State) (k : Nat) (p : Packet) (at_ n : Nat) (a : Access) (act : State → List Chunk → State) : State :=
  let base := match (s.cluster k).selOf p.win with | some e => e.base | none => 0
  match s.xlatRange k (base + p.off + at_) n a false false with
  | (.error _, s) => s.refuse k p cPERM
  | (.ok cs, s) => act (s.modCluster k (fun c => if at_ = 0 then c.countChunks 2 cs else c.countFrom 2 cs)) cs
/-- The sets that an acquiring access triggers (16 R334). -/
def Cluster.acquireChunks (c : Cluster) (cs : List Chunk) : Cluster :=
  c.flushSets (fun r => (cs.map (fun x => linesOf x.pa x.len)).flatten.contains r.tag)
/-- The sets that an acquiring `get` triggers stand written back before its first element is read, whichever of its lines tags them (16 R334); `cs` are the elements that come next. -/
def State.acquireAll (s : State) (k : Nat) (p : Packet) (cs : List Chunk) : State :=
  let base := match (s.cluster k).selOf p.win with | some e => e.base | none => 0
  let all := match (s.xlatRange k (base + p.off) (4 * p.elems) .read false false).1 with
    | .ok all => all
    | .error _ => cs
  s.modCluster k (fun c => c.acquireChunks all)
/-- DONE, with poison where the access read marked data. -/
def State.doneTo (s : State) (p : Packet) (bad : Bool) : State :=
  s.netSend { replyTo p kDONE with pois := bad }
/-- A packet of which elements are left stands in its place of the inbox again; one that is done gets its answer. -/
def State.resume (s : State) (k : Nat) (p : Packet) (done : State → State) : State :=
  if p.elems ≤ p.part then done s
  else s.modCluster k (fun c => { c with inbox := c.inbox.take s.arg.i ++ p :: c.inbox.drop s.arg.i })
/-- The next `n` elements of a PUT. -/
def State.performPut (s : State) (k : Nat) (p : Packet) (n : Nat) : State :=
  s.performAt k p (4 * p.part) (4 * n) .write (fun s cs =>
    let s := s.modCluster k (fun c => c.writeChunks cs (padTo (4 * n) (p.payload.drop (4 * p.part))) p.pois)
    s.resume k { p with part := p.part + n } (fun s => (s.windowStat k p.win p.arg 0).doneTo p false))
/-- The next `n` elements of a GETREQ; what it has read stands in its payload. -/
def State.performGetreq (s : State) (k : Nat) (p : Packet) (n : Nat) : State :=
  s.performAt k p (4 * p.part) (4 * n) .read (fun s cs =>
    let s := if p.acq then s.acquireAll k p cs else s
    let c := s.cluster k
    let q := { p with part := p.part + n, bad := p.bad || c.chunksPoisoned cs, payload := p.payload.take (4 * p.part) ++ c.readChunksL2 cs }
    s.resume k q (fun s => s.netSend { replyTo p kGETDATA with pois := q.bad, elems := p.elems, payload := q.payload }))
/-- One element of an `acc`: the new value, and whether an operand or the result is an infinity or a NaN. -/
def accElem (int : Bool) (x a : Nat) : Nat × Bool :=
  let special := fun (v : Nat) => field v 23 8 == 255
  if int then ((x + a) % 2 ^ 32, false)
  else
    let r := add32 .rne x a
    (r, special x || special a || special r)
/-- The next `n` elements of an ACC, each by one read-modify-write (17 R358, R359). -/
def State.performAcc (s : State) (k : Nat) (p : Packet) (n : Nat) : State :=
  s.performAt k p (4 * p.part) (4 * n) .write (fun s cs =>
    let c := (s.cluster k).cleanChunks cs
    let old := leNat (c.readChunksL2 cs)
    let src := leNat (p.payload.drop (4 * p.part))
    let es := (List.range n).map (fun i => accElem (p.kind == kACCI) (elem 32 old i) (elem 32 src i))
    let new := (es.map (fun e => bytesLE 4 e.1)).flatten
    let q := { p with part := p.part + n, bad := p.bad || c.chunksPoisoned cs, arg := p.arg ||| (if es.any (·.2) then 1 else 0) }
    let c := cs.foldl (fun c x => c.updateL2 x.pa ((new.drop x.off).take x.len) p.pois) c
    (s.setCluster k c).resume k q (fun s => (s.windowStat k p.win q.arg 0).doneTo p q.bad))
/-- The new value of a `ramo` (17 R360). -/
def ramoNew (op w old v : Nat) : Nat :=
  let smin := fun (a b : Nat) => decide (sintOf w a ≤ sintOf w b)
  match op with
  | 0 => (old + v) % 2 ^ w
  | 1 => add32 .rne old v
  | 2 => if smin old v then old else v
  | 3 => if smin v old then old else v
  | 4 => Nat.min old v
  | 5 => Nat.max old v
  | 6 => old &&& v
  | 7 => old ||| v
  | 8 => old ^^^ v
  | _ => v
/-- A read-modify-write for a remote origin: `f` gives the new value; ATOMRET answers the old one. -/
def State.remoteRmw (s : State) (k : Nat) (p : Packet) (f : Nat → Nat → Nat → Nat) : State :=
  let n := packetLength p
  let w := 8 * n
  s.performAt k p 0 n .write (fun s cs =>
    let c := s.cluster k
    let c := if field p.arg.toNat 5 2 = 1 then c.acquireChunks cs else c
    let c := c.cleanChunks cs
    let old := leNat (c.readChunksL2 cs)
    let bad := c.chunksPoisoned cs
    let new := f old (leNat (p.payload.take 8) % 2 ^ w) (leNat ((p.payload.drop 8).take 8) % 2 ^ w)
    let s := s.setCluster k (c.writeChunks cs (bytesLE n new) (p.pois || bad))
    s.netSend { replyTo p kATOMRET with pois := bad, elems := 2, payload := bytesLE 8 old })
/-- A barrier record's COUNT and GEN after an arrival, as one 64-bit number (15 R319). -/
def arriveNew (old expect : Nat) : Nat :=
  let c := (field old 0 32 + 1) % 2 ^ 32
  if expect ≤ field old 0 32 + 1 then (field old 32 32 + 1) % 2 ^ 32 * 2 ^ 32 else field old 32 32 * 2 ^ 32 + c
/-- An arrival at a barrier record (15 R319). -/
def State.performArrive (s : State) (k : Nat) (p : Packet) : State :=
  s.performAt k p 0 16 .write (fun s cs =>
    let c := (s.cluster k).cleanChunks cs
    let bs := c.readChunksL2 cs
    let old := leNat (bs.take 8)
    let bad := c.chunksPoisoned cs
    let new := bytesLE 8 (arriveNew old (leNat ((bs.drop 8).take 4)))
    let c := cs.foldl (fun c x => c.writeL2 x.pa ((new.drop x.off).take x.len) bad) c
    (s.setCluster k c).netSend { replyTo p kATOMRET with
      pois := bad, elems := 2, payload := bytesLE 8 (field old 32 32) })
/-- Perform an access that the Selvedge table has admitted, `n` elements of it where it is a PUT, GETREQ or ACC. -/
def State.perform (s : State) (k : Nat) (p : Packet) (n : Nat) : State :=
  if p.kind = kPUT then s.performPut k p n
  else if p.kind = kGETREQ then s.performGetreq k p n
  else if p.kind = kACCF ∨ p.kind = kACCI then s.performAcc k p n
  else if p.kind = kRAMO then s.remoteRmw k p (fun old v _ => ramoNew (field p.arg.toNat 8 4) (8 * packetLength p) old v)
  else if p.kind = kRCAS then s.remoteRmw k p (fun old v c => if old = c then v else old)
  else if p.kind = kARRIVE then s.performArrive k p
  else s

/-! The end of a collective round (17 R353). -/

/-- A packet that a round held is performed, or refused by the third check. -/
def State.performHeldPacket (k : Nat) (e : Sel) (s : State) (p : Packet) : State :=
  if e.allows p then s.perform k p p.elems else s.refuse k p cPERM
/-- The end of a collective round (17 R353): every member's marker is here, the own command has sent its markers, and nothing that the epoch admitted is left. The held packets are performed in the same transition, in arrival order. -/
def State.roundStep (s : State) (k w : Nat) : State :=
  let c := s.cluster k
  match c.selOf w with
  | none => s
  | some e =>
    match e.fence.bind c.cmd with
    | none => s
    | some m =>
      if m.phase ≠ 3 ∨ e.marks.length < e.gn + 1 ∨ c.admitted w then s
      else
        let shut := (match m.instr with | .wfence _ _ mode => decide (mode = 2) | _ => false)
        let next := fun (e : Sel) => { e with
          ep := if shut then .closed else .opened, fgen := e.fgen + 1, marks := e.nextMarks, nextMarks := [], held := [], fence := none }
        (e.held.foldl (State.performHeldPacket k e) (s.setCluster k (c.openEpoch w next))).finish k m .normal
/-- Send one notice of an epoch command to the next of its peers, `mark` beside its header; once all are sent, `done`. -/
def State.sendNotice (s : State) (k w : Nat) (m : Cmd) (kind : BitVec 8) (arg : BitVec 32) (mark skipOwn : Bool) (done : State → Cmd → State) : State :=
  match m.data[m.pos]? with
  | none => done s m
  | some v =>
    let c := s.cluster k
    let p := decPeer v
    let m' := { m with pos := m.pos + 1 }
    if skipOwn ∧ p.1 = c.device.toNat ∧ p.2.1 = k then s.setCluster k (c.setCmd m')
    else if !s.reachable p.1 then s.finish k m (networkError cLINK)
    else
      match c.freePlace m.ctx with
      | none => s
      | some n =>
        let s := s.setCluster k (c.setCmd m')
        let s := s.sendRequest k m.ctx m.id { request s k kind p w 0 1 false arg [] false with acq := mark } n
        if m'.pos = m.data.length then done s m' else s
/-- An epoch command whose peers are known goes on. -/
def State.epochGo (s : State) (k w : Nat) (m : Cmd) : State :=
  let c := s.cluster k
  let upd := fun (s : State) (m : Cmd) => s.modCluster k (fun c => c.setCmd m)
  match m.instr with
  | .wfence .. =>
    match c.selOf w with
    | none => s.finish k m (networkError cWINDOW)
    | some e =>
      if m.phase = 1 then
        if e.ep = .closed ∨ e.ep = .opened then
          let c := c.openEpoch w (fun e => { e with ep := if e.ep = .closed then .gather else .closing, fence := some m.id })
          s.setCluster k (c.setCmd { m with phase := 2 })
        else s
      else if m.phase = 2 then s.sendNotice k w m kMARKER (e.fgen.setWidth 32) false false (fun s m => (upd s { m with phase := 3 }).roundStep k w)
      else s.roundStep k w
  | .wpost .. =>
    if m.phase = 1 then
      let tgt := (m.data.map (fun v => ((decPeer v).1, (decPeer v).2.1))).eraseDups.filter (fun p => !decide (p.1 = c.device.toNat ∧ p.2 = k))
      let c := c.openEpoch w (fun e => { e with ep := if tgt.isEmpty then .closed else .opened, posted := tgt })
      s.setCluster k (c.setCmd { m with phase := 2 })
    else s.sendNotice k w m kPOST 0 false true (fun s m => s.finish k m .normal)
  | .wstart .. =>
    let need := (m.data.map (fun v => (w, (decPeer v).1, (decPeer v).2.1))).eraseDups
    if need.all (fun n => c.notices.contains n) then
      let c := { c with notices := need.foldl (fun l n => l.erase n) c.notices }
      let c := c.modContext m.ctx (fun x => { x with starts := x.starts ++ (peerSet (m.regs.headD 0)).map (fun i => (w, i)) })
      (s.setCluster k c).finish k m .normal
    else s
  | .wcomplete .. =>
    if m.phase = 1 then
      if c.opsTo m.ctx w (c.epochPeers m) m.data then s else s.setCluster k (c.setCmd { m with phase := 2 })
    else s.sendNotice k w m kCOMPLETE 0 false false (fun s m =>
      (s.modContext k m.ctx (fun x => { x with starts := x.starts.filter (fun p => p.1 != w) })).finish k m .normal)
  | .wwait .. =>
    match c.selOf w with
    | none => s.finish k m (networkError cWINDOW)
    | some e => if e.posted.isEmpty ∧ !c.admitted w then (s.setCluster k (c.modSel w (fun e => { e with ep := .closed }))).finish k m .normal else s
  | .wlock _ _ _ ex =>
    if m.phase = 1 then s.sendNotice k w m kLOCK 0 ex false (fun s m => upd s { m with phase := 2 }) else s
  | .wunlock .. =>
    if m.phase = 1 then
      if c.opsTo m.ctx w (c.epochPeers m) m.data then s
      else
        let key := (w, field (m.regs.headD 0).toNat 0 12)
        s.setCluster k ((c.modContext m.ctx (fun x => { x with locks := x.locks.filter (· ≠ key) })).setCmd { m with phase := 2 })
    else if m.phase = 2 then s.sendNotice k w m kUNLOCK 0 false false (fun s m => upd s { m with phase := 3 })
    else s
  | _ => s
/-- An epoch command reaches the network port: every peer that it names is translated before it does anything (17 R352). -/
def State.epochStart (s : State) (k w : Nat) (m : Cmd) : State :=
  match State.readPeers k ((s.cluster k).epochPeers m) s with
  | (.error f, s) => s.cmdFault k m 4 f 0 0 0
  | (.ok none, s) => s.finish k m (networkError cPEER)
  | (.ok (some l), s) =>
    let m := { m.taken with phase := 1, data := l }
    (s.modCluster k (fun c => c.setCmd m)).epochGo k w m

/-! Exposure (17 R356, R357). -/

/-- The descriptor that an image gives: its listed fields, VALID, WSTAT and REJ 0. -/
def exposed (img : BitVec 512) : BitVec 512 :=
  BitVec.ofNat 512 (recField img 0 56 + 2 ^ 64 * recField img 64 40 + 2 ^ 128 * recField img 128 6 + 2 ^ 134 + 2 ^ 256 * recField img 256 24)
/-- An image that keeps 17 R348. -/
def imageGood (img : BitVec 512) : Bool :=
  decide (recField img 0 56 % 4096 = 0 ∧ recField img 64 40 ≠ 0 ∧ recField img 64 40 % 4 = 0 ∧ recField img 132 2 ≠ 3)
/-- `wexpose` (17 R357): the image and the descriptor's place are translated first, then the image is checked. -/
def State.expose (s : State) (k w : Nat) (m : Cmd) : State :=
  let va := m.regs.headD 0
  let bad := fun (s : State) (code : BitVec 16) => s.finish k m (.error code 0 va 0)
  match m.delivered with
  | some code => bad s (deliveredCode code)
  | none =>
    match s.engineRead k va.toNat 64 4 with
    | (.error f, s) => s.cmdFault k m 4 f 0 0 0
    | (.ok (bs, _), s) =>
    match s.xlatRange k ((s.cluster k).descAt w) 64 .write false false with
    | (.error f, s) => s.cmdFault k m 4 f 1 0 0
    | (.ok ds, s) =>
      let img := recOfBytes bs
      let c := s.cluster k
      if w = 4095 ∨ (c.selOf w).any (·.valid) ∨ 64 ≤ (c.sel.filter (·.valid)).length ∨ !imageGood img then bad s cILLEGAL
      else if (c.selOf w).isSome then s
      else
        match s.xlatRange k (recField img 0 56) (recField img 64 40) .read false false with
        | (.error _, s) => bad s cPERM
        | (.ok cs, s) =>
          if cs.any (fun x => !ptePIN x.leaf || (recField img 129 3 != 0 && !pteW x.leaf)) then bad s cPERM
          else
            let d := exposed img
            let e : Sel := { win := w, desc := d, ep := .closed, fgen := 0, marks := [], nextMarks := [], held := [], fence := none, posted := [],
                             holders := [], waiters := [] }
            (s.modCluster k (fun c => { c.writeChunks ds (bytesLE 64 d.toNat) false with sel := c.sel ++ [e], revoked := c.revoked.erase w })).finish k m .normal
/-- The commands of this cluster that wait on window `w` (17 R356). -/
def Cluster.waitingOn (c : Cluster) (w : Nat) : List Cmd :=
  c.cmds.filter (fun m => match m.instr with
    | .wfence _ v _ => v.toNat == w
    | .wwait _ v => v.toNat == w
    | _ => false)
/-- `wrevoke` takes effect: VALID falls, and everything that waits on the Window is refused; a stored post notice, already answered, leaves its record. -/
def State.revoke (s : State) (k w : Nat) (m : Cmd) (e : Sel) : State :=
  let at_ := (s.cluster k).descAt w + 16
  let bad := fun (s : State) (code : BitVec 16) => s.finish k m (.error code 0 0 0)
  match m.delivered with
  | some code => bad s (deliveredCode code)
  | none =>
    match s.engineRead k at_ 8 4 with
    | (.error f, s) => s.cmdFault k m 4 f 0 0 0
    | (.ok (bs, _), s) =>
      match s.engineWrite k at_ 4 (bytesLE 8 (field (leNat bs) 0 6)) false with
      | (.error f, s) => s.cmdFault k m 4 f 1 0 0
      | (.ok _, s) =>
        let posts := (s.cluster k).notices.filter (fun n => n.1 == w)
        let gone := fun (e : Sel) => { e with
          desc := recSet e.desc 134 1 0, ep := .closed, marks := [], nextMarks := [], held := [], fence := none, posted := [], holders := [], waiters := [] }
        let s := s.modCluster k (fun c =>
          { c.modSel w gone with notices := c.notices.filter (fun n => n.1 != w), revoked := w :: c.revoked.erase w })
        let s := (e.held ++ e.waiters.map (·.reply)).foldl (fun s p => s.refuse k p cWINDOW) s
        let s := posts.foldl (fun s n => s.errCluster k 0 2 4 cWINDOW 0 (BitVec.ofNat 64 (n.1 % 4096 + 2 ^ 12 * (n.2.1 % 2048) + 2 ^ 23 * (n.2.2 % 64)))) s
        let s := ((s.cluster k).waitingOn w).foldl (fun s q => s.finish k q (networkError cWINDOW)) s
        s.modCluster k (fun c => c.setCmd { m.taken with phase := 1 })
/-- A command of the epoch and exposure instructions goes on; it starts once the earlier writes of its Context have taken effect, since the epoch that it opens writes them back (16 R344). -/
def State.epochStep (s : State) (k : Nat) (m : Cmd) : State :=
  let c := s.cluster k
  let ready := m.started || (c.atHead m && !c.heldWrites.any (fun h => h.before m))
  if !ready then s
  else
    match m.instr with
    | .wexpose _ w _ => s.expose k w.toNat m
    | .wrevoke _ w =>
      if m.phase = 0 then
        (match c.selOf w.toNat with
        | some e => if e.valid then s.revoke k w.toNat m e else s.finish k m (.error cILLEGAL 0 0 0)
        | none => s.finish k m (.error cILLEGAL 0 0 0))
      else if c.admitted w.toNat then s
      else (s.setCluster k { c with sel := c.sel.filter (fun e => e.win != w.toNat) }).finish k m .normal
    | i =>
      match epochWin i with
      | none => s
      | some w =>
        match m.delivered with
        | some code => if m.phase = 0 then s.finish k m (networkError (deliveredCode code)) else s.epochGo k w m
        | none => if m.phase = 0 then s.epochStart k w m else s.epochGo k w m
/-- PACKET_SEND: the command's next packet, or the next step of an epoch command. -/
def State.packetSend (s : State) : State :=
  match s.argCmd with
  | none => s
  | some m =>
    match m.remote with
    | some r => if m.isPoll ∨ gatedArrival m.instr then s else s.sendOp s.arg.k m r
    | none => if m.eng = .network then s.epochStep s.arg.k m else s
def execPacketSend (s : State) : Out := .next s.packetSend

/-! Arriving packets (17 R349, R350, 20 R416, R417). -/

/-- What the Selvedge table decides. -/
inductive Verdict where
  | perform | hold | drop
  | refuse (code : BitVec 16)
  deriving DecidableEq, Repr
/-- The origin Context of a request (17 R355). -/
def Packet.ctx (p : Packet) : Nat := p.rtag / 256
/-- Admitted notices of a kind for window `w` (any, where none) that wait to be performed count toward the limits of 64 (17 R354, R355). -/
def Cluster.admittedOf (c : Cluster) (kind : BitVec 8) (w : Option Nat) : Nat :=
  (c.inbox.filter (fun p => p.adm && p.kind == kind && (match w with | some w => p.win == w | none => true))).length
/-- The second check for a packet that accesses the Window. -/
def Sel.epochCheck (e : Sel) (p : Packet) : Verdict :=
  if e.kind = 0 then
    if (e.ep = .opened ∨ e.ep = .closing) ∧ p.tag = e.fgen then .perform
    else if (e.ep = .gather ∨ e.ep = .closing) ∧ p.tag = e.fgen + 1 then (if e.held.length < 64 then .hold else .drop)
    else .refuse cWINDOW
  else if e.kind = 1 then (if e.posted.contains (p.sdev, p.scl) then .perform else .refuse cWINDOW)
  else if e.holders.any (fun h => decide (h.dev = p.sdev ∧ h.cl = p.scl ∧ h.ctx = p.ctx)) then .perform
  else .refuse cWINDOW
/-- The checks of 17 R350 in order. -/
def Cluster.verdict (c : Cluster) (p : Packet) : Verdict :=
  if p.wid.toNat ≠ c.winid then .refuse cWINDOW
  else if p.kind = kPOST then
    if c.revoked.contains p.win then .refuse cWINDOW else if 64 ≤ c.notices.length + c.admittedOf kPOST none then .drop else .perform
  else if p.win = 4095 then (if p.kind = kSPAWN ∨ p.kind = kJOIN then .perform else .refuse cWINDOW)
  else
    match c.selOf p.win with
    | none => .refuse cWINDOW
    | some e =>
      if !e.valid then .refuse cWINDOW
      else if p.kind = kMARKER then (if e.kind = 0 then .perform else .refuse cWINDOW)
      else if p.kind = kCOMPLETE then (if e.kind = 1 ∧ e.posted.contains (p.sdev, p.scl) then .perform else .refuse cWINDOW)
      else if p.kind = kLOCK then
        if e.kind ≠ 2 then .refuse cWINDOW else if 64 ≤ e.holders.length + e.waiters.length + c.admittedOf kLOCK (some p.win) then .drop else .perform
      else if p.kind = kUNLOCK then
        if e.kind = 2 ∧ e.holders.any (fun h => decide (h.dev = p.sdev ∧ h.cl = p.scl ∧ h.ctx = p.ctx)) then .perform else .refuse cWINDOW
      else
        match e.epochCheck p with
        | .perform => if e.allows p then .perform else .refuse cPERM
        | v => v
/-- No earlier ordered request of the same origin waits before place `i`. -/
def orderly (l : List Packet) (i : Nat) (p : Packet) : Bool :=
  !p.ordered || (l.take i).all (fun q => !q.ordered || q.rpl || q.sdev != p.sdev || q.scl != p.scl)
/-- PACKET_ADMIT: the request at place `arg.i` of the inbox is checked. -/
def State.packetAdmit (s : State) : State :=
  let k := s.arg.k
  let c := s.cluster k
  match c.inbox[s.arg.i]? with
  | none => s
  | some p =>
    if p.rpl ∨ p.adm ∨ !orderly c.inbox s.arg.i p then s
    else
      let at_ := c.oseqAt p.sdev p.scl + 2
      let exp : BitVec 16 := BitVec.ofNat 16 (leNat (c.l2Bytes at_ 2))
      let without := { c with inbox := c.inbox.eraseIdx s.arg.i }
      let step := fun (c : Cluster) => if p.ordered then c.writeL2 at_ (bytesLE 2 (exp + 1).toNat) false else c
      if p.ordered ∧ p.oseq ≠ exp then s.setCluster k without
      else
        match c.verdict p with
        | .perform => s.setCluster k (step { c with inbox := setAt c.inbox s.arg.i { p with adm := true } })
        | .hold => s.setCluster k (step (without.modSel p.win (fun e => { e with held := e.held ++ [p] })))
        | .drop => (s.setCluster k without).netSend { replyTo p kENACK with arg := if p.ordered then exp.setWidth 32 else 0 }
        | .refuse code => (s.setCluster k (step without)).refuse k p code
def execPacketAdmit (s : State) : Out := .next s.packetAdmit

/-! Performing admitted packets (17 R350, R353-R359). -/

/-- The admitted request of one of some kinds at place `arg.i`, taken out of the inbox. -/
def State.takeAdmitted (s : State) (kinds : List (BitVec 8)) : Option (Packet × State) :=
  let c := s.cluster s.arg.k
  match c.inbox[s.arg.i]? with
  | none => none
  | some p =>
    if p.adm ∧ !p.rpl ∧ kinds.contains p.kind ∧ orderly c.inbox s.arg.i p then
      some (p, s.setCluster s.arg.k { c with inbox := c.inbox.eraseIdx s.arg.i })
    else none
/-- How many of its elements an event performs of a packet: `arg.j`, or with 0 all that are left (16 R344, assumption 61). -/
def State.share (s : State) (p : Packet) : Nat := if s.arg.j = 0 ∨ p.elems ≤ p.part + s.arg.j then p.elems - p.part else s.arg.j
/-- Perform an admitted packet of one of some kinds; afterwards a round may end. -/
def State.performTaken (s : State) (kinds : List (BitVec 8)) : State :=
  match s.takeAdmitted kinds with
  | none => s
  | some (p, s) => (s.perform s.arg.k p (s.share p)).roundStep s.arg.k p.win
/-- PUT_PACKET. -/
def execPutPacket (s : State) : Out := .next (s.performTaken [kPUT])
/-- GETREQ_PACKET. -/
def execGetreqPacket (s : State) : Out := .next (s.performTaken [kGETREQ])
/-- ACC_PACKET. -/
def execAccPacket (s : State) : Out := .next (s.performTaken [kACCF, kACCI])
/-- RAMO_PACKET. -/
def execRamoPacket (s : State) : Out := .next (s.performTaken [kRAMO])
/-- RCAS_PACKET. -/
def execRcasPacket (s : State) : Out := .next (s.performTaken [kRCAS])
/-- ARRIVE. -/
def execArrive (s : State) : Out := .next (s.performTaken [kARRIVE])
/-- SPAWN_PACKET (12 R284): the record waits for the push step, which replies once it is appended. -/
def State.spawnPacket (s : State) : State :=
  match s.takeAdmitted [kSPAWN] with
  | none => s
  | some (p, s) =>
    s.modCluster s.arg.k (·.enqueue (.arrival (replyTo p kDONE)) (recOfBytes (padTo 64 p.payload)))
def execSpawnPacket (s : State) : Out := .next s.spawnPacket
/-- JOIN_PACKET (12 R285): a decrement at the slice, behind the records that arrived before it. -/
def State.joinPacket (s : State) : State :=
  if (s.cluster s.arg.k).pushes.any (fun q => match q.src with | .arrival _ => true | _ => false) then s
  else
    match s.takeAdmitted [kJOIN] with
    | none => s
    | some (p, s) =>
      match s.xlatRange s.arg.k p.off 64 .write false false with
      | (.error _, s) => s.refuse s.arg.k p cPERM
      | (.ok cs, s) =>
        let pa := (cs.map (·.pa)).headD 0
        let s := s.modCluster s.arg.k (fun c => c.countChunks 2 cs)
        let r := { replyTo p kDONE with pois := (s.cluster s.arg.k).joinBad pa }
        match s.joinAt s.arg.k 0 pa (BitVec.ofNat 64 p.off) (.joinReply r) with
        | (true, s) => s
        | (false, s) => s.netSend r
def execJoinPacket (s : State) : Out := .next s.joinPacket
/-- MARKER (17 R353). -/
def State.markerPacket (s : State) : State :=
  match s.takeAdmitted [kMARKER] with
  | none => s
  | some (p, s) =>
    let k := s.arg.k
    let from_ := (p.sdev, p.scl)
    match (s.cluster k).selOf p.win with
    | none => s
    | some e =>
      let t : BitVec 8 := p.arg.setWidth 8
      if t = e.fgen then ((s.modCluster k (fun c => c.modSel p.win (fun e => { e with marks := e.marks ++ [from_] }))).doneTo p false).roundStep k p.win
      else if t = e.fgen + 1 then (s.modCluster k (fun c => c.modSel p.win (fun e => { e with nextMarks := e.nextMarks ++ [from_] }))).doneTo p false
      else s.refusedRecord k p cWINDOW
def execMarker (s : State) : Out := .next s.markerPacket
/-- POST (17 R354): a notice is kept until a `wstart` consumes it; one for a Window that has been revoked, and not exposed since, is refused (17 R356). -/
def State.postPacket (s : State) : State :=
  match s.takeAdmitted [kPOST] with
  | none => s
  | some (p, s) =>
    if (s.cluster s.arg.k).revoked.contains p.win then s.refuse s.arg.k p cWINDOW
    else (s.modCluster s.arg.k (fun c => { c with notices := c.notices ++ [(p.win, p.sdev, p.scl)] })).doneTo p false
def execPost (s : State) : Out := .next s.postPacket
/-- COMPLETE (17 R354). -/
def State.completePacket (s : State) : State :=
  match s.takeAdmitted [kCOMPLETE] with
  | none => s
  | some (p, s) =>
    (s.modCluster s.arg.k (fun c => c.modSel p.win (fun e => { e with posted := e.posted.filter (· ≠ (p.sdev, p.scl)) }))).doneTo p false
def execComplete (s : State) : Out := .next s.completePacket
/-- Grant the lock requests that can be granted, in arrival order (17 R355); each grant opens an epoch. -/
def State.grantLocks (k w : Nat) : Nat → State → State
  | 0, s => s
  | n + 1, s =>
    match (s.cluster k).selOf w with
    | none => s
    | some e =>
      match e.waiters with
      | [] => s
      | q :: rest =>
        if e.holders.isEmpty ∨ (!q.ex ∧ e.holders.all (fun h => !h.ex)) then
          let s := s.modCluster k (fun c => c.openEpoch w (fun e => { e with waiters := rest, holders := e.holders ++ [q] }))
          State.grantLocks k w n (s.reply q.reply kGRANT)
        else s
/-- LOCK (17 R355): the mark beside its header asks for an exclusive lock (assumption 18). A Window that has been revoked since refuses it (17 R356). -/
def State.lockPacket (s : State) : State :=
  match s.takeAdmitted [kLOCK] with
  | none => s
  | some (p, s) =>
    let q : LockReq := { dev := p.sdev, cl := p.scl, ctx := p.ctx, ex := p.acq, reply := p }
    if !((s.cluster s.arg.k).selOf p.win).any (·.valid) then s.refuse s.arg.k p cWINDOW
    else State.grantLocks s.arg.k p.win 64 (s.modCluster s.arg.k (fun c => c.modSel p.win (fun e => { e with waiters := e.waiters ++ [q] })))
def execLock (s : State) : Out := .next s.lockPacket
/-- UNLOCK (17 R355). -/
def State.unlockPacket (s : State) : State :=
  match s.takeAdmitted [kUNLOCK] with
  | none => s
  | some (p, s) =>
    let drop := fun (e : Sel) => { e with holders := e.holders.filter (fun h => !decide (h.dev = p.sdev ∧ h.cl = p.scl ∧ h.ctx = p.ctx)) }
    State.grantLocks s.arg.k p.win 64 ((s.modCluster s.arg.k (fun c => c.modSel p.win drop)).doneTo p false)
def execUnlock (s : State) : Out := .next s.unlockPacket

/-! Whole steps: each instruction as the issue of a plain bundle that holds it. -/

def execWfence (e : EF) (w : BitVec 12) (mode : BitVec 2) (s : State) : Out :=
  issuePlain (.wfence e w mode) (effWfence e w mode) s
def execWpost (e : EF) (w : BitVec 12) (a : SReg) (s : State) : Out :=
  issuePlain (.wpost e w a) (effWpost e w a) s
def execWstart (e : EF) (w : BitVec 12) (a : SReg) (s : State) : Out :=
  issuePlain (.wstart e w a) (effWstart e w a) s
def execWcomplete (e : EF) (w : BitVec 12) (s : State) : Out :=
  issuePlain (.wcomplete e w) (effWcomplete e w) s
def execWwait (e : EF) (w : BitVec 12) (s : State) : Out :=
  issuePlain (.wwait e w) (effWwait e w) s
def execWlock (e : EF) (w : BitVec 12) (a : SReg) (ex : Bool) (s : State) : Out :=
  issuePlain (.wlock e w a ex) (effWlock e w a ex) s
def execWunlock (e : EF) (w : BitVec 12) (a : SReg) (s : State) : Out :=
  issuePlain (.wunlock e w a) (effWunlock e w a) s
def execWexpose (e : EF) (w : BitVec 12) (b : Reg4) (s : State) : Out :=
  issuePlain (.wexpose e w b) (effWexpose e w b) s
def execWrevoke (e : EF) (w : BitVec 12) (s : State) : Out :=
  issuePlain (.wrevoke e w) (effWrevoke e w) s

end Sys2Proof.Machine
end

