-- ==== Sys2Proof/Machine/Bundle.lean ====
section
/-! DEFINITION. Bundles: instruction fetch (03 R58), one issue of a whole bundle with its header effects and sticky slots (03 R59-R66), and the look-ahead nullifier (03 R77, R78). -/

namespace Sys2Proof.Machine

/-! Fetch. -/

/-- Why a fetch fails: ALIGN at a PC that no bundle can start at, PAGE for a translation miss, PERM for a page without X or U (03 R57, R58). -/
inductive FetchFail where
  | align
  | page (va : Nat)
  | perm (va : Nat)
  deriving DecidableEq, Repr

/-- Translate the bytes that a fetch takes; bytes are read as the core sees them. -/
def State.fetchBytes (s : State) (k va n : Nat) (h : Bool) : (Except FetchFail (List Byte)) × State :=
  match s.xlatRange k va n .fetch h true with
  | (.error (cause, _, va), s) => (.error (if cause ≤ 2 then .page va else .perm va), s)
  | (.ok cs, s) => (.ok ((s.cluster k).readChunks cs), s)
/-- The bytes of the bundle at the PC of Context `c`: the header first, then as many words as its mask names. -/
def State.fetch (s : State) (k c : Nat) : (Except FetchFail (List Byte)) × State :=
  let x := s.context k c
  let pc := x.pc.toNat
  if pc % 4 ≠ 0 then (.error .align, s)
  else
    match s.fetchBytes k pc 4 x.h with
    | (.error e, s) => (.error e, s)
    | (.ok hd, s) =>
      let n := 8 * popCount 5 (leNat hd / 2 ^ 27)
      if n = 0 then (.ok hd, s)
      else
        match s.fetchBytes k ((pc + 4) % 2 ^ 64) n x.h with
        | (.error e, s) => (.error e, s)
        | (.ok ws, s) => (.ok (hd ++ ws), s)
/-- The trap of a fetch that fails: it gives no slot (03 R58). -/
def FetchFail.trap (f : FetchFail) (pc : Word) (iter : Nat) : Trap :=
  let t := fun (code : BitVec 16) (a : Word) => { Trap.slotTrap code 7 iter with src := 1, addr := a }
  match f with
  | .align => t cALIGN pc
  | .page va => t cPAGE (BitVec.ofNat 64 va)
  | .perm va => t cPERM (BitVec.ofNat 64 va)
/-- FETCH_FAULT: the RUN Context of cluster `arg.k` fetches and the fetch fails; an error that is due, and a trap that firmware delivered, go first (21 R427). -/
def State.fetchFault (s : State) (k : Nat) : State :=
  match (s.cluster k).runCtx with
  | none => s
  | some c =>
    let x := s.context k c
    if (!x.errors.isEmpty ∧ !x.h) ∨ x.trapPending.isSome then s
    else match s.fetch k c with
    | (.error f, s) => s.enterTrap k c (f.trap x.pc x.iter) false
    | (.ok _, s) => s
def execFetchFault (s : State) : Out := .next (s.fetchFault s.arg.k)

/-! Slots. -/

/-- What a slot instruction does in an issue. Machine events stand in no slot. -/
def slotEffect : Instr → Effect
  | .nop g => effNop g
  | .li g d imm => effLi g d imm
  | .lih g d a imm => effLih g d a imm
  | .mov g d a => effMov g d a
  | .add g d a b => effAdd g d a b
  | .addi g d a imm => effAddi g d a imm
  | .sub g d a b => effSub g d a b
  | .mul g d a b => effMul g d a b
  | .mulh g d a b => effMulh g d a b
  | .mulhn g d a b => effMulhn g d a b
  | .div g d a b => effDiv g d a b
  | .divn g d a b => effDivn g d a b
  | .rem g d a b => effRem g d a b
  | .remn g d a b => effRemn g d a b
  | .and g d a b => effAnd g d a b
  | .andi g d a imm => effAndi g d a imm
  | .or g d a b => effOr g d a b
  | .ori g d a imm => effOri g d a imm
  | .xor g d a b => effXor g d a b
  | .xori g d a imm => effXori g d a imm
  | .shl g d a b => effShl g d a b
  | .shli g d a sh => effShli g d a sh
  | .shr g d a b => effShr g d a b
  | .shri g d a sh => effShri g d a sh
  | .sar g d a b => effSar g d a b
  | .sari g d a sh => effSari g d a sh
  | .min g d a b => effMin g d a b
  | .minn g d a b => effMinn g d a b
  | .max g d a b => effMax g d a b
  | .maxn g d a b => effMaxn g d a b
  | .clz g d a => effClz g d a
  | .ctz g d a => effCtz g d a
  | .popc g d a => effPopc g d a
  | .bfx g d a sx pos wm1 => effBfx g d a sx pos wm1
  | .bfi g d a b pos wm1 => effBfi g d a b pos wm1
  | .adds g d a b un => effAdds g d a b un
  | .sel g d a b p => effSel g d a b p
  | .cmp g e a b cc => effCmp g e a b cc
  | .cmpi g e a cc imm => effCmpi g e a cc imm
  | .pand g e p1 p2 => effPand g e p1 p2
  | .por g e p1 p2 => effPor g e p1 p2
  | .pxor g e p1 p2 => effPxor g e p1 p2
  | .pandn g e p1 p2 => effPandn g e p1 p2
  | .psetImm g e first count => effPsetImm g e first count
  | .psetReg g e a => effPsetReg g e a
  | .pcnt g d p => effPcnt g d p
  | .br g pop imm => effBr g pop imm
  | .brx g a pop => effBrx g a pop
  | .call g d imm => effCall g d imm
  | .callx g d a => effCallx g d a
  | .ret g a => effRet g a
  | .loop g a len y => effLoop g a len y
  | .loopi g count len y => effLoopi g count len y
  | .loopSwp g a sm1 len y => effLoopSwp g a sm1 len y
  | .endt g => effEndt g
  | .yield g imm => effYield g imm
  | .mfs g d num => effMfs g d num
  | .mts g a num => effMts g a num
  | .trap g code => effTrap g code
  | .sys g code => effSys g code
  | .eret g => effEret g
  | .rdtr g d i => effRdtr g d i
  | .ctxsave g d a b => effCtxsave g d a b
  | .ctxload g d a b => effCtxload g d a b
  | .park g a release => effPark g a release
  | .ptest g d a => effPtest g d a
  | .spawnLocal g a prio lv => effSpawnLocal g a prio lv
  | .spawnRemote g n a b prio lv => effSpawnRemote g n a b prio lv
  | .joinParent g n => effJoinParent g n
  | .joinRecord g a => effJoinRecord g a
  | .twaitImm g k1 k2 k3 k4 => effTwaitImm g k1 k2 k3 k4
  | .twaitReg g a => effTwaitReg g a
  | .ttestPred g e k1 k2 k3 k4 => effTtestPred g e k1 k2 k3 k4
  | .ttestPredReg g e a => effTtestPredReg g e a
  | .ttestScalar g d k => effTtestScalar g d k
  | .hwaitImm g loc h1 h2 h3 h4 => effHwaitImm g loc h1 h2 h3 h4
  | .hwaitReg g loc a => effHwaitReg g loc a
  | .htestPred g loc e h1 h2 h3 h4 => effHtestPred g loc e h1 h2 h3 h4
  | .htestPredReg g loc e a => effHtestPredReg g loc e a
  | .htestScalar g d h => effHtestScalar g d h
  | .htestOff g d h => effHtestOff g d h
  | .gbar g scope a n => effGbar g scope a n
  | .gbarArrive g scope d a n t => effGbarArrive g scope d a n t
  | .gbarWait g scope a b => effGbarWait g scope a b
  | .nopA g => effNopA g
  | .ld m x => effLd m x
  | .ldn m x => effLdn m x
  | .st m x => effSt m x
  | .ldv m c => effLdv m c
  | .stv m c => effStv m c
  | .ldg m c => effLdg m c
  | .sts m c => effSts m c
  | .ldb m u c => effLdb m u c
  | .stb m u c => effStb m u c
  | .baste m => effBaste m
  | .aadd m d => effAadd m d
  | .amov g x b => effAmov g x b
  | .ali g d imm => effAli g d imm
  | .alih g d b imm => effAlih g d b imm
  | .aofs g d b c => effAofs g d b c
  | .sofa g d b sr k z => effSofa g d b sr k z
  | .amoCas f => effAmoCas f
  | .amoSwap f => effAmoSwap f
  | .amoAdd f => effAmoAdd f
  | .amoFadd f => effAmoFadd f
  | .amoMin f => effAmoMin f
  | .amoMax f => effAmoMax f
  | .amoAnd f => effAmoAnd f
  | .amoOr f => effAmoOr f
  | .amoXor f => effAmoXor f
  | .fence g ord scope => effFence g ord scope
  | .waitm g b w acq scope off d cc => effWaitm g b w acq scope off d cc
  | .pcfg g c depth idx idxv => effPcfg g c depth idx idxv
  | .padv g c k => effPadv g c k
  | .pwaitFill g c k => effPwaitFill g c k
  | .pwaitFree g c k => effPwaitFree g c k
  | .pquery g d c => effPquery g d c
  | .agset g c b s0 => effAgset g c b s0
  | .agsetDetach g c => effAgsetDetach g c
  | .tlbinv g b off => effTlbinv g b off
  | .tlbinvAll g => effTlbinvAll g
  | .tlbinvAsid g a => effTlbinvAsid g a
  | .vadd f => effVadd f
  | .vsub f => effVsub f
  | .vmul f => effVmul f
  | .vmulh f => effVmulh f
  | .vmad f => effVmad f
  | .vmin f => effVmin f
  | .vmax f => effVmax f
  | .vabs f => effVabs f
  | .vneg f => effVneg f
  | .vand f => effVand f
  | .vor f => effVor f
  | .vxor f => effVxor f
  | .vnot f => effVnot f
  | .vshl f => effVshl f
  | .vshr f => effVshr f
  | .vsar f => effVsar f
  | .vclz f => effVclz f
  | .vpopc f => effVpopc f
  | .vadds f => effVadds f
  | .vsubs f => effVsubs f
  | .vfadd f => effVfadd f
  | .vfsub f => effVfsub f
  | .vfmul f => effVfmul f
  | .vfma f => effVfma f
  | .vfnma f => effVfnma f
  | .vfmin f => effVfmin f
  | .vfmax f => effVfmax f
  | .vfabs f => effVfabs f
  | .vfneg f => effVfneg f
  | .vrcp f => effVrcp f
  | .vrsq f => effVrsq f
  | .vsqrt f => effVsqrt f
  | .vexp2 f => effVexp2 f
  | .vlog2 f => effVlog2 f
  | .vsig f => effVsig f
  | .vcvt f => effVcvt f
  | .vcvts f => effVcvts f
  | .vqnt f => effVqnt f
  | .vdqnt f => effVdqnt f
  | .vbmax f => effVbmax f
  | .vscale f => effVscale f
  | .vsacc f => effVsacc f
  | .vplane f => effVplane f
  | .vunplane f => effVunplane f
  | .vcmp f => effVcmp f
  | .vfcmp f => effVfcmp f
  | .vclass f => effVclass f
  | .vsel f => effVsel f
  | .vperm f => effVperm f
  | .vbcast f => effVbcast f
  | .vshift f => effVshift f
  | .vzip f => effVzip f
  | .vunzip f => effVunzip f
  | .vcompress f => effVcompress f
  | .vexpand f => effVexpand f
  | .vred f => effVred f
  | .vfred f => effVfred f
  | .vscan f => effVscan f
  | .vfscan f => effVfscan f
  | .vsort f => effVsort f
  | .vsegsum f => effVsegsum f
  | .vmov f => effVmov f
  | .vli f => effVli f
  | .vext f => effVext f
  | .vins f => effVins f
  | .vidx f => effVidx f
  | .vxpush f => effVxpush f
  | .nopE g => effNopE g
  | .mxcfgLoad e n b off => effMxcfgLoad e n b off
  | .mxcfgStore e n b off => effMxcfgStore e n b off
  | .mxgo e n => effMxgo e n
  | .mxzero e t cm1 step => effMxzero e t cm1 step
  | .mxshape e t hm1 lm1 i32 mm1 => effMxshape e t hm1 lm1 i32 mm1
  | .mxdrainC12 e t clr step => effMxdrainC12 e t clr step
  | .mxdrainAb e t clr b step => effMxdrainAb e t clr b step
  | .mxflag e t step => effMxflag e t step
  | .mxtw e t inv lm1 => effMxtw e t inv lm1
  | .mxbf e t b src step => effMxbf e t b src step
  | .xcfg e hm1 w16 => effXcfg e hm1 w16
  | .chgo e n => effChgo e n
  | .chset e n b space => effChset e n b space
  | .chq e n b now step => effChq e n b now step
  | .tjoin e => effTjoin e
  | .put f => effPut f
  | .get f => effGet f
  | .acc f => effAcc f
  | .ramo f => effRamo f
  | .rcas f => effRcas f
  | .wfence e w mode => effWfence e w mode
  | .wpost e w a => effWpost e w a
  | .wstart e w a => effWstart e w a
  | .wcomplete e w => effWcomplete e w
  | .wwait e w => effWwait e w
  | .wlock e w a ex => effWlock e w a ex
  | .wunlock e w a => effWunlock e w a
  | .wexpose e w b => effWexpose e w b
  | .wrevoke e w => effWrevoke e w
  | .nmadd e b step => effNmadd e b step
  | .nmtopk e b step => effNmtopk e b step
  | .nmpk e b step => effNmpk e b step
  | .nmbias e b => effNmbias e b
  | .nmfence e => effNmfence e
  | .gdisp e b xm1 prio lv => effGdisp e b xm1 prio lv
  | .hem e => effHem e
  | _ => fun _ w => .ok w

/-- A word that takes part in an issue. -/
def itemOf (sl : Slot) (w : Word) (n : BitVec 32) (sticky : Bool) : Item :=
  let r := decodeWord sl w
  { slot := sl, word := w, res := r, n := n, sticky := sticky, eff := match r with | .ok i => slotEffect i | .error _ => fun _ w => .ok w }
/-- The sticky word that an absent slot re-issues with KEEP = 1, its n one higher (03 R64). A word that is no instruction idles (it can come from a saved image only). -/
def stickyItem (sl : Slot) (st : Option Sticky) : List Item :=
  match st with
  | none => []
  | some w =>
    match decodeWord sl w.word with
    | .ok _ => [itemOf sl w.word (w.n + 1) true]
    | .error _ => []
/-- One slot of a bundle: its present word with n the index of the issue, or its sticky word. In a bundle that a redirected `eret` enters at ITER > 0 the first issue's n is that index (03 R62, assumption 93). -/
def slotItems (x : Context) (keep : Bool) (sl : Slot) (present : Option Word) (st : Option Sticky) : List Item :=
  match present with
  | some w => [itemOf sl w (BitVec.ofNat 32 x.iter) false]
  | none => if keep then stickyItem sl st else []
/-- The items of a bundle's next issue, in slot order. -/
def bundleItems (b : Bundle) (x : Context) : List Item :=
  slotItems x b.keep .s b.s none ++ slotItems x b.keep .a b.a x.sticky.a ++ slotItems x b.keep .v0 b.v0 x.sticky.v0
    ++ slotItems x b.keep .v1 b.v1 x.sticky.v1 ++ slotItems x b.keep .e b.e x.sticky.e
/-- The header of a bundle as its issue reads it. -/
def headerOf (b : Bundle) : Header :=
  { rep := b.rep.toNat, hwin := b.hwin, keep := b.keep, rstep := b.rstep, rsv := b.rsv, len := b.bytes }
/-! The look-ahead nullifier (03 R78). -/

/-- The guard reads all-false at this and the next `rep` issues, under the bundle's own shifts. -/
def falseThrough (h : Header) (g : Reg4) : Nat → Context → Bool
  | 0, x => x.preg g == 0 && (SMap.find x.pBad g.toNat).isNone
  | n + 1, x => x.preg g == 0 && (SMap.find x.pBad g.toNat).isNone && falseThrough h g n (if h.rstep then x.stageShift else x)
/-- The guard of an item lets the bundle be skipped. -/
def guardQuiet (x : Context) (h : Header) (written : List Nat) (ic : Nat) (g : Reg4) : Bool :=
  !x.predLoading g && settled x g.toNat ic
    && (decide (h.rep = 0) || (settledLater x g.toNat ic && !written.contains g.toNat)) && falseThrough h g h.rep x
/-- The bundle is skipped (03 R78): every condition of the rule, and nothing that decode finds wrong with it. -/
def skippable (cl : Cluster) (x : Context) (b : Bundle) : Bool :=
  let h := headerOf b
  let items := bundleItems b x
  let written := (items.map (fun (it : Item) => match it.res with | .ok i => predsWritten i | .error _ => [])).flatten
  decide (x.iter = 0) && !x.skipS && !h.hwin && h.rsv == 0 && !items.isEmpty
    && items.all (fun (it : Item) =>
      match it.res with
      | .error _ => false
      | .ok i => (decodeFault x it.slot i h.rep it.sticky).isNone && guardQuiet x h written cl.ic (guardOf i))
/-- The REP + 1 disabled issues: no ic passes, no slot acts; SRCOUNT counts every `vcvts` issue (02 R44). -/
def skipIssues (b : Bundle) (ic : Nat) : Nat → Context → Context
  | 0, x => x
  | n + 1, x =>
    let items := bundleItems b x
    let sr := (items.filter (fun (it : Item) => match it.res with | .ok (.vcvts _) => true | _ => false)).length
    let x := { x with srcount := x.srcount + BitVec.ofNat 64 sr }
    skipIssues b ic n (x.issued (headerOf b) items none ic)
/-- A bundle passes without taking an ic. -/
def State.skipBundle (s : State) (k c : Nat) (b : Bundle) : State :=
  let cl := s.cluster k
  let x := cl.context c
  if !skippable cl x b then s
  else if runaway cl x then s.enterTrap k c (Trap.slotTrap cRUNAWAY 7 0) false
  else s.modContext k c (skipIssues b cl.ic (b.rep.toNat + 1))
/-- BUNDLE_SKIP: the RUN Context of the current core passes the bundle. A bundle that no rule lets it skip leaves the state. -/
def execBundleSkip (b : Bundle) (s : State) : Out :=
  if Config.clusters ≤ s.cur then .fault .noSuchCluster
  else match (s.cluster s.cur).runCtx with
    | none => .fault .noRunningContext
    | some c => .next (s.skipBundle s.cur c b)

/-! Blocked Contexts (05 R104). -/

/-- The blocked issue of a Context, attempted once more without effect: does it still block for the cause recorded? A fetch that fails blocks no longer. -/
def State.stillBlocks (s : State) (k c : Nat) : Bool :=
  match s.fetch k c with
  | (.error _, _) => false
  | (.ok bs, s) =>
    match decodeBundle bs with
    | none => false
    | some (b, _) =>
      match issueResult s k c (headerOf b) (bundleItems b (s.context k c)) with
      | .error (.block cause _ _ _) => decide ((s.context k c).cause = some cause)
      | _ => false
/-- The cause of a BLOCKED Context is released: it becomes READY, released now. -/
def State.unblock (s : State) (k c : Nat) : State :=
  let x := s.context k c
  if x.st = .blocked ∧ !s.stillBlocks k c then
    s.modCluster k (fun cl => cl.modContext c (fun x => { x with st := .ready, release := cl.clk, cause := none }))
  else s
/-- A Context that has left PARKED with its cause recorded: BLOCKED if the cause is still held, else READY since the release (05 R104). -/
def State.settleUnparked (s : State) (k c : Nat) : State :=
  match (s.context k c).unparked with
  | none => s
  | some t =>
    let s := s.modContext k c (fun x => { x with unparked := none })
    if (s.context k c).st = .blocked ∧ !s.stillBlocks k c then
      s.modContext k c (fun x => { x with st := .ready, release := t, cause := none })
    else s
def State.settleReleases (s : State) (k : Nat) : State := ctxIds.foldl (fun s c => s.settleUnparked k c) s
/-- What follows an issue in which `park` released Contexts. -/
def thenSettle (s : State) : Out → Out
  | .next t => .next (t.settleReleases s.cur)
  | o => o
def execPark (g : Reg4) (a : SReg) (release : Bool) (s : State) : Out :=
  thenSettle s (issuePlain (.park g a release) (effPark g a release) s)
/-- BUNDLE_ISSUE: one issue of the bundle by the RUN Context of the current core. -/
def execBundleIssue (b : Bundle) (s : State) : Out := thenSettle s (issue (headerOf b) (bundleItems b) s)
/-- BLOCK_RELEASE: of Context `arg.c` of cluster `arg.k`. -/
def execBlockRelease (s : State) : Out := .next (s.unblock s.arg.k s.arg.c)
/-- WAITM_REREAD (08 R199): a Context blocked on a memory wait looks again; the issue that follows reads the word afresh. -/
def execWaitmReread (s : State) : Out :=
  .next (if (s.context s.arg.k s.arg.c).cause = some .memory then s.unblock s.arg.k s.arg.c else s)

end Sys2Proof.Machine
end

