-- ==== Sys2Proof/Machine/Kernel.lean ====
section
/-! DEFINITION. Kernels (13): the launch record and its checks, the hierarchy, admission, placement, stopping, parking and resumption. The events read `arg.i`, the kernel-table entry, or `arg.w`, the word written to KSUBMIT or KCTL. -/

namespace Sys2Proof.Machine

/-! The launch record (13 R286). -/

/-- Bits of the record from byte `off` on. -/
def kField (r : BitVec 2048) (off lo n : Nat) : Nat := field r.toNat (8 * off + lo) n
def kEntryPc (r : BitVec 2048) : Nat := kField r 0x00 0 64
def kFbase (r : BitVec 2048) : Nat := kField r 0x08 0 64
def kFsize (r : BitVec 2048) : Nat := kField r 0x10 0 32
/-- Number of levels less 1. -/
def kLevels (r : BitVec 2048) : Nat := kField r 0x10 32 3
def kSave (r : BitVec 2048) : Nat := kField r 0x18 0 64
def kGmax (r : BitVec 2048) : Nat := kField r 0x30 16 3
def kPeert (r : BitVec 2048) : Nat := kField r 0x38 0 64
def kWint (r : BitVec 2048) : Nat := kField r 0x40 0 64
/-- A level word. -/
structure KLevel where
  count : Nat
  dom : Nat
  pad : Bool
  scope : Nat
  prio : Nat
  pslo : Nat
  psn : Nat
  deriving DecidableEq, Repr

def kLevel (r : BitVec 2048) (j : Nat) : KLevel :=
  let o := 0x80 + 16 * j
  { count := kField r o 0 24 + 1, dom := kField r o 24 3, pad := kField r o 27 1 == 1, scope := kField r o 28 4, prio := kField r o 32 3,
    pslo := kField r o 64 12, psn := kField r o 76 12 }
def kLevelList (r : BitVec 2048) : List KLevel := (List.range (kLevels r + 1)).map (kLevel r)

/-! The hierarchy (13 R288, R289). A cluster is a pair: device, cluster. -/

def listNub {α : Type} [DecidableEq α] (l : List α) : List α := l.foldl (fun a x => if a.contains x then a else a ++ [x]) []
/-- Insert in ascending order of `f`. -/
def insertBy {α : Type} (f : α → Nat) (x : α) : List α → List α
  | [] => [x]
  | y :: t => if f x < f y then x :: y :: t else y :: insertBy f x t
def sortBy {α : Type} (f : α → Nat) (l : List α) : List α := l.foldl (fun a x => insertBy f x a) []
/-- The members of `S` grouped by a number, groups in the order of the list of numbers. -/
def groupBy (f : Nat × Nat → Nat) (keys : List Nat) (S : List (Nat × Nat)) : List (List (Nat × Nat)) :=
  keys.map (fun v => S.filter (fun q => f q == v))
/-- The units of a domain within a set (13 R288). -/
def unitsOf (dom : Nat) (S : List (Nat × Nat)) : List (List (Nat × Nat)) :=
  let byNum := sortBy (fun (q : Nat × Nat) => 48 * q.1 + q.2) S
  let asc := fun (f : Nat × Nat → Nat) => sortBy id (listNub (S.map f))
  match dom with
  | 0 => (byNum.map (fun q => List.replicate 4 [q])).flatten
  | 1 => byNum.map (fun q => [q])
  | 2 => groupBy (fun q => 12 * q.1 + stackOf q.2) (asc (fun q => 12 * q.1 + stackOf q.2)) byNum
  | 3 => groupBy (fun q => 4 * q.1 + dieOf q.2) (asc (fun q => 4 * q.1 + dieOf q.2)) byNum
  | 4 => groupBy (fun q => q.1) (asc (fun q => q.1)) byNum
  | _ => groupBy (fun q => q.1) (listNub (S.map (fun q => q.1))) S
/-- The instance indices of unit `u` of `U` under PACK or PAD, each with its phantom mark (13 R289). -/
def instances (l : KLevel) (U u : Nat) : List (Nat × Bool) :=
  if l.pad then
    let c := (l.count + U - 1) / U
    (List.range c).map (fun i => (u * c + i, decide (l.count ≤ u * c + i)))
  else
    let q := l.count / U
    let r := l.count % U
    (List.range (if u < r then q + 1 else q)).map (fun i => (u * q + Nat.min u r + i, false))
/-- A leaf instance: its cluster, its index at each level, whether it is phantom. -/
structure Leaf where
  at_ : Nat × Nat
  idx : List Nat
  tail : Bool
  deriving DecidableEq, Repr

/-- The leaf instances below a set, in ascending order of their indices. -/
def leavesOf : List KLevel → List (Nat × Nat) → List Nat → Bool → List Leaf
  | [], S, idx, tail =>
    match S with
    | [] => []
    | q :: _ => [{ at_ := q, idx := idx, tail := tail }]
  | l :: rest, S, idx, tail =>
    let us := unitsOf l.dom S
    ((us.zipIdx.map (fun p => (instances l us.length p.2).map (fun i => leavesOf rest p.1 (idx ++ [i.1]) (tail || i.2)))).flatten).flatten
/-- Some level spreads U units so that U × ⌈C/U⌉ exceeds 2^24 under PAD, below an instance that a unit receives; answers the first such level. -/
def padBad : List KLevel → Nat → List (Nat × Nat) → Option Nat
  | [], _, _ => none
  | l :: rest, j, S =>
    let us := unitsOf l.dom S
    let U := us.length
    if l.pad ∧ U ≠ 0 ∧ 2 ^ 24 < U * ((l.count + U - 1) / U) then some j
    else ((us.take (if l.pad then U else l.count)).filterMap (fun t => padBad rest (j + 1) t)).min?

/-! The root set (13 R288). -/

/-- The clusters that a run of peer-table entries names, read through the page table of cluster `k`; an entry that cannot be read or names no cluster adds none. -/
def State.peersOf (s : State) (k base : Nat) (first n : Nat) : List (Nat × Nat) :=
  (List.range n).filterMap (fun i =>
    match (s.dieRead k (base + 8 * (first + i)) 8).1 with
    | .ok (bs, false) =>
      let v := leNat bs
      if field v 17 1 = 1 ∧ field v 0 11 ≤ Config.maxDevice ∧ field v 11 6 < Config.clusters then some (field v 0 11, field v 11 6) else none
    | _ => none)
/-- The root set of a record. Cluster `k` lends its page table for the peer table. -/
def State.rootSet (s : State) (k : Nat) (r : BitVec 2048) : List (Nat × Nat) :=
  let l := kLevel r 0
  if l.dom = 5 then listNub (s.peersOf k (field (kPeert r) 12 44 * 4096) l.pslo (l.psn + 1))
  else clusterIds.map (fun q => (s.deviceNo, q))
/-- What is wrong with a level word, as the byte offset of the first bad field ÷ 8 (13 R287). -/
def levelBad (r : BitVec 2048) (j : Nat) : Option Nat :=
  let l := kLevel r j
  let least := if l.dom = 5 then 7 else l.dom + 1
  if 5 < l.dom ∨ (l.dom = 5 ∧ j ≠ 0) ∨ (j ≠ 0 ∧ (kLevel r (j - 1)).dom < l.dom) ∨ l.scope < least ∨ 9 < l.scope then some (16 + 2 * j)
  else if l.dom = 5 ∧ 4095 < l.pslo + l.psn then some (17 + 2 * j)
  else none
/-- The first bad field of a record (13 R287), as its byte offset ÷ 8. -/
def State.badField (s : State) (k : Nat) (r : BitVec 2048) : Option Nat :=
  if kEntryPc r % 4 ≠ 0 then some 0
  else if kFsize r = 0 ∨ kFsize r % 64 ≠ 0 then some 2
  else if kSave r % 4096 ≠ 0 then some 3
  else
    let pad := (padBad (kLevelList r) 0 (s.rootSet k r)).map (fun j => 16 + 2 * j)
    match (List.range (kLevels r + 1)).findSome? (levelBad r), pad with
    | none, p => p
    | some a, none => some a
    | some a, some b => some (Nat.min a b)

/-! Submission and control (13 R291-R293). -/

/-- KERNEL_TABLE_WRITE: the host writes `arg.bytes` at offset `arg.i` of the kernel table; bytes of an entry that is not FREE are discarded. -/
def State.kernelTableWrite (s : State) : State :=
  (s.arg.bytes.zipIdx s.arg.i).foldl (fun s p =>
    let i := p.2 / 256
    if 65536 ≤ p.2 ∨ (s.kernel i).st ≠ .free then s
    else s.modKernel i (fun e => { e with table := BitVec.ofNat 2048 (setField e.table.toNat (8 * (p.2 % 256)) 8 p.1.toNat) })) s
def execKernelTableWrite (s : State) : Out := .next (s.controlWrite s.arg.bytes.length State.kernelTableWrite)
/-- KSUBMIT: the word `arg.w`. `arg.k` is the cluster whose page table shows the peer table. -/
def State.ksubmit (s : State) : State :=
  let i := field s.arg.w.toNat 0 8
  let e := s.kernel i
  if s.stage ≠ 3 ∨ s.arg.w.toNat / 256 ≠ 0 ∨ e.st ≠ .free then s
  else
    let s := { s with hostSeq := s.hostSeq + 1 }
    match s.badField s.arg.k e.table with
    | some f =>
      s.modKernel i (fun e => { KEntry.reset with table := e.table, rcd := e.table, st := .faulted, code := cILLEGAL, badf := BitVec.ofNat 8 f })
    | none => s.modKernel i (fun e => { KEntry.reset with table := e.table, rcd := e.table, st := .submitted, seq := s.hostSeq })
def execKsubmit (s : State) : Out := .next (s.controlWrite 8 State.ksubmit)
/-- The entry that a KCTL word with operation `op` acts on; a word with reserved bits is discarded, and so is every one before stage 3 (22 R432). -/
def State.kctlEntry (s : State) (op : Nat) : Option Nat :=
  if s.stage ≠ 3 ∨ s.arg.w.toNat / 1024 ≠ 0 ∨ field s.arg.w.toNat 8 2 ≠ op then none else some (field s.arg.w.toNat 0 8)

/-! Admission (13 R294, R295). -/

/-- ADMISSION_RESET of a Context. -/
def Context.admitReset (x : Context) : Context :=
  { x with
    ports := [], drain := [], pleat := Pleat.off, v := [], qpos := 0, flights := [], seed := 0, srcount := 0, sticky := StickySet.none, vBad := [],
    toks := [], hnds := [], sWait := [], starts := [], locks := [], tickets := [], epochs := [], errors := [] }
/-- ADMISSION_RESET of a cluster (13 R295). Commands of an earlier Kernel that its freed Tokens and Handles no longer hold are dropped, but for those that its stack engine serves; stores on their way stay. -/
def Cluster.admitReset (c : Cluster) : Cluster :=
  let cmds := c.cmds.filter (fun m => decide (m.eng = .stack))
  { c with
    ctx := c.ctx.map (fun p => (p.1, p.2.admitReset)), latch := 0x7F7F7F7F7F7F7F7F, latchFlights := [], tiles := [], nests := [], wb := [], ab := [],
    wbPoison := [], abPoison := [], chans := [], sel := [], revoked := [], notices := [], inbox := c.inbox.filter (fun p => !p.adm), cmds := cmds,
    places := [], heldWrites := c.heldWrites.filter (·.late.isSome)
    faults := c.faults.filter (fun f => match f.waiter with
      | .cmd id => cmds.any (fun m => m.id == id)
      | .chan _ => false
      | _ => true) }
/-- What a die controller sets on a cluster before the first push (13 R294): ASID, the peer and window tables, the ageing profile, STOPF; then the host writes that came before KSUBMIT. -/
def State.admitCluster (s : State) (i k : Nat) (asid agelo agehi : Word) : State :=
  let e := s.kernel i
  let c := s.cluster k
  let c := { c with
    kernel := some i
    asid := keepBits asid 0 16
    peerbase := BitVec.ofNat 64 (field (kPeert e.rcd) 0 56)
    winbase := BitVec.ofNat 64 (field (kWint e.rcd) 12 44 * 4096 + field c.winbase.toNat 0 12)
    agelo := agelo
    agehi := keepBits agehi 0 48 }
  let c := ctxIds.foldl (fun c j => c.modContext j (fun x => { x with stopf := false })) c
  let c := if e.heldClusters.contains k then c else c.admitReset
  ((s.setCluster k c).applyIngress k (fun g => decide (g.seq < e.seq))).2
/-- The clusters of this device that a record's root set names. -/
def State.kernelClusters (s : State) (k : Nat) (r : BitVec 2048) : List Nat :=
  ((s.rootSet k r).filter (fun q => q.1 == s.deviceNo)).map (·.2)
/-- The records to place (13 R290): cluster and record, each cluster's in order. -/
def State.placement (s : State) (k : Nat) (r : BitVec 2048) : List (Nat × BitVec 512) :=
  let prio := (kLevel r (kLevels r)).prio
  let ls := (leavesOf (kLevelList r) (s.rootSet k r) [] false).filter (fun f => f.at_.1 == s.deviceNo)
  (ls.foldl (fun (a : SMap Nat × List (Nat × BitVec 512)) f =>
    let q := f.at_.2
    let x := SMap.get 0 a.1 q
    let frame : Word := BitVec.ofNat 64 (kFbase r + x * kFsize r)
    (SMap.put a.1 q (x + 1),
      (q, mkRecord (BitVec.ofNat 64 (kEntryPc r)) frame prio f.tail false prio 0 0 (packElems 24 f.idx)) :: a.2)) ([], [])).2.reverse
/-- No other Kernel runs on or holds a cluster. -/
def State.clustersFree (s : State) (i : Nat) (ks : List Nat) : Bool :=
  ks.all (fun k => (s.cluster k).kernel == none || (s.cluster k).kernel == some i)
/-- Firmware's profile words in the event: ASID in `arg.v`, AGELO and AGEHI in `arg.bytes`. -/
def State.admitAll (s : State) (i : Nat) (ks : List Nat) : State :=
  let word := fun (o : Nat) => BitVec.ofNat 64 (leNat ((s.arg.bytes.drop o).take 8))
  ks.foldl (fun s k => s.admitCluster i k s.arg.v (word 0) (word 8)) s
/-- Admission of a Kernel none of whose records has been placed. -/
def State.admission (s : State) (i : Nat) : State :=
  let e := s.kernel i
  let ks := s.kernelClusters s.arg.k e.rcd
  if !s.clustersFree i ks then s
  else
    let place := s.placement s.arg.k e.rcd
    (s.admitAll i ks).modKernel i (fun e => { e with st := .running, clusters := ks, place := place, wanted := false })
/-- LEAF_PLACEMENT_PUSH: the next record of cluster `arg.k` joins the controller's pushes, which wait for room behind the others of their clk (12 R281). -/
def State.placeOne (s : State) (i k : Nat) : State :=
  let e := s.kernel i
  match e.place.find? (fun p => p.1 == k) with
  | none => s
  | some p =>
    if e.st ≠ .running ∨ e.loading.contains k then s
    else (s.modCluster k (·.enqueue .controller p.2 true)).modKernel i (fun e => { e with place := e.place.erase p })

/-! The end of a Kernel (13 R293, R296). -/

/-- The live count of a cluster: records in its levels and on their way, and Contexts with a task. -/
def Cluster.liveCount (c : Cluster) : Nat :=
  (levelIds.map (fun j => (c.level j).size)).foldl (· + ·) 0 + c.pushes.length + (ctxIds.filter (fun i => (c.context i).live)).length
/-- A cluster given back to firmware: nothing of the Kernel is left on it but the stop's park requests, which end. -/
def Cluster.giveBack (c : Cluster) : Cluster :=
  ctxIds.foldl (fun c i => c.modContext i (fun x =>
    if x.live then x
    else { x with parkReq := false, st := if x.st = .parked then .free else x.st })) { c with kernel := none }
/-- KERNEL_DONE. -/
def State.kernelDone (s : State) (i : Nat) : State :=
  let e := s.kernel i
  if (e.st = .running ∨ e.st = .stopping) ∧ e.place.isEmpty ∧ e.saved.isEmpty ∧ e.drained.isEmpty ∧ e.loading.isEmpty ∧ e.clusters.all (fun k => (s.cluster k).liveCount == 0) then
    (e.clusters.foldl (fun s k => s.modCluster k Cluster.giveBack) s).modKernel i (fun e =>
      { e with st := .done, clusters := [], heldClusters := [], stopAt := [] })
  else s
def execKernelDone (s : State) : Out := .next (s.kernelDone s.arg.i)
/-- KCTL_END: FAULTED with code STOPPED. -/
def State.kctlEnd (s : State) : State :=
  match s.kctlEntry 2 with
  | none => s
  | some i =>
    match (s.kernel i).st with
    | .submitted | .running | .stopping | .parked => s.faultKernel i cSTOPPED 0
    | _ => s
def execKctlEnd (s : State) : Out := .next (s.controlWrite 8 State.kctlEnd)
/-- FIRMWARE_END_KERNEL: firmware's code in `arg.v`; a reserved one counts as ILLEGAL (21 R423). -/
def execFirmwareEndKernel (s : State) : Out :=
  .next (match (s.kernel s.arg.i).st with
    | .running | .stopping => s.faultKernel s.arg.i (deliveredCode (s.arg.v.setWidth 16)) 0
    | _ => s)
/-- KCTL_RELEASE. -/
def State.kctlRelease (s : State) : State :=
  match s.kctlEntry 3 with
  | none => s
  | some i =>
    match (s.kernel i).st with
    | .done | .faulted => s.modKernel i (fun e => { KEntry.reset with table := e.table })
    | _ => s
def execKctlRelease (s : State) : Out := .next (s.controlWrite 8 State.kctlRelease)

/-! Stopping and parking (13 R297-R299). -/

/-- T_eng of R301, with slice operands. -/
def tEng (r : BitVec 2048) : Nat := Nat.max (32 * (4 ^ kGmax r * 1100 + 88)) (Nat.max (4 * 16448) (64 * 294976))
/-- A block that a stop parks at once (13 R297 step 4): it may wait on another party, or on the Context itself. Of the network port's commands `wexpose` and `wrevoke` wait on none (assumption 71). -/
def Cluster.remoteBlock (c : Cluster) (x : Context) : Bool :=
  match x.cause with
  | some .handle | some .barrier | some .window | some .memory | some .portFull => true
  | some .engine => decide (x.causeEng = .network)
  | some .token => c.cmds.any (fun m => x.awaits.contains m.id && decide (m.eng = .network) && (match m.instr with | .wexpose .. => false | .wrevoke .. => false | _ => true))
  | _ => false
/-- Save Context `j` of cluster `k` (13 R297, R299). A save that faults takes the Kernel to FAULTED with code PAGE. -/
def State.saveContext (s : State) (i k j : Nat) : State :=
  let e := s.kernel i
  let x := s.context k j
  match s.xlatRange k (kSave e.rcd + imageBytes * j) imageBytes .write false false with
  | (.error _, s) => s.faultKernel i cPAGE 0
  | (.ok cs, s) =>
    ((s.modCluster k (fun c =>
      let c := c.writeChunks cs (ctxImage x) false
      { c with poison := imageMarks c.poison cs x })).keepImage x).modKernel i (fun e => { e with saved := e.saved ++ [(k, j)], heldClusters := if e.heldClusters.contains k then e.heldClusters else e.heldClusters ++ [k] })
/-- What a stop does with Context `j` of cluster `k`: park a blocked one whose time has come, and save a parked one once its Tokens and Handles are resolved. -/
def State.stopContext (s : State) (i k j : Nat) : State :=
  let e := s.kernel i
  if e.st ≠ .stopping ∨ !e.clusters.contains k ∨ e.saved.contains (k, j) then s
  else
    let c := s.cluster k
    let x := c.context j
    let late : Bool := match e.stopAt.find? (fun p => p.1 == k) with
      | some p => decide (p.2 + 2 * tEng e.rcd ≤ c.clk)
      | none => false
    let s := if x.st = .blocked ∧ (c.remoteBlock x || late) then s.modCluster k (fun c => c.park j) else s
    let x := s.context k j
    if x.live ∧ x.st = .parked ∧ (pendingToks x).isEmpty ∧ (pendingHnds x).isEmpty then s.saveContext i k j else s
def State.stopContexts (s : State) (i : Nat) : State :=
  (s.kernel i).clusters.foldl (fun s k => ctxIds.foldl (fun s j => s.stopContext i k j) s) s
/-- The start of a stop (13 R297): STOPF in every Context, park requests on FREE ones; blocked Contexts that wait on others are parked. -/
def State.stopKernel (s : State) (i : Nat) : State :=
  let ks := (s.kernel i).clusters
  let s1 := ks.foldl (fun s k => s.modCluster k (fun c => ctxIds.foldl (fun c j => c.modContext j (fun x =>
    { x with stopf := true, parkReq := x.parkReq || decide (x.st = .free) })) c)) s
  (s1.modKernel i (fun e => { e with st := .stopping, stopAt := ks.map (fun k => (k, (s.cluster k).clk)) })).stopContexts i
/-- KCTL_STOP. -/
def State.kctlStop (s : State) : State :=
  match s.kctlEntry 0 with
  | none => s
  | some i =>
    match (s.kernel i).st with
    | .submitted => s.modKernel i (fun e => { e with st := .parked, held := false })
    | .running => s.stopKernel i
    | _ => s
def execKctlStop (s : State) : Out := .next (s.controlWrite 8 State.kctlStop)
/-- PREEMPTION_STOP: firmware stops entry `arg.i`. -/
def execPreemptionStop (s : State) : Out := .next (if (s.kernel s.arg.i).st = .running then s.stopKernel s.arg.i else s)
/-- STOP_PARK_TIMEOUT: Context `arg.c` of cluster `arg.k` in the stop of entry `arg.i`. -/
def execStopParkTimeout (s : State) : Out := .next (s.stopContext s.arg.i s.arg.k s.arg.c)

/-- Every record of a level, oldest first: on chip, then in its ring. -/
def State.levelRecords (s : State) (k j : Nat) : (Except Unit (List (BitVec 512))) × State :=
  let c := s.cluster k
  let l := c.level j
  (List.range l.len).foldl (fun (a : (Except Unit (List (BitVec 512))) × State) n =>
    match a with
    | (.error e, s) => (.error e, s)
    | (.ok rs, s) =>
      match s.dieRead k (c.ringSlot j (l.first + n)) 64 with
      | (.error _, s) => (.error (), s)
      | (.ok (bs, _), s) => (.ok (rs ++ [recOfBytes bs]), s)) (.ok l.chip, s)
/-- Take the records of cluster `k` out of its levels, each oldest first (13 R297 step 7); pushes and continuations that waited for room can then enter. -/
def State.drainQueue (s : State) (i k : Nat) : State :=
  levelIds.foldl (fun s j =>
    if (s.kernel i).st ≠ .stopping then s
    else
      let marks := ((s.cluster k).level j).leafs
      match s.levelRecords k j with
      | (.error _, s) => s.faultKernel i cPAGE 0
      | (.ok rs, s) =>
        (s.modCluster k (fun c => c.setLevel j QLevel.empty)).modKernel i (fun e =>
          { e with drained := e.drained ++ rs.zipIdx.map (fun p => (k, j, p.1, marks.getD p.2 false)) })) s
/-- Write the records of cluster `k` to its save area: level 7 first, each level oldest first (13 R299). -/
def State.saveQueue (s : State) (i k : Nat) : State :=
  let e := s.kernel i
  let ls := levelIds.map (fun j => (e.drained.filter (fun p => p.1 == k && p.2.1 == j)).map (·.2.2))
  let head := (ls.map (fun rs => bytesLE 4 rs.length)).flatten ++ bytesLE 8 (bnat (e.heldClusters.contains k))
  let body := ls.reverse.flatten
  if e.st ≠ .stopping then s
  else match s.engineWrite k (kSave e.rcd + 0x88000) 4 (padTo 64 head ++ (body.map (fun p => recBytes p.1)).flatten) false with
    | (.error _, s) => s.faultKernel i cPAGE 0
    | (.ok _, s) => s.modKernel i (fun e => { e with leafs := e.leafs ++ [(k, body.map (·.2))] })
/-- Every Context of the stopped Kernel is FREE or saved, and nothing is on its way into a Queue. -/
def State.stopComplete (s : State) (i : Nat) : Bool :=
  let e := s.kernel i
  e.clusters.all (fun k =>
    let c := s.cluster k
    c.pushes.isEmpty && c.joins.isEmpty && ctxIds.all (fun j => !(c.context j).live || e.saved.contains (k, j)))
/-- KERNEL_PARKED: Contexts that can be saved are saved and the levels emptied; once nothing more can come into them, the records are written to the save areas and the entry is PARKED. Clusters that are not held go back to firmware. -/
def State.kernelParked (s : State) (i : Nat) : State :=
  let s := s.stopContexts i
  let s := (s.kernel i).clusters.foldl (fun s k => s.drainQueue i k) s
  if (s.kernel i).st ≠ .stopping ∨ !s.stopComplete i then s
  else
    let s := s.modKernel i (fun e => { e with leafs := [] })
    let s := (s.kernel i).clusters.foldl (fun s k => s.saveQueue i k) s
    let e := s.kernel i
    if e.st ≠ .stopping then s
    else
      let cold := e.clusters.filter (fun k => !e.heldClusters.contains k)
      (cold.foldl (fun s k => s.modCluster k Cluster.giveBack) s).modKernel i (fun e =>
        { e with st := .parked, held := !e.heldClusters.isEmpty, stopAt := [], drained := [], loading := [] })
def execKernelParked (s : State) : Out := .next (s.kernelParked s.arg.i)

/-! Resumption (13 R300). -/

/-- Push the saved records of a cluster, level 7 first; each keeps its OPRIO and waits for room as the controller's pushes do (12 R281). -/
def State.restoreQueue (s : State) (i k : Nat) : State :=
  let e := s.kernel i
  let marks := ((e.leafs.find? (fun p => p.1 == k)).map (·.2)).getD []
  match s.dieRead k (kSave e.rcd + 0x88000) 32 with
  | (.error _, s) => s.faultKernel i cPAGE 0
  | (.ok (hd, _), s) =>
    let n := ((List.range 8).map (fun j => leNat ((hd.drop (4 * j)).take 4))).foldl (· + ·) 0
    (List.range n).foldl (fun s m =>
      if (s.kernel i).st ≠ .running then s
      else match s.dieRead k (kSave e.rcd + 0x88040 + 64 * m) 64 with
        | (.error _, s) => s.faultKernel i cPAGE 0
        | (.ok (bs, _), s) =>
          let r := recOfBytes bs
          s.modCluster k (·.enqueue .controller (recSet r 448 64 1) (marks.getD m false))) s
/-- Load a saved image and release its park; STOPF, which the image holds set, is clear (13 R294, R300). -/
def State.restoreContext (s : State) (i k j : Nat) : State :=
  let e := s.kernel i
  if e.st ≠ .running then s
  else match s.dieRead k (kSave e.rcd + imageBytes * j) imageBytes with
    | (.error _, s) => s.faultKernel i cPAGE 0
    | (.ok (bs, _), s) =>
      let s := (s.loadImage k j bs).modCluster k (fun c => (c.modContext j (fun x => { x with stopf := false })).release j)
      s.settleUnparked k j
/-- Release what a stop parked on a cluster without a task. -/
def Cluster.releaseIdle (c : Cluster) : Cluster :=
  ctxIds.foldl (fun c j => if (c.context j).live then c else c.release j) c
/-- Once the saved records of cluster `k` are in its Queue: load its images, release its parks; then placement goes on. -/
def State.restoreCluster (s : State) (i k : Nat) : State :=
  let e := s.kernel i
  if e.st ≠ .running ∨ !e.loading.contains k ∨ (s.cluster k).pushes.any (fun p => p.src == .controller) then s
  else
    let s := (e.saved.filter (fun p => p.1 == k)).foldl (fun s p => s.restoreContext i k p.2) s
    if (s.kernel i).st ≠ .running then s
    else (s.modCluster k Cluster.releaseIdle).modKernel i (fun e =>
      { e with loading := e.loading.erase k, saved := e.saved.filter (fun p => p.1 != k), heldClusters := e.heldClusters.erase k })
/-- LEAF_PLACEMENT_PUSH: the controller's next work for cluster `arg.k`: what a resumption has still to load, then a record to place. -/
def execLeafPlacementPush (s : State) : Out := .next ((s.restoreCluster s.arg.i s.arg.k).placeOne s.arg.i s.arg.k)
/-- Resume a PARKED Kernel. While another Kernel runs on or holds one of its clusters, the resumption waits for firmware's admission. -/
def State.resumeKernel (s : State) (i : Nat) : State :=
  let e := s.kernel i
  if e.clusters.isEmpty then
    let s1 := s.admission i
    if (s1.kernel i).st = .parked then s1.modKernel i (fun e => { e with wanted := true }) else s1
  else if !s.clustersFree i e.clusters then s.modKernel i (fun e => { e with wanted := true })
  else
    let s1 := (s.admitAll i e.clusters).modKernel i (fun e => { e with st := .running, held := false, loading := e.clusters, wanted := false })
    e.clusters.foldl (fun s k => s.restoreQueue i k) s1
/-- KCTL_RESUME: firmware's admission words as for KERNEL_ADMIT. -/
def State.kctlResume (s : State) : State :=
  match s.kctlEntry 1 with
  | none => s
  | some i => if (s.kernel i).st = .parked then s.resumeKernel i else s
def execKctlResume (s : State) : Out := .next (s.controlWrite 8 State.kctlResume)
/-- KERNEL_ADMIT: firmware admits entry `arg.i`, or resumes it where a KCTL resume waits. `arg.k` is the cluster whose page table shows the peer table. -/
def execKernelAdmit (s : State) : Out :=
  .next (match (s.kernel s.arg.i).st with
    | .submitted => s.admission s.arg.i
    | .parked => if (s.kernel s.arg.i).wanted then s.resumeKernel s.arg.i else s
    | _ => s)

end Sys2Proof.Machine
end

