-- ==== Sys2Proof/Machine/Host.lean ====
section
/-! DEFINITION. The host port (20 R419-R422): RDMA to the apertures and to the control region (13 R291), the aperture table, and accesses of the die controllers (01 R19). -/

namespace Sys2Proof.Machine

/-! Apertures. -/

/-- HBASE and HSIZE of an aperture; a closed one has size 0 (20 R421). -/
def State.aperture (s : State) (k : Nat) : BitVec 40 × BitVec 34 := SMap.get (0, 0) s.apertures k
/-- Firmware runs in the die controllers (22 R432). -/
def State.firmware (s : State) : Bool := decide (2 ≤ s.stage.toNat)
/-- APERTURE_WRITE: firmware writes entry `arg.k`, HBASE `arg.w` and HSIZE `arg.v`; a write that breaks the limits leaves the entry. -/
def State.apertureWrite (s : State) : State :=
  let k := s.arg.k
  let base := field s.arg.w.toNat 0 40
  let size := field s.arg.v.toNat 0 34
  if !s.firmware ∨ Config.clusters ≤ k ∨ base / 2 ^ 34 ≠ k ∨ base % 4096 ≠ 0 ∨ size % 4096 ≠ 0 ∨ Config.metaBase < base % 2 ^ 34 + size then s
  else { s with apertures := SMap.put s.apertures k (BitVec.ofNat 40 base, BitVec.ofNat 34 size) }
def execApertureWrite (s : State) : Out := .next s.apertureWrite

/-- The bytes that stand in the staging buffer. -/
def State.stagingUsed (s : State) : Nat := (s.stagingBuf.map (fun p => p.2.bytes.length)).foldl (· + ·) 0
/-- A range of aperture `k` lies below HSIZE (20 R420). -/
def State.apertureOk (s : State) (k o n : Nat) : Bool :=
  decide (k < Config.clusters ∧ (s.aperture k).2 ≠ 0 ∧ o + n ≤ (s.aperture k).2.toNat)
/-- The message that a packet of an aperture write belongs to: with `arg.flag` the one in progress, else a new one of `arg.i` bytes, or of the packet's bytes where `arg.i` is 0, at offset `arg.w` of aperture `arg.k`. Else the NAK that answers it. -/
def State.hostMsg (s : State) : Except Output HostMsg :=
  let n := s.arg.bytes.length
  let len := if s.arg.i = 0 then n else s.arg.i
  if Config.mtu < n then .error .hostInvalid
  else match s.arg.flag, (s.qpair s.arg.c).msg with
  | true, some m => if n ≤ m.left then .ok m else .error .hostInvalid
  | false, none =>
    if Config.messageBytes < len ∨ len < n then .error .hostInvalid
    else if s.stage = 3 ∧ s.apertureOk s.arg.k s.arg.w.toNat len ∧ s.keyOk (1 + s.arg.k) then
      .ok { k := s.arg.k, pa := (s.aperture s.arg.k).1.toNat % 2 ^ 34 + s.arg.w.toNat, left := len, id := s.hostSeq + 1, each := decide (Config.ingressBytes < len) }
    else .error .hostError
  | _, _ => .error .hostInvalid
/-- A packet among the writes of a buffer: its bytes join those of its write, or begin it. A write stands at the place of its latest packet. -/
def addPacket (l : List Ingress) (g : Ingress) : List Ingress :=
  match l.find? (fun w => w.msg == g.msg) with
  | none => l ++ [g]
  | some w => l.filter (fun w => w.msg != g.msg) ++ [{ w with seq := g.seq, bytes := w.bytes ++ g.bytes, last := g.last, psns := w.psns ++ g.psns }]
/-- A packet of a message is taken: it enters the ingress buffer and is acknowledged, or waits in the staging buffer, or is dropped (20 R422). A write has its place in the ingress buffer, for all of its bytes, from its first packet or from the moment it leaves the staging buffer. -/
def State.takeWrite (s : State) (m : HostMsg) : State :=
  let n := s.arg.bytes.length
  let whole := decide (m.left = n)
  let g : Ingress := { seq := s.hostSeq + 1, pa := m.pa, bytes := s.arg.bytes, msg := if m.each then s.hostSeq + 1 else m.id,
                       len := if m.each then n else m.left, last := whole || m.each }
  let c := s.cluster m.k
  let held := c.ingress.any (fun w => w.msg == g.msg)
  let waits := s.stagingBuf.filter (fun p => p.1 == m.k)
  let x := s.qpair s.arg.c
  let goOn := fun (enters : Bool) => { s with hostSeq := s.hostSeq + 1 }.setQpair s.arg.c
    { x with psn := (x.psn + 1) % 2 ^ 24, msg := if whole then none else some { m with pa := m.pa + n, left := m.left - n }, held := x.held ++ [(x.psn, enters)] }
  if held ∨ (waits.isEmpty ∧ c.ingressUsed + g.len ≤ Config.ingressBytes) then
    ((goOn true).setCluster m.k { c with ingress := addPacket c.ingress g }).entered s.arg.c [x.psn]
  else if s.stagingUsed + n ≤ Config.stagingBytes then
    { goOn false with stagingBuf := s.stagingBuf.filter (fun p => p.1 != m.k) ++ (addPacket (waits.map (·.2)) { g with qp := s.arg.c, psns := [x.psn] }).map (fun w => (m.k, w)) }
  else s.answered [.hostDrop]
/-- HOST_RDMA_WRITE: one packet of an RDMA WRITE to an aperture, of at most the path MTU. -/
def State.hostWrite (s : State) : State :=
  match s.outOfTurn, s.hostMsg with
  | some os, _ => s.refused os
  | none, .ok m => s.takeWrite m
  | none, .error o => s.refused [o]
def execHostRdmaWrite (s : State) : Out := .next s.hostWrite
/-- HOST_INGRESS_APPLY (16 R342): the die controller applies the pending writes of cluster `arg.k` while none of its Contexts is RUN, READY or BLOCKED. -/
def State.ingressApply (s : State) (k : Nat) : State :=
  if ctxIds.any (fun i => match ((s.cluster k).context i).st with | .run | .ready | .blocked => true | _ => false) then s
  else (s.applyIngress k (fun _ => true)).2
def execHostIngressApply (s : State) : Out := .next (s.ingressApply s.arg.k)

/-! The control region (13 R291). -/

/-- PLIMIT as it reads (22 R438). -/
def State.plimitWord (s : State) : Word := BitVec.ofNat 64 (s.watts.toNat + 2 ^ 12 * s.pstep.toNat)
/-- The telemetry block (22 R440). -/
def State.telemetry (s : State) : Word :=
  BitVec.ofNat 64 (s.power.toNat + 2 ^ 12 * s.tdie.toNat + 2 ^ 20 * s.thbm.toNat + 2 ^ 28 * s.tstat.toNat)
def KState.code : KState → Nat
  | .free => 0 | .submitted => 1 | .running => 2 | .stopping => 3 | .parked => 4 | .done => 5 | .faulted => 6
/-- KSTAT of an entry (13 R292). -/
def KEntry.word (e : KEntry) : Word :=
  BitVec.ofNat 64 (e.st.code + 2 ^ 4 * bnat e.held + 2 ^ 8 * e.badf.toNat + 2 ^ 16 * e.code.toNat + 2 ^ 32 * e.ended.toNat)
/-- An entry of the aperture table as 16 bytes (20 R421). -/
def State.apertureBits (s : State) (k : Nat) : Nat := (s.aperture k).1.toNat + 2 ^ 64 * (s.aperture k).2.toNat
/-- The byte at an offset of the control region; a location that is write-only or not listed reads 0. -/
def State.controlByte (s : State) (o : Nat) : Byte :=
  let at_ := fun (v base : Nat) => (BitVec.ofNat 8 (v / 2 ^ (8 * (o - base))) : Byte)
  if o < 0x10000 then at_ (s.kernel (o / 256)).table.toNat (o / 256 * 256)
  else if o < 0x10800 then at_ (s.kernel ((o - 0x10000) / 8)).word.toNat (o / 8 * 8)
  else if 0x10810 ≤ o ∧ o < 0x10818 then at_ s.mstat.toNat 0x10810
  else if 0x10820 ≤ o ∧ o < 0x10828 then at_ s.plimitWord.toNat 0x10820
  else if 0x10840 ≤ o ∧ o < 0x10848 then at_ s.telemetry.toNat 0x10840
  else if 0x10900 ≤ o ∧ o < 0x10930 then at_ s.meas0.toNat 0x10900
  else if 0x10930 ≤ o ∧ o < 0x10960 then at_ s.meas1.toNat 0x10930
  else if 0x10960 ≤ o ∧ o < 0x10990 then at_ s.meas2.toNat 0x10960
  else if 0x10A00 ≤ o ∧ o < 0x10D00 then at_ (s.apertureBits ((o - 0x10A00) / 16)) (o / 16 * 16)
  else 0
/-- HOST_RDMA_READ of `arg.i` bytes at offset `arg.w` on queue pair `arg.c`: of the control region where `arg.flag` is set, else of aperture `arg.k`, where it writes back the release sets that its lines tag and reads at the L2 slice (16 R343). It takes the sequence numbers of its response's packets; one that was taken before is executed again and takes none. Each is served before the next, so no queue pair has 16 in progress. -/
def State.hostRead (s : State) : State :=
  let o := s.arg.w.toNat
  let n := s.arg.i
  let region := if s.arg.flag then 0 else 1 + s.arg.k
  let numbers := if s.readsAgain then 0 else Nat.max 1 ((n + Config.mtu - 1) / Config.mtu)
  match (if s.readsAgain then (if s.keyOk region then none else some [.hostError]) else s.refusal (some region)) with
  | some os => s.refused os
  | none =>
    if Config.messageBytes < n then s.refused [.hostInvalid]
    else if s.arg.flag then s.taken numbers [.hostData ((List.range n).map (fun i => s.controlByte (o + i))) false]
    else if !s.apertureOk s.arg.k o n then s.refused [.hostError]
    else
      let pa := (s.aperture s.arg.k).1.toNat % 2 ^ 34 + o
      let c := (s.cluster s.arg.k).flushSets (fun r => (linesOf pa n).contains r.tag)
      (s.setCluster s.arg.k c).taken numbers [.hostData (c.l2Bytes pa n) (c.poisoned pa n)]
def execHostRdmaRead (s : State) : Out := .next s.hostRead

/-! Die controllers (01 R19). -/

/-- A die controller may reach `n` bytes at a module physical address: slices 0 to 47, outside the metadata areas. -/
def dieMayReach (pa n : Nat) : Bool := decide (pa / 2 ^ 34 < Config.clusters ∧ pa % 2 ^ 34 + n ≤ Config.metaBase)
/-- DIE_CONTROLLER_ACCESS by die `arg.k` at module physical address `arg.w`: a write of `arg.bytes` where `arg.flag` is set, else a read of `arg.i` bytes. The controllers run from step 5 of power-up on (22 R432). A refused access writes nothing, answers poisoned, and is recorded. A controller makes no access to a slice of another die: that work goes as a message (01 R27). -/
def State.dieAccess (s : State) : State :=
  let pa := field s.arg.w.toNat 0 40
  let n := if s.arg.flag then s.arg.bytes.length else s.arg.i
  let k := pa / 2 ^ 34
  if Config.dies ≤ s.arg.k ∨ !s.firmware then s
  else if !dieMayReach pa n then
    let s1 := s.errRecord s.arg.k
      { w0 := errWord 7 10 0 63 0 63 15, addr := BitVec.ofNat 64 pa, info := 0, time := (s.cluster (12 * s.arg.k)).clk }
    { s1 with outbox := s1.outbox ++ [.dieData [] true] }
  else if dieOf k ≠ s.arg.k then s
  else if s.arg.flag then s.modCluster k (fun c => c.writeL2 (pa % 2 ^ 34) s.arg.bytes false)
  else
    let c := s.cluster k
    { s with outbox := s.outbox ++ [.dieData (c.l2Bytes (pa % 2 ^ 34) n) (c.poisoned (pa % 2 ^ 34) n)] }
def execDieControllerAccess (s : State) : Out := .next s.dieAccess

end Sys2Proof.Machine
end

