-- ==== Sys2Proof/Machine/Sha.lean ====
section
/-! DEFINITION. The digests that the module uses, as FIPS 180-4 defines them (00 R3): SHA-384 for images and measurements (22 R433, R436), SHA-256 inside LMS signatures (22 R433). Both are one function of the word size; their constants are computed from their definition, the fractions of roots of the first primes. -/

namespace Sys2Proof.Machine

/-- The number that bytes make, highest first. -/
def beNat (l : List Byte) : Nat := l.foldl (fun a b => 256 * a + b.toNat) 0
/-- `n` bytes of a number, highest first. -/
def bytesBE (n v : Nat) : List Byte := (bytesLE n v).reverse

/-- The greatest x + y with y below 2 ^ b whose k-th power is at most `n`. -/
def rootFrom (k n : Nat) : Nat → Nat → Nat
  | 0, x => x
  | b + 1, x => rootFrom k n b (if (x + 2 ^ b) ^ k ≤ n then x + 2 ^ b else x)
/-- The first `w` bits of the fraction of the k-th root of `p`. -/
def rootFraction (k w p : Nat) : Nat := rootFrom k (p * 2 ^ (k * w)) (w + 4) 0 % 2 ^ w
/-- The first eighty primes. -/
def shaPrimes : List Nat := (List.range 410).filter (fun n => decide (2 ≤ n) && (List.range n).all (fun d => decide (d < 2 ∨ n % d ≠ 0)))

/-- What sets the digests apart: bits of a word, rounds, the prime from which the initial value counts, words of the result, the amounts of the four mixing functions (the last a shift in `g0` and `g1`). -/
structure ShaKind where
  word : Nat
  rounds : Nat
  first : Nat
  out : Nat
  s0 : Nat × Nat × Nat
  s1 : Nat × Nat × Nat
  g0 : Nat × Nat × Nat
  g1 : Nat × Nat × Nat
  deriving DecidableEq, Repr

namespace ShaKind

def turn (h : ShaKind) (x n : Nat) : Nat := x / 2 ^ n + x * 2 ^ (h.word - n) % 2 ^ h.word
/-- Three turns of a word, or two turns and a shift, combined. -/
def mix (h : ShaKind) (m : Nat × Nat × Nat) (shift : Bool) (x : Nat) : Nat :=
  h.turn x m.1 ^^^ h.turn x m.2.1 ^^^ (if shift then x / 2 ^ m.2.2 else h.turn x m.2.2)
/-- A block's schedule and the working variables after some rounds: the latest sixteen words, oldest first, and the variables a to h. -/
def round (h : ShaKind) (st : List Nat × List Nat) (konst : Nat) : List Nat × List Nat :=
  let w := fun (i : Nat) => st.1.getD i 0
  let v := fun (i : Nat) => st.2.getD i 0
  let size := 2 ^ h.word
  let choice := (v 4 &&& v 5) ^^^ ((size - 1 - v 4) &&& v 6)
  let most := (v 0 &&& v 1) ^^^ (v 0 &&& v 2) ^^^ (v 1 &&& v 2)
  let up := v 7 + h.mix h.s1 false (v 4) + choice + konst + w 0
  let next := (w 0 + h.mix h.g0 true (w 1) + w 9 + h.mix h.g1 true (w 14)) % size
  (st.1.tail ++ [next], ((up + h.mix h.s0 false (v 0) + most) % size) :: st.2.take 3 ++ ((v 3 + up) % size) :: (st.2.drop 4).take 3)
/-- The hash value after a block of sixteen words. -/
def block (h : ShaKind) (consts : List Nat) (hash : List Nat) (bs : List Byte) : List Nat :=
  let words := (chunks (h.word / 8) 16 bs).map beNat
  let r := consts.foldl h.round (words, hash)
  (hash.zip r.2).map (fun p => (p.1 + p.2) % 2 ^ h.word)
/-- The message with a one bit, zeros and its length in bits, in whole blocks. -/
def padded (h : ShaKind) (m : List Byte) : List Byte :=
  let size := 2 * h.word
  let len := h.word / 4
  m ++ 0x80 :: List.replicate ((2 * size - 1 - len - m.length % size) % size) 0 ++ bytesBE len (8 * m.length)
def digest (h : ShaKind) (m : List Byte) : List Byte :=
  let p := h.padded m
  let consts := (shaPrimes.take h.rounds).map (rootFraction 3 h.word)
  let start := ((shaPrimes.drop h.first).take 8).map (rootFraction 2 h.word)
  let v := (chunks (2 * h.word) (p.length / (2 * h.word)) p).foldl (h.block consts) start
  ((v.take h.out).map (bytesBE (h.word / 8))).flatten

end ShaKind

/-- SHA-384: 48 bytes. -/
def sha384 (m : List Byte) : List Byte :=
  ShaKind.digest { word := 64, rounds := 80, first := 8, out := 6, s0 := (28, 34, 39), s1 := (14, 18, 41), g0 := (1, 8, 7), g1 := (19, 61, 6) } m
/-- SHA-256: 32 bytes. -/
def sha256 (m : List Byte) : List Byte :=
  ShaKind.digest { word := 32, rounds := 64, first := 0, out := 8, s0 := (2, 13, 22), s1 := (6, 11, 25), g0 := (7, 18, 3), g1 := (17, 19, 10) } m

end Sys2Proof.Machine
end

