-- ==== Sys2Proof/Machine/Sign.lean ====
section
/-! DEFINITION. The two signatures of a firmware image (22 R433, R434): ECDSA on P-384 (FIPS 186-5) and LMS_SHA256_M32_H15 with LMOTS_SHA256_N32_W4 (NIST SP 800-208), each verified under the public key in the fuses; and the two of a report (22 R437): ECDSA, and HSS of two levels of LMS_SHA256_M32_H20 with LMOTS_SHA256_N32_W8, made with the identity keys. -/

namespace Sys2Proof.Machine

/-! ECDSA on P-384. -/

/-- The field's prime, the curve's coefficient b (a is −3), the order of its base point, and that point. -/
def p384 : Nat := 2 ^ 384 - 2 ^ 128 - 2 ^ 96 + 2 ^ 32 - 1
def n384 : Nat := 0xffffffffffffffffffffffffffffffffffffffffffffffffc7634d81f4372ddf581a0db248b0a77aecec196accc52973
def b384 : Nat := 0xb3312fa7e23ee7e4988e056be3f82d19181d9c6efe8141120314088f5013875ac656398d8a2ed19d2a85c8edd3ec2aef
def g384 : Nat × Nat :=
  (0xaa87ca22be8b05378eb1c71ef320ad746e1d3b628ba79b9859f741e082542a385502f25dbf55296c3a545e3872760ab7,
   0x3617de4a96262c6f5d9e98bf9292dc29f8f41dbd289a147ce9da3113b5f0b8c00a60b1ce1d7e819d7a431d7c90ea0e5f)
/-- `x ^ e` modulo `m`, by the low `bits` bits of `e`. -/
def powMod (m : Nat) : Nat → Nat → Nat → Nat
  | 0, _, _ => 1 % m
  | bits + 1, x, e => (if e % 2 = 1 then x else 1) * powMod m bits (x * x % m) (e / 2) % m
/-- The inverse modulo a prime of 384 bits. -/
def invMod (m x : Nat) : Nat := powMod m 384 (x % m) (m - 2)
/-- A point of the curve; none is the point at infinity. -/
abbrev Point := Option (Nat × Nat)
/-- A line's slope through a point (x, y), as numerator and denominator, gives the third point from the sum of the two abscissas. -/
def alongLine (num den : Nat) (x y x2 : Nat) : Nat × Nat :=
  let m := num % p384 * invMod p384 den % p384
  let x3 := (m * m + 2 * p384 - x - x2) % p384
  (x3, (m * (x + p384 - x3) + p384 - y) % p384)
def addPoint (a b : Point) : Point :=
  match a, b with
  | none, b => b
  | a, none => a
  | some (x, y), some (u, v) =>
    if x ≠ u then some (alongLine (v + p384 - y) (u + p384 - x) x y u)
    else if y = v ∧ y ≠ 0 then some (alongLine (3 * x * x + p384 - 3) (2 * y) x y x)
    else none
/-- A multiple of a point, by the low `bits` bits of the factor. -/
def mulPoint : Nat → Nat → Point → Point
  | 0, _, _ => none
  | bits + 1, k, a => let rest := mulPoint bits (k / 2) (addPoint a a); if k % 2 = 1 then addPoint a rest else rest
/-- A pair is a point of the curve. -/
def onCurve (a : Nat × Nat) : Bool := decide (a.2 * a.2 % p384 = (a.1 * a.1 * a.1 + (p384 - 3) * a.1 + b384) % p384)
/-- The signature `r ‖ s` verifies over a digest of 384 bits under a public key. -/
def ecdsaVerify (key : Nat × Nat) (digest sig : List Byte) : Bool :=
  let r := beNat (sig.take 48)
  let s := beNat ((sig.drop 48).take 48)
  let w := invMod n384 s
  let a := addPoint (mulPoint 384 (beNat digest * w % n384) (some g384)) (mulPoint 384 (r * w % n384) (some key))
  onCurve key && decide (0 < r ∧ r < n384 ∧ 0 < s ∧ s < n384) && (match a with | some (x, _) => x % n384 == r | none => false)

/-- The signature `r ‖ s` over a digest, made with a private key and the secret number `k` of this signature. -/
def ecdsaSign (key k : Nat) (digest : List Byte) : List Byte :=
  let r := match mulPoint 384 (k % n384) (some g384) with | some (x, _) => x % n384 | none => 0
  bytesBE 48 r ++ bytesBE 48 (invMod n384 k * (beNat digest + r * key) % n384)

/-! LMS. A signature is the leaf's number, the one-time signature (its type, a random value and 67 values of 32 bytes), the tree's type and the path of 15 values. -/

/-- The 67 digits of 4 bits that sign a digest: those of the digest and those of its checksum. -/
def lmsDigits (q : List Byte) : List Nat :=
  let split : List Byte → List Nat := fun l => (l.map (fun b => [b.toNat / 16, b.toNat % 16])).flatten
  let d := split q
  d ++ (split (bytesBE 2 (16 * (d.map (15 - ·)).foldl (· + ·) 0))).take 3
/-- A chain of digests from step `j` on. -/
def lmsChain (pre : List Byte) : Nat → Nat → List Byte → List Byte
  | 0, _, t => t
  | left + 1, j, t => lmsChain pre left (j + 1) (sha256 (pre ++ bytesBE 1 j ++ t))
/-- The root that a leaf and its path give: `node` is the leaf's number in the tree. -/
def lmsClimb (id : List Byte) : List (List Byte) → Nat → List Byte → List Byte
  | [], _, t => t
  | p :: rest, node, t =>
    lmsClimb id rest (node / 2) (sha256 (id ++ bytesBE 4 (node / 2) ++ [0x83, 0x83] ++ (if node % 2 = 1 then p ++ t else t ++ p)))
/-- The signature verifies over a message under a public key: its identifier of 16 bytes and its root of 32. -/
def lmsVerify (id root msg sig : List Byte) : Bool :=
  let at_ := fun (o n : Nat) => (sig.drop o).take n
  let leaf := at_ 0 4
  let q := sha256 (id ++ leaf ++ [0x81, 0x81] ++ at_ 8 32 ++ msg)
  let ends := (lmsDigits q).zipIdx.map (fun d => lmsChain (id ++ leaf ++ bytesBE 2 d.2) (15 - d.1) d.1 (at_ (40 + 32 * d.2) 32))
  let node := 2 ^ 15 + beNat leaf
  let t := sha256 (id ++ bytesBE 4 node ++ [0x82, 0x82] ++ sha256 (id ++ leaf ++ [0x80, 0x80] ++ ends.flatten))
  decide (beNat leaf < 2 ^ 15 ∧ beNat (at_ 4 4) = 3 ∧ beNat (at_ 2184 4) = 7)
    && decide (lmsClimb id ((List.range 15).map (fun i => at_ (2188 + 32 * i) 32)) node t = root)

/-! HSS of two levels. The upper tree is tree 0; its leaf n signs the public key of tree n + 1, whose leaves sign messages. -/

/-- The first `n` bytes, with zeros where there are fewer. -/
def fitTo (n : Nat) (l : List Byte) : List Byte := padTo n (l.take n)
/-- The identifier of a tree. -/
def treeId (tree : Nat) : List Byte := fitTo 16 (Config.hssId tree)
/-- The 34 digits of 8 bits that sign a digest: those of the digest and those of its checksum. -/
def hssDigits (q : List Byte) : List Nat :=
  let d := q.map BitVec.toNat
  d ++ (bytesBE 2 ((d.map (255 - ·)).foldl (· + ·) 0)).map BitVec.toNat
/-- The one-time values of a leaf, each moved along its chain to the place that a list gives. -/
def hssValues (tree leaf : Nat) (steps : List Nat) : List Byte :=
  (steps.zipIdx.map (fun d => lmsChain (treeId tree ++ bytesBE 4 leaf ++ bytesBE 2 d.2) d.1 0 (fitTo 32 (Config.hssChain tree leaf d.2)))).flatten
/-- A node of a tree at a height above its 2 ^ 20 leaves. -/
def hssNode (tree : Nat) : Nat → Nat → List Byte
  | 0, node =>
    let leaf := node - 2 ^ 20
    let key := sha256 (treeId tree ++ bytesBE 4 leaf ++ [0x80, 0x80] ++ hssValues tree leaf (List.replicate 34 255))
    sha256 (treeId tree ++ bytesBE 4 node ++ [0x82, 0x82] ++ key)
  | h + 1, node => sha256 (treeId tree ++ bytesBE 4 node ++ [0x83, 0x83] ++ hssNode tree h (2 * node) ++ hssNode tree h (2 * node + 1))
/-- The LMS public key of a tree. -/
def hssPublic (tree : Nat) : List Byte := bytesBE 4 8 ++ bytesBE 4 4 ++ treeId tree ++ hssNode tree 20 1
/-- The LMS signature of a tree's leaf over a message. -/
def hssLeafSign (tree leaf : Nat) (msg : List Byte) : List Byte :=
  let c := fitTo 32 (Config.hssRandom tree leaf)
  let q := sha256 (treeId tree ++ bytesBE 4 leaf ++ [0x81, 0x81] ++ c ++ msg)
  let sibling := fun (h : Nat) => let n := (2 ^ 20 + leaf) / 2 ^ h; if n % 2 = 1 then n - 1 else n + 1
  bytesBE 4 leaf ++ bytesBE 4 4 ++ c ++ hssValues tree leaf (hssDigits q) ++ bytesBE 4 8
    ++ ((List.range 20).map (fun h => hssNode tree h (sibling h))).flatten
/-- The HSS signature over a message in the key's n-th state. -/
def hssSign (n : Nat) (msg : List Byte) : List Byte :=
  let upper := n / 2 ^ 20
  let key := hssPublic (upper + 1)
  bytesBE 4 1 ++ hssLeafSign 0 upper key ++ key ++ hssLeafSign (upper + 1) (n % 2 ^ 20) msg

end Sys2Proof.Machine
end

