-- ==== Sys2Proof/Machine/Device.lean ====
section
/-! DEFINITION. Power-up, firmware images, measurements, reset, power and temperature (22), and the registers that firmware writes through the die controllers (00 R8). -/

namespace Sys2Proof.Machine

/-! Firmware images (22 R433, R434). -/

def imgNat (l : List Byte) (o n : Nat) : Nat := leNat ((l.drop o).take n)
def imgHeader (l : List Byte) : List Byte := padTo 4096 (l.take 4096)
/-- SVN of an image. -/
def imgSvn (l : List Byte) : Nat := imgNat l 4 4
/-- The first check that an image fails, as BSTAT.CAUSE names it: 1 magic or length, 2 digest, 3 ECDSA, 4 LMS, 5 SVN; 0 for an accepted image. -/
def imageCause (fsvn : BitVec 6) (l : List Byte) : Nat :=
  let n := imgNat l 8 8
  let signed := (imgHeader l).take 128
  if imgNat l 0 4 ≠ 0x47504231 ∨ n < 4096 ∨ 2 ^ 26 < n ∨ n % 4096 ≠ 0 ∨ l.length < 4096 + n then 1
  else if (l.drop 0x10).take 48 ≠ sha384 ((l.drop 4096).take n) then 2
  else if !ecdsaVerify Config.ecdsaKey (sha384 signed) ((l.drop 0x80).take 96) then 3
  else if !lmsVerify Config.lmsId Config.lmsRoot signed ((l.drop 0x100).take 2668) then 4
  else if imgSvn l < fsvn.toNat ∨ 63 < imgSvn l then 5
  else 0
/-- A measurement extended (22 R436). The registers read with byte 0 of the digest lowest. -/
def extendMeas (m : BitVec 384) (d : List Byte) : BitVec 384 := BitVec.ofNat 384 (leNat (sha384 (bytesLE 48 m.toNat ++ d)))
/-- Steps 4 and 5 of power-up: the measurements, and firmware starts. -/
def State.startImage (s : State) (l : List Byte) : State :=
  { s with meas0 := extendMeas s.meas0 Config.romDigest, meas1 := extendMeas s.meas1 (imgHeader l), svn := BitVec.ofNat 6 (imgSvn l),
           stage := 2, failCause := 0 }
/-- The outcome of a verification: firmware starts, or recovery with its cause. -/
def State.bootImage (s : State) (l : List Byte) : State :=
  match imageCause s.fsvn l with
  | 0 => s.startImage l
  | n => { s with stage := 1, failCause := BitVec.ofNat 4 n, svn := 0 }
/-- POWER_UP: the boot ROM brings up the host port, reads the flash and verifies its image (22 R432). -/
def execPowerUp (s : State) : Out := .next (if s.stage = 0 ∧ !s.tripped then { s with hostUp := true }.bootImage s.flash else s)

/-! Recovery (22 R435). -/

/-- STAGING_WRITE: `arg.bytes` at offset `arg.w` of the staging area, in recovery only, and not while a verification runs. -/
def State.stagingWrite (s : State) : State :=
  if s.stage ≠ 1 ∨ s.verifying then s
  else { s with staging := (s.arg.bytes.zipIdx s.arg.w.toNat).foldl (fun m p => if p.2 < 2 ^ 26 then SMap.set 0 m p.2 p.1 else m) s.staging }
def execStagingWrite (s : State) : Out := .next (s.controlWrite s.arg.bytes.length State.stagingWrite)
/-- The staged image: its header names its length. -/
def State.stagedImage (s : State) : List Byte :=
  let byte := fun (i : Nat) => SMap.get 0 s.staging i
  let n := leNat ((List.range 8).map (fun i => byte (8 + i)))
  (List.range (Nat.min (4096 + n) (2 ^ 26))).map byte
/-- A write of 1 to RLOAD, in recovery: the boot ROM begins to verify the staged image. -/
def State.rload (s : State) : State := if s.stage = 1 ∧ s.arg.w = 1 then { s with verifying := true } else s
/-- The verification ends: an accepted image goes to the flash and firmware starts; a rejected one leaves the module in recovery. -/
def State.verified (s : State) : State :=
  if s.stage ≠ 1 ∨ !s.verifying then s
  else
    let s := { s with verifying := false }
    let l := s.stagedImage
    if imageCause s.fsvn l = 0 then { s with flash := l }.startImage l
    else { s with failCause := BitVec.ofNat 4 (imageCause s.fsvn l) }
/-- RLOAD: the host's write, or with `arg.flag` the end of the verification that it began. -/
def execRload (s : State) : Out := .next (if s.arg.flag then s.verified else s.controlWrite 8 State.rload)
/-- MINSVN: FSVN rises to VALUE where FSVN < VALUE ≤ SVN (22 R434). -/
def State.minsvn (s : State) : State :=
  let v := s.arg.w.toNat
  if 63 < v ∨ v ≤ s.fsvn.toNat ∨ s.svn.toNat < v then s else { s with fsvn := BitVec.ofNat 6 v }
def execMinsvn (s : State) : Out := .next (s.controlWrite 8 State.minsvn)

/-! Reset (22 R439, R441). -/

/-- What memory holds after a reset that leaves it undefined: whatever the event says, byte p of slice k at place 48p + k, zero beyond. -/
def memFrom (l : List Byte) (k : Nat) : List Host.Cell :=
  (l.zipIdx).foldl (fun m p => if p.2 % 48 = k then SMap.set 0 m (p.2 / 48) p.1 else m) []
/-- The module in reset: every register at its reset value, the host port down and its connections dropped; flash, fuses and the signing state stay, and so do the model's own records. -/
def State.resetModule (s : State) : State :=
  { State.reset with
    clusters := clusterIds.map (fun k => (k, { Cluster.reset with mem := memFrom s.arg.bytes k }))
    flash := s.flash, fsvn := s.fsvn, tstat := BitVec.ofNat 18 (2 ^ 6 * s.fsvn.toNat), hss := s.hss, outbox := s.outbox, agenda := s.agenda, arg := s.arg, cur := s.cur, free := s.free,
    lags := s.lags, storeLags := s.storeLags }
/-- MRESET: the word 0x5253_5431 resets the module; any other is ignored. -/
def State.mreset (s : State) : State := if s.arg.w = 0x52535431 then s.resetModule else s
def execMreset (s : State) : Out := .next (s.controlWrite 8 State.mreset)
/-- THERMAL_TRIP: a die at `arg.i` °C, 120 or more, stops every clock and holds the module in reset. -/
def execThermalTrip (s : State) : Out := .next (if 120 ≤ s.arg.i then { s.resetModule with tripped := true } else s)
/-- THERMAL_RECOVER: below 95 °C the module leaves reset, and power-up follows. -/
def execThermalRecover (s : State) : Out := .next (if s.tripped ∧ s.arg.i < 95 then { s with tripped := false } else s)

/-! Power and telemetry (22 R438, R440). -/

/-- PLIMIT: WATTS takes values from 1,000 to 2,800. -/
def State.plimit (s : State) : State :=
  let v := field s.arg.w.toNat 0 12
  if 1000 ≤ v ∧ v ≤ 2800 then { s with watts := BitVec.ofNat 12 v } else s
def execPlimit (s : State) : Out := .next (s.controlWrite 8 State.plimit)
/-- The main clock goes to another step: each cluster keeps the clk at which it left the old one, for times in µs. -/
def State.setStep (s : State) (p : BitVec 2) : State :=
  if p = s.pstep then s
  else { s with pstep := p, clusters := s.clusters.map (fun q => (q.1, { q.2 with steps := q.2.steps ++ [(q.2.clk, s.tick)] })) }
/-- POWER_STEP_DOWN: the average power over 1 ms, `arg.i` W, exceeds 2,800 W. -/
def execPowerStepDown (s : State) : Out := .next (if 2800 < s.arg.i ∧ s.pstep ≠ 3 then s.setStep (s.pstep + 1) else s)
/-- TELEMETRY_UPDATE: the block is renewed, with power `arg.i`, hottest die `arg.j`, hottest stack `arg.c`. -/
def execTelemetryUpdate (s : State) : Out :=
  .next { s with
    power := BitVec.ofNat 12 s.arg.i, tdie := BitVec.ofNat 8 s.arg.j, thbm := BitVec.ofNat 8 s.arg.c
    tstat := BitVec.ofNat 18 (s.stage.toNat + 2 ^ 2 * s.failCause.toNat + 2 ^ 6 * s.fsvn.toNat + 2 ^ 12 * s.svn.toNat) }

/-! Attestation (22 R437). -/

/-- The report on a nonce: the signed bytes 0x000 to 0x0CF, of which the table leaves 0x038 to 0x03F as padding, then the ECDSA and the HSS signature. -/
def State.report (s : State) (nonce : List Byte) : List Byte :=
  let body := fitTo 32 nonce ++ fitTo 16 Config.serial ++ bytesLE 4 s.svn.toNat ++ bytesLE 4 s.deviceNo ++ List.replicate 8 0 ++ bytesLE 48 s.meas0.toNat
    ++ bytesLE 48 s.meas1.toNat ++ bytesLE 48 s.meas2.toNat
  body ++ ecdsaSign Config.identityKey (Config.identityNonce (sha384 body)) (sha384 body) ++ hssSign s.hss body
/-- ATTESTATION_REQUEST: a SEND to the mailbox. Where firmware has a buffer for it, a request of 36 bytes with code 1 is answered while the HSS key has capacity; its state advances first. Any other SEND of at most 4 KiB waits in one of the 64 buffers. -/
def State.attest (s : State) : State :=
  let l := s.arg.bytes
  match s.refusal none with
  | some os => s.refused os
  | none =>
    if Config.mtu < l.length then s.refused [.hostInvalid]
    else if !s.firmware ∨ Config.mailboxes ≤ s.mailbox.length then s.answered [.hostRnr]
    else if l.length = 36 ∧ leNat (l.take 4) = 1 then
      if Config.hssCapacity ≤ s.hss then s.acked
      else { s with hss := s.hss + 1 }.taken 1 [.hostAck, .report (s.report (l.drop 4))]
    else { s.acked with mailbox := s.mailbox ++ [l] }
def execAttestationRequest (s : State) : Out := .next s.attest

/-! Registers without a row of their own (00 R8). -/

/-- The counts of a port's status register under a write (20 R410): each is W1C, bit by bit (00 R8). -/
def FPort.clearCounts (x : FPort) (v : Nat) : FPort :=
  { x with
    crcerr := x.crcerr &&& ~~~BitVec.ofNat 16 (field v 16 16)
    naks := x.naks &&& ~~~BitVec.ofNat 16 (field v 32 16)
    room := x.room &&& ~~~BitVec.ofNat 16 (field v 48 16) }
/-- A write to the status register of port `n` (20 R410): STATE 0 disables, STATE 1 enables a DOWN port. A CRCERR that is cleared arms its threshold again (21 R430). -/
def State.portStatusWrite (s : State) (n v : Nat) : State :=
  if Config.ports ≤ n then s
  else
    let s := s.modPort n (·.clearCounts v)
    let s := if (s.port n).crcerr = 0 then s.modDie (portDie n) (fun d => { d with disarmed := SMap.set false d.disarmed (15 + n % 9) false }) else s
    match field v 0 2 with
    | 0 => s.disablePort n
    | 1 => s.enablePort n
    | _ => s
/-- A write by the die controller of die `d` to one of its registers. -/
def State.dieWrite (s : State) (d : Nat) (f : Die → Die) : State := if d < Config.dies then s.modDie d f else s
/-- The registers of a cluster whose Reset column shows a dash, and which firmware writes at power-up (00 R9, 22 R432). -/
def dashRegs : List Nat := [0x05, 0x40, 0x41, 0x43, 0x44, 0x4B, 0x50, 0x51, 0x52, 0x53, 0x55]
/-- A register of the cluster has been written since reset, if it is one of those. -/
def Cluster.wrote (c : Cluster) (i : Nat) : Cluster := if dashRegs.contains i ∧ !c.dashed.contains i then { c with dashed := i :: c.dashed } else c
/-- What firmware does before it sets STAGE to 3: the registers with a dash are written and the fabric ports enabled (22 R432). -/
def State.broughtUp (s : State) : Bool :=
  clusterIds.all (fun k => dashRegs.all (fun i => (s.cluster k).dashed.contains i))
    && (List.range Config.ports).all (fun p => decide ((s.port p).st ≠ .down))
/-- REGISTER_WRITE: the die controller that owns a register writes it (01 R27). `arg.j` names the register. 0: control register `arg.i` of cluster `arg.k`, for Context `arg.c`, by the rights of privileged code, DEVICE (of every cluster) included. 1: status of fabric port `arg.k`. 2: route table entry `arg.i`, from `arg.w` and `arg.v`. 3: MSTAT. 4: read index of the error queue of die `arg.k`. 5: threshold of its counter `arg.i`; 6: that counter cleared. 7: a management message or, on die 0, a mailbox message taken. 8: PLIMIT.STEP. 9: BSTAT.STAGE := 3, once the module is brought up. 10: MEAS2 extended by the configuration `arg.bytes`. 11: the key of the host's memory region `arg.i` (20 R420). 12: the base of the error queue of die `arg.k` in controller memory (21 R428). 13: queue pair `arg.i` of the host port, with its next sequence number, connected where `arg.flag` is set, by the boot ROM as well. Every other one needs firmware that runs (22 R432). -/
def State.registerWrite (s : State) : State :=
  let k := s.arg.k
  let i := s.arg.i
  let v := s.arg.w
  if !s.firmware ∧ s.arg.j ≠ 13 then s else
  match s.arg.j with
  | 0 =>
    if Config.clusters ≤ k then s
    else if i = 0x05 then if Config.maxDevice < v.toNat then s else { s with clusters := clusterIds.map (fun q => (q, { s.cluster q with device := v.setWidth 11 }.wrote 0x05)) }
    else if ctxIds.contains s.arg.c then (s.ctlWrite k s.arg.c i v).modCluster k (·.wrote i) else s
  | 1 => s.portStatusWrite k v.toNat
  | 2 => if Config.maxDevice < i then s else State.unstrand { s with routes := SMap.put s.routes i (s.arg.v ++ v) }
  | 3 => { s with mstat := keepBits v 0 5 ||| keepBits v 8 8 ||| keepBits v 16 12 }
  | 4 => s.dieWrite k (fun d => { d with rd := Nat.min v.toNat d.wr })
  | 5 => s.dieWrite k (fun d => { d with thresholds := SMap.set 0 d.thresholds i (v.setWidth 32) })
  | 6 => s.dieWrite k (fun d => { d with counts := SMap.set 0 d.counts i 0, disarmed := SMap.set false d.disarmed i false })
  | 7 => if s.arg.flag then { s with mailbox := s.mailbox.drop 1 } else s.dieWrite k (fun d => { d with mgmt := d.mgmt.drop 1 })
  | 8 => s.setStep (v.setWidth 2)
  | 9 => if s.stage = 2 ∧ s.broughtUp then { s with stage := 3 } else s
  | 10 => { s with meas2 := extendMeas s.meas2 s.arg.bytes }
  | 11 => { s with keys := SMap.set 0 s.keys i (v.setWidth 32) }
  | 12 => s.dieWrite k (fun d => { d with base := v })
  | 13 => if s.hostUp ∧ i < Config.queuePairs then s.reconnect i { on := s.arg.flag, psn := v.toNat % 2 ^ 24, msg := none } else s
  | _ => s
def execRegisterWrite (s : State) : Out := .next s.registerWrite

end Sys2Proof.Machine
end

