-- ==== Sys2Proof/Machine/Event.lean ====
section
/-! DEFINITION. Machine events of a cluster: results that land (03 R60, 06 R126, 08 R175), traps and errors that are delivered, commands that finish, firmware's answers to faults, time without issues, and soft errors (21 R430). -/

namespace Sys2Proof.Machine

/-! Landings. -/

/-- The kinds of results in flight, one for each landing event. -/
inductive LandKind where
  | vector | scalar | predicate | load
  deriving DecidableEq, Repr

def Flight.kind (f : Flight) : LandKind :=
  if f.load then .load
  else match f.dest with
    | .s _ | .a _ => .scalar
    | .p _ | .pair .. => .predicate
    | .vec .. | .port .. => .vector
def Flight.due (f : Flight) : Bool := decide (f.remain = 0 ∧ f.pace ≠ .held)
/-- The result that lands next: of those due the one that fell due first, and of several such the one that issued first (06 R127). -/
def Context.dueFlight (x : Context) : Option Flight :=
  (x.flights.filter Flight.due).foldl (fun b f =>
    match b with
    | none => some f
    | some g => if g.late < f.late then some f else b) none
/-- The Context whose result lands next: the lowest with a result due. -/
def Cluster.dueFlight (c : Cluster) : Option (Nat × Flight) :=
  ctxIds.findSome? (fun i => (c.context i).dueFlight.map (fun f => (i, f)))
/-- Remove the result that is due first. -/
def Context.landFirst (x : Context) : Context :=
  match x.dueFlight with
  | some f => { x with flights := x.flights.erase f }.land f
  | none => x
/-- The result of cluster `k` that is due first lands, if it is of the kind `kind`. -/
def State.landing (s : State) (k : Nat) (kind : LandKind) : State :=
  match (s.cluster k).dueFlight with
  | some (i, f) => if f.kind = kind then s.modContext k i Context.landFirst else s
  | none => s
/-- VECTOR_RESULT_WRITE. -/
def execVectorResultWrite (s : State) : Out := .next (s.landing s.arg.k .vector)
/-- SCALAR_RESULT_WRITE. -/
def execScalarResultWrite (s : State) : Out := .next (s.landing s.arg.k .scalar)
/-- PREDICATE_WRITE. -/
def execPredicateWrite (s : State) : Out := .next (s.landing s.arg.k .predicate)
/-- LOAD_DATA_ARRIVAL. -/
def execLoadDataArrival (s : State) : Out := .next (s.landing s.arg.k .load)

/-! Traps and errors. -/

/-- An error that waits for an issue boundary is due: it goes before a trap and before a fetch (21 R427). -/
def Context.errorDue (x : Context) : Bool := !x.errors.isEmpty && !x.h
/-- TRAP_ENTRY: the trap that firmware delivered to the RUN Context is taken before any issue, unless an error is due (05 R104, R120, 21 R427). -/
def State.pendingTrap (s : State) (k : Nat) : State :=
  match (s.cluster k).runCtx with
  | some c =>
    match (s.context k c).errorDue, (s.context k c).trapPending with
    | false, some t => (s.modContext k c (fun x => { x with trapPending := none })).enterTrap k c { t with iter := (s.context k c).iter } false
    | _, _ => s
  | none => s
def execTrapEntry (s : State) : Out := .next (s.pendingTrap s.arg.k)
/-- ERROR_DELIVERY (11 R256). -/
def execErrorDelivery (s : State) : Out :=
  .next (match (s.cluster s.arg.k).runCtx with
    | some c => s.deliverError s.arg.k c
    | none => s)

/-! Commands that finish without an engine's step (11 R255). -/

/-- COMMAND_FINISH: a `tjoin` whose captured Tokens are complete; a network command of an epoch that has nothing left to do. -/
def State.commandFinish (s : State) : State :=
  match s.argCmd with
  | none => s
  | some m =>
    match m.instr with
    | .tjoin _ => if m.waits.isEmpty then s.finish s.arg.k m (match m.inh with | some code => .inherited code | none => .normal) else s
    | _ => if m.eng = .network ∧ m.remote.isNone ∧ m.phase ≠ 0 then s.epochStep s.arg.k m else s
def execCommandFinish (s : State) : Out := .next s.commandFinish
/-- INHERITED_FINISH: a command whose captured Tokens hold an error never starts. -/
def State.inheritedFinish (s : State) : State :=
  match s.argCmd with
  | none => s
  | some m =>
    let c := s.cluster s.arg.k
    match m.inh with
    | none => s
    | some code =>
      if m.started || !m.waits.isEmpty || m.isPoll || gatedArrival m.instr || (m.queued && !c.queueHead m) then s
      else
        match m.remote with
        | some r => s.modCluster s.arg.k (fun c => c.opRefuse m code r.off (.inherited code))
        | none => s.finish s.arg.k m (.inherited code)
def execInheritedFinish (s : State) : Out := .next s.inheritedFinish

/-! Firmware and the die controller. -/

/-- FREE_DOUBLE_CONTEXT (05 R104): registers keep their values. -/
def execFreeDoubleContext (s : State) : Out :=
  .next (if (s.context s.arg.k s.arg.c).st = .double then
      s.modCluster s.arg.k (fun c => c.modContext s.arg.c (fun x => { x with st := .free, live := false, freeAt := c.clk }))
    else s)
/-- FRCTL_REPLAY: ID in `arg.w`. -/
def execFrctlReplay (s : State) : Out := .next (s.modCluster s.arg.k (fun c => c.frctl (s.arg.w.setWidth 16) none))
/-- FRCTL_DELIVER: ID in `arg.w`, the code in `arg.v`. -/
def execFrctlDeliver (s : State) : Out :=
  .next (s.modCluster s.arg.k (fun c => c.frctl (s.arg.w.setWidth 16) (some (s.arg.v.setWidth 16))))
/-- ACCESS_NOTICE (19 R400): the oldest counter that reached its threshold. -/
def Cluster.accessNotice (k : Nat) (c : Cluster) : Cluster :=
  match c.acNotices with
  | [] => c
  | (region, cls) :: rest =>
    let e := field c.acbase.toNat 21 13 * 2 ^ 21 + 8 * region
    { c with acNotices := rest }.notice (modulePa k (65536 * region)) (ringInfo 15 cls 0 0 0 0 0)
      (BitVec.ofNat 64 (leNat (c.l2Bytes e 8)))
def execAccessNotice (s : State) : Out := .next (s.modCluster s.arg.k (Cluster.accessNotice s.arg.k))
/-- RELEASE_SET_WRITEBACK (16 R334): the line `arg.i` is evicted from the L1D, with every set it tags; with `arg.flag` the stores that are due enter the L1D (assumption 88). -/
def execReleaseSetWriteback (s : State) : Out :=
  .next (s.modCluster s.arg.k (fun c => if s.arg.flag then c.performHeld c.heldWrites.length else c.evict [s.arg.i]))
/-- IDLE_CLK (15 R324). A Hem round that aborts does so before the clk has passed (15 R317). -/
def execIdleClk (s : State) : Out := .next (if s.arg.k < Config.clusters then s.hemAbort.modCluster s.arg.k (fun c => c.idleClk 1) else s)

/-! Soft errors (21 R430). -/

/-- A corrected error counts, saturating. -/
def State.countError (s : State) (d n : Nat) : State :=
  let old := SMap.get 0 (s.die d).counts n
  let new := if old = BitVec.allOnes 32 then old else old + 1
  (s.modDie d (fun x => { x with counts := SMap.set 0 x.counts n new })).checkThreshold d n new.toNat

/-- Data that an uncorrectable error changed: the unit's bytes as they now read, where the event gives them. -/
def struck (old new : List Byte) : List Byte := if new.isEmpty then old else padTo old.length (new.take old.length)
/-- Sectors of the slice below the L1D read as poisoned, with the bytes they now hold; those of lines that a test names are spared. -/
def Cluster.strikeMem (c : Cluster) (pa n : Nat) (bs : List Byte) (spare : Nat → Bool) : Cluster :=
  let new := struck (c.l2Bytes pa n) bs
  (List.range (n / 32)).foldl (fun c i =>
    let a := pa + 32 * i
    if spare (a / 64) then c
    else { c with mem := memPut c.mem a ((new.drop (32 * i)).take 32), poison := markUnits 32 c.poison a 32 true }) c
/-- A block that HBM holds compressed (19 R401). -/
def Cluster.compressed (c : Cluster) (block : Nat) : Bool := let b := SMap.get 0 c.blocks block; b == 1 || b == 2
/-- A place of a store exists: a byte of a slice of 16 GB, of a buffer of 16 MiB, of CB of 8 MiB, one of a Context's 128 vectors or of its 16 Ports, an entry of a bias bank (01 R18, R30, R31, 18 R376). -/
def placeIn (store c j : Nat) : Bool :=
  match store with
  | 0 | 1 | 2 | 3 | 9 => decide (j < Config.sliceBytes)
  | 4 | 5 => decide (j < Config.bufBytes)
  | 6 => decide (j < 2 ^ 23)
  | 7 => ctxIds.contains c && decide (j < 128)
  | 8 => ctxIds.contains c && decide (j < 64 * 16)
  | 10 => decide (j < 8192)
  | 11 => true
  | _ => false
/-- An uncorrectable error in store `arg.i` (its code of 21 R429) of cluster `arg.k`, Context `arg.c`, at place `arg.j`; `arg.bytes` are the bytes as they now read. The unit reads as poisoned, and the error queue receives a record. An error in HBM leaves the lines that the L2 slice holds, and takes the whole of a compressed block (19 R401); bytes that the L1D holds dirty stand above both. -/
def State.strike (s : State) : State :=
  let k := s.arg.k
  let c := s.cluster k
  let j := s.arg.j
  let x := c.context s.arg.c
  let place := fun (m : SMap Byte) (n : Nat) => struck ((List.range n).map (fun i => SMap.get 0 m (j / n * n + i))) s.arg.bytes
  match s.arg.i with
  | 0 =>
    let n := if c.compressed (j / 256) then 256 else 32
    (s.setCluster k (c.strikeMem (j / n * n) n s.arg.bytes (fun l => (SMap.find c.l2 l).isSome))).errRecord (dieOf k)
      { w0 := errWord 1 7 cPOISON k 0 63 (stackOf k), addr := modulePa k j, info := 0, time := c.clk }
  | 1 => (s.setCluster k (c.strikeMem (j / 32 * 32) 32 s.arg.bytes (fun _ => false))).errUncorr k 0 0 1 (modulePa k j)
  | 2 =>
    let c1 := c.storeL1 (((struck (c.bytes (j / 32 * 32) 32) s.arg.bytes).zipIdx (j / 32 * 32)).map (fun p => (p.2, p.1)))
    (s.setCluster k { c1 with l1Bad := markUnits 32 c1.l1Bad (j / 32 * 32) 32 true }).errUncorr k 0 0 2 (modulePa k j)
  | 3 => s.errUncorr k 0 0 3 (modulePa k j)
  | 4 => (s.setCluster k (c.writeBuf .wb (j / 64 * 64) (place c.wb 64) true)).errUncorr k 0 0 4 (BitVec.ofNat 64 j)
  | 5 => (s.setCluster k (c.writeBuf .ab (j / 64 * 64) (place c.ab 64) true)).errUncorr k 0 0 5 (BitVec.ofNat 64 j)
  | 6 =>
    let t := c.tile (j / 8192)
    let g := j % 8192 / 64
    let data := struck ((bytesLE 8192 t.data.toNat).drop (64 * g) |>.take 64) s.arg.bytes
    let t := { t with
      data := BitVec.ofNat 65536 (setField t.data.toNat (512 * g) 512 (leNat data)), marks := t.marks ||| BitVec.ofNat 128 (2 ^ g) }
    (s.setCluster k (c.setTile (j / 8192) t)).errUncorr k 0 1 6 (BitVec.ofNat 64 j)
  | 7 =>
    let old := bytesLE 1024 (x.vec j).toNat
    let x := x.setV j (BitVec.ofNat 8192 (leNat (struck old s.arg.bytes)))
    (s.setCluster k (c.setContext s.arg.c { x with vBad := SMap.put x.vBad j true })).errUncorr k s.arg.c 0 7
      (BitVec.ofNat 64 j)
  | 8 =>
    let p := x.port (j / 64)
    let es := p.entries.zipIdx.map (fun e => if e.2 = j % 64 ∧ e.1.ready then { e.1 with poison := true } else e.1)
    (s.setCluster k (c.setContext s.arg.c (x.setPort (j / 64) { p with entries := es }))).errUncorr k s.arg.c 0 8 (BitVec.ofNat 64 j)
  | 9 =>
    (s.setCluster k { c with poison := markUnits 32 c.poison (j / 256 * 256) 256 true }).errUncorr k 0 0 9 (modulePa k j)
  | 10 =>
    let e := stackOf k
    (s.modEngine e (fun g =>
      if j < 4096 then { g with bad0 := SMap.set false g.bad0 j true } else { g with bad1 := SMap.set false g.bad1 (j % 4096) true })).errRecord
        (dieOf k) { w0 := errWord 1 5 cPOISON 63 0 63 e, addr := BitVec.ofNat 64 j, info := 10, time := c.clk }
  | 11 =>
    let n := s.arg.k
    if Config.ports ≤ n then s
    else (s.modPort n (fun p => { p with input := p.input.zipIdx.map (fun e => if e.2 = j then (e.1.1, { e.1.2 with pois := true }) else e.1) })).errRecord
      (portDie n) { w0 := errWord 1 8 cPOISON 63 0 n 15, addr := BitVec.ofNat 64 j, info := 11, time := (s.port n).time }
  | _ => s
/-- SOFT_ERROR: a corrected error (`arg.flag` off) adds 1 to counter `arg.i` of die `arg.k`; an uncorrectable one strikes. -/
def execSoftError (s : State) : Out :=
  .next (if s.arg.flag then (if s.arg.k < Config.clusters ∧ placeIn s.arg.i s.arg.c s.arg.j then s.strike else s) else if s.arg.k < 4 ∧ s.arg.i < 15 then s.countError s.arg.k s.arg.i else s)

end Sys2Proof.Machine
end

