-- ==== Sys2Proof/Machine/Dispatch.lean ====
section
/-! DEFINITION. One arm per instruction. -/

namespace Sys2Proof.Machine

/-- The meaning of each step: one direct call of its definition. -/
def exec (i : Instr) (s : State) : Host.Outcome State Fault Refusal :=
  match i with
  | .nop g => Sys2Proof.Machine.execNop g s
  | .li g d imm => Sys2Proof.Machine.execLi g d imm s
  | .lih g d a imm => Sys2Proof.Machine.execLih g d a imm s
  | .mov g d a => Sys2Proof.Machine.execMov g d a s
  | .add g d a b => Sys2Proof.Machine.execAdd g d a b s
  | .addi g d a imm => Sys2Proof.Machine.execAddi g d a imm s
  | .sub g d a b => Sys2Proof.Machine.execSub g d a b s
  | .mul g d a b => Sys2Proof.Machine.execMul g d a b s
  | .mulh g d a b => Sys2Proof.Machine.execMulh g d a b s
  | .mulhn g d a b => Sys2Proof.Machine.execMulhn g d a b s
  | .div g d a b => Sys2Proof.Machine.execDiv g d a b s
  | .divn g d a b => Sys2Proof.Machine.execDivn g d a b s
  | .rem g d a b => Sys2Proof.Machine.execRem g d a b s
  | .remn g d a b => Sys2Proof.Machine.execRemn g d a b s
  | .and g d a b => Sys2Proof.Machine.execAnd g d a b s
  | .andi g d a imm => Sys2Proof.Machine.execAndi g d a imm s
  | .or g d a b => Sys2Proof.Machine.execOr g d a b s
  | .ori g d a imm => Sys2Proof.Machine.execOri g d a imm s
  | .xor g d a b => Sys2Proof.Machine.execXor g d a b s
  | .xori g d a imm => Sys2Proof.Machine.execXori g d a imm s
  | .shl g d a b => Sys2Proof.Machine.execShl g d a b s
  | .shli g d a sh => Sys2Proof.Machine.execShli g d a sh s
  | .shr g d a b => Sys2Proof.Machine.execShr g d a b s
  | .shri g d a sh => Sys2Proof.Machine.execShri g d a sh s
  | .sar g d a b => Sys2Proof.Machine.execSar g d a b s
  | .sari g d a sh => Sys2Proof.Machine.execSari g d a sh s
  | .min g d a b => Sys2Proof.Machine.execMin g d a b s
  | .minn g d a b => Sys2Proof.Machine.execMinn g d a b s
  | .max g d a b => Sys2Proof.Machine.execMax g d a b s
  | .maxn g d a b => Sys2Proof.Machine.execMaxn g d a b s
  | .clz g d a => Sys2Proof.Machine.execClz g d a s
  | .ctz g d a => Sys2Proof.Machine.execCtz g d a s
  | .popc g d a => Sys2Proof.Machine.execPopc g d a s
  | .bfx g d a sx pos wm1 => Sys2Proof.Machine.execBfx g d a sx pos wm1 s
  | .bfi g d a b pos wm1 => Sys2Proof.Machine.execBfi g d a b pos wm1 s
  | .adds g d a b un => Sys2Proof.Machine.execAdds g d a b un s
  | .sel g d a b p => Sys2Proof.Machine.execSel g d a b p s
  | .cmp g e a b cc => Sys2Proof.Machine.execCmp g e a b cc s
  | .cmpi g e a cc imm => Sys2Proof.Machine.execCmpi g e a cc imm s
  | .pand g e p1 p2 => Sys2Proof.Machine.execPand g e p1 p2 s
  | .por g e p1 p2 => Sys2Proof.Machine.execPor g e p1 p2 s
  | .pxor g e p1 p2 => Sys2Proof.Machine.execPxor g e p1 p2 s
  | .pandn g e p1 p2 => Sys2Proof.Machine.execPandn g e p1 p2 s
  | .psetImm g e first count => Sys2Proof.Machine.execPsetImm g e first count s
  | .psetReg g e a => Sys2Proof.Machine.execPsetReg g e a s
  | .pcnt g d p => Sys2Proof.Machine.execPcnt g d p s
  | .br g pop imm => Sys2Proof.Machine.execBr g pop imm s
  | .brx g a pop => Sys2Proof.Machine.execBrx g a pop s
  | .call g d imm => Sys2Proof.Machine.execCall g d imm s
  | .callx g d a => Sys2Proof.Machine.execCallx g d a s
  | .ret g a => Sys2Proof.Machine.execRet g a s
  | .loop g a len y => Sys2Proof.Machine.execLoop g a len y s
  | .loopi g count len y => Sys2Proof.Machine.execLoopi g count len y s
  | .loopSwp g a sm1 len y => Sys2Proof.Machine.execLoopSwp g a sm1 len y s
  | .endt g => Sys2Proof.Machine.execEndt g s
  | .yield g imm => Sys2Proof.Machine.execYield g imm s
  | .mfs g d num => Sys2Proof.Machine.execMfs g d num s
  | .mts g a num => Sys2Proof.Machine.execMts g a num s
  | .trap g code => Sys2Proof.Machine.execTrap g code s
  | .sys g code => Sys2Proof.Machine.execSys g code s
  | .eret g => Sys2Proof.Machine.execEret g s
  | .rdtr g d n => Sys2Proof.Machine.execRdtr g d n s
  | .ctxsave g d a b => Sys2Proof.Machine.execCtxsave g d a b s
  | .ctxload g d a b => Sys2Proof.Machine.execCtxload g d a b s
  | .park g a release => Sys2Proof.Machine.execPark g a release s
  | .ptest g d a => Sys2Proof.Machine.execPtest g d a s
  | .spawnLocal g a prio lv => Sys2Proof.Machine.execSpawnLocal g a prio lv s
  | .spawnRemote g n a b prio lv => Sys2Proof.Machine.execSpawnRemote g n a b prio lv s
  | .joinParent g n => Sys2Proof.Machine.execJoinParent g n s
  | .joinRecord g a => Sys2Proof.Machine.execJoinRecord g a s
  | .twaitImm g k1 k2 k3 k4 => Sys2Proof.Machine.execTwaitImm g k1 k2 k3 k4 s
  | .twaitReg g a => Sys2Proof.Machine.execTwaitReg g a s
  | .ttestPred g e k1 k2 k3 k4 => Sys2Proof.Machine.execTtestPred g e k1 k2 k3 k4 s
  | .ttestPredReg g e a => Sys2Proof.Machine.execTtestPredReg g e a s
  | .ttestScalar g d k => Sys2Proof.Machine.execTtestScalar g d k s
  | .hwaitImm g loc h1 h2 h3 h4 => Sys2Proof.Machine.execHwaitImm g loc h1 h2 h3 h4 s
  | .hwaitReg g loc a => Sys2Proof.Machine.execHwaitReg g loc a s
  | .htestPred g loc e h1 h2 h3 h4 => Sys2Proof.Machine.execHtestPred g loc e h1 h2 h3 h4 s
  | .htestPredReg g loc e a => Sys2Proof.Machine.execHtestPredReg g loc e a s
  | .htestScalar g d h => Sys2Proof.Machine.execHtestScalar g d h s
  | .htestOff g d h => Sys2Proof.Machine.execHtestOff g d h s
  | .gbar g scope a n => Sys2Proof.Machine.execGbar g scope a n s
  | .gbarArrive g scope d a n t => Sys2Proof.Machine.execGbarArrive g scope d a n t s
  | .gbarWait g scope a b => Sys2Proof.Machine.execGbarWait g scope a b s
  | .nopA g => Sys2Proof.Machine.execNopA g s
  | .ld m x => Sys2Proof.Machine.execLd m x s
  | .ldn m x => Sys2Proof.Machine.execLdn m x s
  | .st m x => Sys2Proof.Machine.execSt m x s
  | .ldv m c => Sys2Proof.Machine.execLdv m c s
  | .stv m c => Sys2Proof.Machine.execStv m c s
  | .ldg m c => Sys2Proof.Machine.execLdg m c s
  | .sts m c => Sys2Proof.Machine.execSts m c s
  | .ldb m u c => Sys2Proof.Machine.execLdb m u c s
  | .stb m u c => Sys2Proof.Machine.execStb m u c s
  | .baste m => Sys2Proof.Machine.execBaste m s
  | .aadd m d => Sys2Proof.Machine.execAadd m d s
  | .amov g x b => Sys2Proof.Machine.execAmov g x b s
  | .ali g d imm => Sys2Proof.Machine.execAli g d imm s
  | .alih g d b imm => Sys2Proof.Machine.execAlih g d b imm s
  | .aofs g d b c => Sys2Proof.Machine.execAofs g d b c s
  | .sofa g d b sr k z => Sys2Proof.Machine.execSofa g d b sr k z s
  | .amoCas f => Sys2Proof.Machine.execAmoCas f s
  | .amoSwap f => Sys2Proof.Machine.execAmoSwap f s
  | .amoAdd f => Sys2Proof.Machine.execAmoAdd f s
  | .amoFadd f => Sys2Proof.Machine.execAmoFadd f s
  | .amoMin f => Sys2Proof.Machine.execAmoMin f s
  | .amoMax f => Sys2Proof.Machine.execAmoMax f s
  | .amoAnd f => Sys2Proof.Machine.execAmoAnd f s
  | .amoOr f => Sys2Proof.Machine.execAmoOr f s
  | .amoXor f => Sys2Proof.Machine.execAmoXor f s
  | .fence g ord scope => Sys2Proof.Machine.execFence g ord scope s
  | .waitm g b w acq scope off d cc => Sys2Proof.Machine.execWaitm g b w acq scope off d cc s
  | .pcfg g c depth idx idxv => Sys2Proof.Machine.execPcfg g c depth idx idxv s
  | .padv g c k => Sys2Proof.Machine.execPadv g c k s
  | .pwaitFill g c k => Sys2Proof.Machine.execPwaitFill g c k s
  | .pwaitFree g c k => Sys2Proof.Machine.execPwaitFree g c k s
  | .pquery g d c => Sys2Proof.Machine.execPquery g d c s
  | .agset g c b s0 => Sys2Proof.Machine.execAgset g c b s0 s
  | .agsetDetach g c => Sys2Proof.Machine.execAgsetDetach g c s
  | .tlbinv g b off => Sys2Proof.Machine.execTlbinv g b off s
  | .tlbinvAll g => Sys2Proof.Machine.execTlbinvAll g s
  | .tlbinvAsid g a => Sys2Proof.Machine.execTlbinvAsid g a s
  | .vadd f => Sys2Proof.Machine.execVadd f s
  | .vsub f => Sys2Proof.Machine.execVsub f s
  | .vmul f => Sys2Proof.Machine.execVmul f s
  | .vmulh f => Sys2Proof.Machine.execVmulh f s
  | .vmad f => Sys2Proof.Machine.execVmad f s
  | .vmin f => Sys2Proof.Machine.execVmin f s
  | .vmax f => Sys2Proof.Machine.execVmax f s
  | .vabs f => Sys2Proof.Machine.execVabs f s
  | .vneg f => Sys2Proof.Machine.execVneg f s
  | .vand f => Sys2Proof.Machine.execVand f s
  | .vor f => Sys2Proof.Machine.execVor f s
  | .vxor f => Sys2Proof.Machine.execVxor f s
  | .vnot f => Sys2Proof.Machine.execVnot f s
  | .vshl f => Sys2Proof.Machine.execVshl f s
  | .vshr f => Sys2Proof.Machine.execVshr f s
  | .vsar f => Sys2Proof.Machine.execVsar f s
  | .vclz f => Sys2Proof.Machine.execVclz f s
  | .vpopc f => Sys2Proof.Machine.execVpopc f s
  | .vadds f => Sys2Proof.Machine.execVadds f s
  | .vsubs f => Sys2Proof.Machine.execVsubs f s
  | .vfadd f => Sys2Proof.Machine.execVfadd f s
  | .vfsub f => Sys2Proof.Machine.execVfsub f s
  | .vfmul f => Sys2Proof.Machine.execVfmul f s
  | .vfma f => Sys2Proof.Machine.execVfma f s
  | .vfnma f => Sys2Proof.Machine.execVfnma f s
  | .vfmin f => Sys2Proof.Machine.execVfmin f s
  | .vfmax f => Sys2Proof.Machine.execVfmax f s
  | .vfabs f => Sys2Proof.Machine.execVfabs f s
  | .vfneg f => Sys2Proof.Machine.execVfneg f s
  | .vrcp f => Sys2Proof.Machine.execVrcp f s
  | .vrsq f => Sys2Proof.Machine.execVrsq f s
  | .vsqrt f => Sys2Proof.Machine.execVsqrt f s
  | .vexp2 f => Sys2Proof.Machine.execVexp2 f s
  | .vlog2 f => Sys2Proof.Machine.execVlog2 f s
  | .vsig f => Sys2Proof.Machine.execVsig f s
  | .vcvt f => Sys2Proof.Machine.execVcvt f s
  | .vcvts f => Sys2Proof.Machine.execVcvts f s
  | .vqnt f => Sys2Proof.Machine.execVqnt f s
  | .vdqnt f => Sys2Proof.Machine.execVdqnt f s
  | .vbmax f => Sys2Proof.Machine.execVbmax f s
  | .vscale f => Sys2Proof.Machine.execVscale f s
  | .vsacc f => Sys2Proof.Machine.execVsacc f s
  | .vplane f => Sys2Proof.Machine.execVplane f s
  | .vunplane f => Sys2Proof.Machine.execVunplane f s
  | .vcmp f => Sys2Proof.Machine.execVcmp f s
  | .vfcmp f => Sys2Proof.Machine.execVfcmp f s
  | .vclass f => Sys2Proof.Machine.execVclass f s
  | .vsel f => Sys2Proof.Machine.execVsel f s
  | .vperm f => Sys2Proof.Machine.execVperm f s
  | .vbcast f => Sys2Proof.Machine.execVbcast f s
  | .vshift f => Sys2Proof.Machine.execVshift f s
  | .vzip f => Sys2Proof.Machine.execVzip f s
  | .vunzip f => Sys2Proof.Machine.execVunzip f s
  | .vcompress f => Sys2Proof.Machine.execVcompress f s
  | .vexpand f => Sys2Proof.Machine.execVexpand f s
  | .vred f => Sys2Proof.Machine.execVred f s
  | .vfred f => Sys2Proof.Machine.execVfred f s
  | .vscan f => Sys2Proof.Machine.execVscan f s
  | .vfscan f => Sys2Proof.Machine.execVfscan f s
  | .vsort f => Sys2Proof.Machine.execVsort f s
  | .vsegsum f => Sys2Proof.Machine.execVsegsum f s
  | .vmov f => Sys2Proof.Machine.execVmov f s
  | .vli f => Sys2Proof.Machine.execVli f s
  | .vext f => Sys2Proof.Machine.execVext f s
  | .vins f => Sys2Proof.Machine.execVins f s
  | .vidx f => Sys2Proof.Machine.execVidx f s
  | .vxpush f => Sys2Proof.Machine.execVxpush f s
  | .nopE g => Sys2Proof.Machine.execNopE g s
  | .mxcfgLoad e n b off => Sys2Proof.Machine.execMxcfgLoad e n b off s
  | .mxcfgStore e n b off => Sys2Proof.Machine.execMxcfgStore e n b off s
  | .mxgo e n => Sys2Proof.Machine.execMxgo e n s
  | .mxzero e t cm1 step => Sys2Proof.Machine.execMxzero e t cm1 step s
  | .mxshape e t hm1 lm1 i32 mm1 => Sys2Proof.Machine.execMxshape e t hm1 lm1 i32 mm1 s
  | .mxdrainC12 e t clr step => Sys2Proof.Machine.execMxdrainC12 e t clr step s
  | .mxdrainAb e t clr b step => Sys2Proof.Machine.execMxdrainAb e t clr b step s
  | .mxflag e t step => Sys2Proof.Machine.execMxflag e t step s
  | .mxtw e t inv lm1 => Sys2Proof.Machine.execMxtw e t inv lm1 s
  | .mxbf e t b src step => Sys2Proof.Machine.execMxbf e t b src step s
  | .xcfg e hm1 w16 => Sys2Proof.Machine.execXcfg e hm1 w16 s
  | .chgo e n => Sys2Proof.Machine.execChgo e n s
  | .chset e n b space => Sys2Proof.Machine.execChset e n b space s
  | .chq e n b now step => Sys2Proof.Machine.execChq e n b now step s
  | .tjoin e => Sys2Proof.Machine.execTjoin e s
  | .put f => Sys2Proof.Machine.execPut f s
  | .get f => Sys2Proof.Machine.execGet f s
  | .acc f => Sys2Proof.Machine.execAcc f s
  | .ramo f => Sys2Proof.Machine.execRamo f s
  | .rcas f => Sys2Proof.Machine.execRcas f s
  | .wfence e w mode => Sys2Proof.Machine.execWfence e w mode s
  | .wpost e w a => Sys2Proof.Machine.execWpost e w a s
  | .wstart e w a => Sys2Proof.Machine.execWstart e w a s
  | .wcomplete e w => Sys2Proof.Machine.execWcomplete e w s
  | .wwait e w => Sys2Proof.Machine.execWwait e w s
  | .wlock e w a ex => Sys2Proof.Machine.execWlock e w a ex s
  | .wunlock e w a => Sys2Proof.Machine.execWunlock e w a s
  | .wexpose e w b => Sys2Proof.Machine.execWexpose e w b s
  | .wrevoke e w => Sys2Proof.Machine.execWrevoke e w s
  | .nmadd e b step => Sys2Proof.Machine.execNmadd e b step s
  | .nmtopk e b step => Sys2Proof.Machine.execNmtopk e b step s
  | .nmpk e b step => Sys2Proof.Machine.execNmpk e b step s
  | .nmbias e b => Sys2Proof.Machine.execNmbias e b s
  | .nmfence e => Sys2Proof.Machine.execNmfence e s
  | .gdisp e b xm1 prio lv => Sys2Proof.Machine.execGdisp e b xm1 prio lv s
  | .hem e => Sys2Proof.Machine.execHem e s
  | .bundleIssue b => Sys2Proof.Machine.execBundleIssue b s
  | .bundleSkip b => Sys2Proof.Machine.execBundleSkip b s
  | .fetchFault => Sys2Proof.Machine.execFetchFault s
  | .blockRelease => Sys2Proof.Machine.execBlockRelease s
  | .switchIn => Sys2Proof.Machine.execSwitchIn s
  | .trapEntry => Sys2Proof.Machine.execTrapEntry s
  | .errorDelivery => Sys2Proof.Machine.execErrorDelivery s
  | .vectorResultWrite => Sys2Proof.Machine.execVectorResultWrite s
  | .scalarResultWrite => Sys2Proof.Machine.execScalarResultWrite s
  | .predicateWrite => Sys2Proof.Machine.execPredicateWrite s
  | .loadDataArrival => Sys2Proof.Machine.execLoadDataArrival s
  | .scaleLatchWrite => Sys2Proof.Machine.execScaleLatchWrite s
  | .pleatReturn => Sys2Proof.Machine.execPleatReturn s
  | .generatorRowRequest => Sys2Proof.Machine.execGeneratorRowRequest s
  | .waitmReread => Sys2Proof.Machine.execWaitmReread s
  | .gbarWaitPoll => Sys2Proof.Machine.execGbarWaitPoll s
  | .continuationAccept => Sys2Proof.Machine.execContinuationAccept s
  | .joinDecrement => Sys2Proof.Machine.execJoinDecrement s
  | .gbarDeferredArrival => Sys2Proof.Machine.execGbarDeferredArrival s
  | .mxcfgLoadDone => Sys2Proof.Machine.execMxcfgLoadDone s
  | .mxcfgStoreExec => Sys2Proof.Machine.execMxcfgStoreExec s
  | .nestWalkStart => Sys2Proof.Machine.execNestWalkStart s
  | .nestStep => Sys2Proof.Machine.execNestStep s
  | .mxzeroExec => Sys2Proof.Machine.execMxzeroExec s
  | .mxshapeExec => Sys2Proof.Machine.execMxshapeExec s
  | .mxdrainExec => Sys2Proof.Machine.execMxdrainExec s
  | .drainEntryTransfer => Sys2Proof.Machine.execDrainEntryTransfer s
  | .mxflagExec => Sys2Proof.Machine.execMxflagExec s
  | .mxtwExec => Sys2Proof.Machine.execMxtwExec s
  | .mxbfExec => Sys2Proof.Machine.execMxbfExec s
  | .xcfgExec => Sys2Proof.Machine.execXcfgExec s
  | .chsetExec => Sys2Proof.Machine.execChsetExec s
  | .chainRecordRead => Sys2Proof.Machine.execChainRecordRead s
  | .chainRowCopy => Sys2Proof.Machine.execChainRowCopy s
  | .firmwareFinishChain => Sys2Proof.Machine.execFirmwareFinishChain s
  | .firmwareEndChain => Sys2Proof.Machine.execFirmwareEndChain s
  | .chqSnapshot => Sys2Proof.Machine.execChqSnapshot s
  | .commandFinish => Sys2Proof.Machine.execCommandFinish s
  | .inheritedFinish => Sys2Proof.Machine.execInheritedFinish s
  | .packetSend => Sys2Proof.Machine.execPacketSend s
  | .packetAdmit => Sys2Proof.Machine.execPacketAdmit s
  | .putPacket => Sys2Proof.Machine.execPutPacket s
  | .getreqPacket => Sys2Proof.Machine.execGetreqPacket s
  | .accPacket => Sys2Proof.Machine.execAccPacket s
  | .ramoPacket => Sys2Proof.Machine.execRamoPacket s
  | .rcasPacket => Sys2Proof.Machine.execRcasPacket s
  | .spawnPacket => Sys2Proof.Machine.execSpawnPacket s
  | .joinPacket => Sys2Proof.Machine.execJoinPacket s
  | .arrive => Sys2Proof.Machine.execArrive s
  | .marker => Sys2Proof.Machine.execMarker s
  | .post => Sys2Proof.Machine.execPost s
  | .complete => Sys2Proof.Machine.execComplete s
  | .lock => Sys2Proof.Machine.execLock s
  | .unlock => Sys2Proof.Machine.execUnlock s
  | .done => Sys2Proof.Machine.execDone s
  | .getdata => Sys2Proof.Machine.execGetdata s
  | .atomret => Sys2Proof.Machine.execAtomret s
  | .fail => Sys2Proof.Machine.execFail s
  | .grant => Sys2Proof.Machine.execGrant s
  | .enack => Sys2Proof.Machine.execEnack s
  | .enackResend => Sys2Proof.Machine.execEnackResend s
  | .mgmt => Sys2Proof.Machine.execMgmt s
  | .nmForward => Sys2Proof.Machine.execNmForward s
  | .nmtopkExec => Sys2Proof.Machine.execNmtopkExec s
  | .nmpkExec => Sys2Proof.Machine.execNmpkExec s
  | .nmaddExec => Sys2Proof.Machine.execNmaddExec s
  | .nmbiasCommit => Sys2Proof.Machine.execNmbiasCommit s
  | .nmfenceFinish => Sys2Proof.Machine.execNmfenceFinish s
  | .gdispExec => Sys2Proof.Machine.execGdispExec s
  | .hemArrival => Sys2Proof.Machine.execHemArrival s
  | .hemRoundAbort => Sys2Proof.Machine.execHemRoundAbort s
  | .queuePop => Sys2Proof.Machine.execQueuePop s
  | .queueAgeing => Sys2Proof.Machine.execQueueAgeing s
  | .queuePush => Sys2Proof.Machine.execQueuePush s
  | .spillRingRefill => Sys2Proof.Machine.execSpillRingRefill s
  | .ksubmit => Sys2Proof.Machine.execKsubmit s
  | .kctlStop => Sys2Proof.Machine.execKctlStop s
  | .kctlResume => Sys2Proof.Machine.execKctlResume s
  | .kctlEnd => Sys2Proof.Machine.execKctlEnd s
  | .kctlRelease => Sys2Proof.Machine.execKctlRelease s
  | .preemptionStop => Sys2Proof.Machine.execPreemptionStop s
  | .kernelAdmit => Sys2Proof.Machine.execKernelAdmit s
  | .leafPlacementPush => Sys2Proof.Machine.execLeafPlacementPush s
  | .kernelDone => Sys2Proof.Machine.execKernelDone s
  | .kernelParked => Sys2Proof.Machine.execKernelParked s
  | .stopParkTimeout => Sys2Proof.Machine.execStopParkTimeout s
  | .firmwareEndKernel => Sys2Proof.Machine.execFirmwareEndKernel s
  | .freeDoubleContext => Sys2Proof.Machine.execFreeDoubleContext s
  | .frctlReplay => Sys2Proof.Machine.execFrctlReplay s
  | .frctlDeliver => Sys2Proof.Machine.execFrctlDeliver s
  | .accessNotice => Sys2Proof.Machine.execAccessNotice s
  | .releaseSetWriteback => Sys2Proof.Machine.execReleaseSetWriteback s
  | .hostRdmaWrite => Sys2Proof.Machine.execHostRdmaWrite s
  | .hostIngressApply => Sys2Proof.Machine.execHostIngressApply s
  | .hostRdmaRead => Sys2Proof.Machine.execHostRdmaRead s
  | .stagingWrite => Sys2Proof.Machine.execStagingWrite s
  | .rload => Sys2Proof.Machine.execRload s
  | .minsvn => Sys2Proof.Machine.execMinsvn s
  | .mreset => Sys2Proof.Machine.execMreset s
  | .plimit => Sys2Proof.Machine.execPlimit s
  | .attestationRequest => Sys2Proof.Machine.execAttestationRequest s
  | .apertureWrite => Sys2Proof.Machine.execApertureWrite s
  | .registerWrite => Sys2Proof.Machine.execRegisterWrite s
  | .powerUp => Sys2Proof.Machine.execPowerUp s
  | .powerStepDown => Sys2Proof.Machine.execPowerStepDown s
  | .thermalTrip => Sys2Proof.Machine.execThermalTrip s
  | .thermalRecover => Sys2Proof.Machine.execThermalRecover s
  | .telemetryUpdate => Sys2Proof.Machine.execTelemetryUpdate s
  | .linkPacketReceive => Sys2Proof.Machine.execLinkPacketReceive s
  | .ack => Sys2Proof.Machine.execAck s
  | .ackTimer => Sys2Proof.Machine.execAckTimer s
  | .replayTimeout => Sys2Proof.Machine.execReplayTimeout s
  | .portEnable => Sys2Proof.Machine.execPortEnable s
  | .linkid => Sys2Proof.Machine.execLinkid s
  | .linkFail => Sys2Proof.Machine.execLinkFail s
  | .portDisable => Sys2Proof.Machine.execPortDisable s
  | .cancelHeldPackets => Sys2Proof.Machine.execCancelHeldPackets s
  | .idleClk => Sys2Proof.Machine.execIdleClk s
  | .softError => Sys2Proof.Machine.execSoftError s
  | .kernelTableWrite => Sys2Proof.Machine.execKernelTableWrite s
  | .dieControllerAccess => Sys2Proof.Machine.execDieControllerAccess s

end Sys2Proof.Machine
end

