-- ==== Sys2Proof/Machine/Turn.lean ====
section
/-! DEFINITION. What moves next: the head of the agenda, or the core of the current cluster with what its own hardware does first (assumption 5). -/

namespace Sys2Proof.Machine

/-- The steps that name no slot word and no bundle: the machine events, which alone may stand in the agenda. -/
def isEvent (i : Instr) : Bool :=
  match i with
  | .bundleIssue _ => false
  | .bundleSkip _ => false
  | i => (encode i).isNone

def argOf (k : Nat) : Arg := { Arg.zero with k := k }
/-- The event that lands a result. -/
def LandKind.event : LandKind → Instr
  | .vector => .vectorResultWrite | .scalar => .scalarResultWrite | .predicate => .predicateWrite | .load => .loadDataArrival

/-! Before the core acts. -/

/-- Try an event: does it change the state? -/
def State.tries (s : State) (p : Instr × Arg) : Bool :=
  let s1 := { s with arg := p.2 }
  match exec p.1 s1 with
  | .next t => decide (t ≠ s1)
  | _ => false
/-- A plain store on its way enters the L1D now (16 R329). -/
def Cluster.storeDue (c : Cluster) : Bool := c.heldWrites.any (fun h => match h.late with | some t => decide (t ≤ c.clk) | none => false)
/-- The events of cluster `k` that stand before its core's next issue, in order: results that are due, the scale latch, generators' rows, tiles, stores on their way, joins; then the Queue unit and the release of blocked Contexts. -/
def State.dueEvent (s : State) (k : Nat) : Option (Instr × Arg) :=
  let c := s.cluster k
  let a := argOf k
  match c.dueFlight with
  | some (_, f) => some (f.kind.event, a)
  | none =>
    if (match c.latchFlights with | (0, _) :: _ => true | _ => false) then some (.scaleLatchWrite, a)
    else if c.genWants ∧ c.agClk < c.clk then some (.generatorRowRequest, a)
    else match ctxIds.find? (fun i => match (c.context i).pleat.tiles with | t :: _ => t.remain == 0 | [] => false) with
      | some i => some (.pleatReturn, { a with c := i })
      | none =>
        if c.storeDue then some (.releaseSetWriteback, { a with flag := true })
        else if c.joinDue.isSome then some (.joinDecrement, a) else none
/-- What a Group barrier read that cluster `k` repeats has to do: the read, and its packets where the record is this cluster's own (15 R322). -/
def State.pollEvents (s : State) (k : Nat) : List (Instr × Arg) :=
  let c := s.cluster k
  let a := argOf k
  let polls := c.cmds.filter Cmd.isPoll
  let mine := fun (p : Packet) => p.sdev == c.device.toNat && p.scl == k
    && (match SMap.find c.places p.rtag with | some pl => polls.any (fun m => m.id == pl.cmd) | none => false)
  if polls.isEmpty then []
  else polls.map (fun m => (Instr.gbarWaitPoll, { a with i := m.id }))
    ++ (c.inbox.zipIdx.map (fun p => if mine p.1 || (p.1.rpl && (match SMap.find c.places p.1.rtag with | some pl => polls.any (fun m => m.id == pl.cmd) | none => false))
          then [Instr.packetAdmit, Instr.getreqPacket, Instr.getdata].map (fun i => (i, { a with i := p.2 })) else [])).flatten
/-- The Queue unit's and the blocked Contexts' part, the reads of Group barriers, held arrivals of Hem and the abort of its round while STOPF is set (15 R317), each only where it changes the state. -/
def State.quickEvent (s : State) (k : Nat) : Option (Instr × Arg) :=
  let c := s.cluster k
  let a := argOf k
  let blocked := (ctxIds.filter (fun i => decide ((c.context i).st = .blocked))).map (fun i =>
    (if (c.context i).cause = some .memory then Instr.waitmReread else Instr.blockRelease, { a with c := i }))
  let yielding := (ctxIds.filter (fun i => decide ((c.context i).st = .yield))).map (fun i => (Instr.continuationAccept, { a with c := i }))
  let experts := if c.dispatching then (c.cmds.filter (fun m => decide (m.eng = .queue))).map (fun m => (Instr.gdispExec, { a with i := m.id })) else []
  let queue := if c.levels.isEmpty ∧ c.pushes.isEmpty ∧ yielding.isEmpty ∧ experts.isEmpty then [] else
    [(Instr.spillRingRefill, a), (Instr.queuePop, a), (Instr.queueAgeing, a)] ++ yielding ++ experts ++ [(Instr.queuePush, a)]
  let held := (c.hems 2).map (fun m => (Instr.hemArrival, { a with i := m.id }))
  let aborts := if s.hemStops then [(Instr.hemRoundAbort, a)] else []
  (queue ++ blocked ++ s.pollEvents k ++ held ++ aborts).find? s.tries
/-- What stands before the next issue of the core of cluster `k`. -/
def State.urgent (s : State) (k : Nat) : Option (Instr × Arg) := (s.dueEvent k).or (s.quickEvent k)

/-! The core. -/

/-- The step of Context `c`, in RUN: an error that waits, else a trap that waits (21 R427), a fetch that fails, a bundle that is skipped, or the instruction at the PC. A bundle with a word that is no instruction issues as a whole, and traps. -/
def State.coreStep (s : State) (k c : Nat) : Out :=
  let x := s.context k c
  let s0 := { s with arg := argOf k }
  if x.errorDue then exec .errorDelivery s0
  else if x.trapPending.isSome then exec .trapEntry s0
  else
    match s.fetch k c with
    | (.error _, _) => exec .fetchFault s0
    | (.ok bs, s) =>
      match decodeBundle bs with
      | none => exec .fetchFault s0
      | some (b, _) =>
        if skippable (s.cluster k) (s.context k c) b then exec (.bundleSkip b) s
        else match b.instr with
          | .ok i => exec i s
          | .error _ => exec (.bundleIssue b) s

/-! The cluster while its core idles. -/

/-- What an engine command's next event can be. -/
def commandEvents : List Instr :=
  [.inheritedFinish, .commandFinish, .mxcfgLoadDone, .mxcfgStoreExec, .nestWalkStart, .nestStep, .mxzeroExec, .mxshapeExec, .mxdrainExec,
    .mxflagExec, .mxtwExec, .mxbfExec, .xcfgExec, .chsetExec, .chainRecordRead, .chainRowCopy, .chqSnapshot, .packetSend,
    .gbarDeferredArrival, .gbarWaitPoll, .nmForward, .nmtopkExec, .nmpkExec, .nmaddExec, .nmbiasCommit, .nmfenceFinish, .gdispExec, .hemArrival]
/-- What a received packet's next event can be. -/
def packetEvents : List Instr :=
  [.packetAdmit, .putPacket, .getreqPacket, .accPacket, .ramoPacket, .rcasPacket, .spawnPacket, .joinPacket, .arrive, .marker, .post,
    .complete, .lock, .unlock, .done, .getdata, .atomret, .fail, .grant, .enack]
/-- The events that a cluster's own units could make. -/
def State.unitEvents (s : State) (k : Nat) : List (Instr × Arg) :=
  let c := s.cluster k
  let a := argOf k
  ((c.cmds.map (fun m => commandEvents.map (fun i => (i, { a with i := m.id })))).flatten)
    ++ ((List.range c.inbox.length).map (fun n => packetEvents.map (fun i => (i, { a with i := n })))).flatten
    ++ (c.places.map (fun p => (Instr.enackResend, { a with i := p.1 })))
    ++ (ctxIds.filter (fun i => !(c.context i).drain.isEmpty)).map (fun i => (Instr.drainEntryTransfer, { a with c := i }))
/-- The step of a cluster none of whose Contexts is RUN: a READY Context is switched in; else the first unit that can act does; else a clk is idle. -/
def State.idleStep (s : State) (k : Nat) : Out :=
  let s0 := { s with arg := argOf k }
  if (s.cluster k).chooser.isSome then exec .switchIn s0
  else
    match (s.unitEvents k).find? s.tries with
    | some (i, a) => exec i { s with arg := a }
    | none => exec .idleClk s0
/-- The turn of cluster `k`. -/
def State.turn (s : State) (k : Nat) : Out :=
  if Config.clusters ≤ k then .fault .noSuchCluster
  else
    match s.urgent k with
    | some (i, a) => exec i { s with arg := a }
    | none =>
      match (s.cluster k).runCtx with
      | some c => s.coreStep k c
      | none => s.idleStep k
/-- An event names a part that the module has (01 R17): `arg.k` is a fabric port for the events of ports, and no greater than a cluster's number for any other. -/
def namesPart (i : Instr) (a : Arg) : Bool :=
  match i with
  | .linkPacketReceive | .ack | .ackTimer | .replayTimeout | .portEnable | .linkid | .linkFail | .portDisable | .cancelHeldPackets =>
    decide (a.k < Config.ports)
  | _ => decide (a.k < Config.clusters)
/-- The events in which clk of a core pass. -/
def passesClk (i : Instr) : Bool :=
  match i with
  | .switchIn | .trapEntry | .errorDelivery | .fetchFault => true
  | _ => false
/-- The next step of the module. While a thermal trip holds it in reset, only its recovery moves it (22 R439). A Hem round that aborts does so before clk pass (15 R317). -/
def State.nextStep (s : State) : Out :=
  match s.agenda with
  | [] => if s.tripped then .next s else s.turn s.cur
  | .turn k :: rest => if s.tripped then .next { s with agenda := rest } else { s with agenda := rest, cur := k }.turn k
  | .event i a :: rest =>
    let s1 := { s with agenda := rest, arg := a }
    if !isEvent i ∨ !namesPart i a ∨ (s.tripped ∧ i ≠ .thermalRecover) then .next s1
    else exec i (if passesClk i then s1.hemAbort else s1)

/-! A program for the next step. -/

/-- The state in which Context 0 of cluster 0 runs, at PC 0, and address 0 maps to byte 0 of its slice, to be fetched by any code. -/
def State.ready (s : State) : State :=
  let e : TlbEntry := { asid := field (s.cluster 0).asid.toNat 0 16, base := 0, bits := 12, leaf := 0x80D }
  let s := { s with cur := 0, agenda := [], tripped := false }
  s.modCluster 0 (fun c =>
    { c.modContext 0 (fun x => { x with st := .run, live := true, pc := 0, iter := 0, skipS := false }) with tlb1 := e :: c.tlb1 })
/-- Bytes stored at the start of slice 0. -/
def State.place (s : State) (bs : List Byte) : State := s.modCluster 0 (fun c => c.writeL2 0 bs false)

end Sys2Proof.Machine
end

