-- ==== Sys2Proof/Machine/Step.lean ====
section
/-! DEFINITION. The step of the module. -/

namespace Sys2Proof.Machine

/-- One step: what the agenda names, or the turn of the current cluster. -/
def step (s : State) : Out := s.nextStep

/-- `s` with the instruction of bits `w` at PC 0 of Context 0 of cluster 0, which is in RUN, so that the next step fetches and runs it (assumption 24). -/
def State.withFetchWord (s : State) (nbits w : Nat) : State := s.ready.place (bytesLE 44 (w % 2 ^ nbits))

end Sys2Proof.Machine
end

