-- ==== Sys2Proof/Safety.lean ====
section
/-! DEFINITION. What counts as a safe step, and the words in which statements are made: when a Context is about to issue, when an operand is ready, and the state after an issue. The module itself never stops (assumption 21). -/

namespace Sys2Proof.Machine

/-- The step of a state answers a next state. -/
def State.goesOn (s : State) : Prop := ∃ t, step s = .next t
/-- A state in which every step names a cluster that exists. -/
def State.inModule (s : State) : Bool :=
  decide (s.cur < Config.clusters) && s.agenda.all (fun a => match a with | .turn k => decide (k < Config.clusters) | .event _ _ => true)

/-- Context `c` of cluster `k` is the one the current core issues from, at the first issue of a bundle, and its task has not run away (05 R112). -/
def State.issuing (s : State) (k c : Nat) : Bool :=
  decide (s.cur = k) && decide (k < Config.clusters) && decide ((s.cluster k).runCtx = some c) && decide ((s.context k c).iter = 0)
    && !(s.context k c).skipS && !runaway (s.cluster k) (s.context k c)

/-! Operands. -/

/-- A predicate can be read: no load has still to write it and it is not poisoned (06 R126, 08 R191, 21 R425). -/
def Context.readyP (x : Context) (g : Reg4) : Bool := !x.predLoading g && (SMap.find x.pBad g.toNat).isNone
/-- The guard can be read and enables lane 0 (03 R75). -/
def Context.on (x : Context) (g : Reg4) : Bool := x.readyP g && lane (x.preg g) 0
/-- The guard can be read and does not enable lane 0. -/
def Context.off (x : Context) (g : Reg4) : Bool := x.readyP g && !lane (x.preg g) 0
/-- An s-register can be read: s0, or one that nothing in flight writes, that awaits no remote return and is not poisoned (06 R126, 17 R360, 21 R425). -/
def Context.readyS (x : Context) (r : SReg) : Bool :=
  decide (r = 0) || (!x.flying (.s r) && (SMap.find x.sWait r.toNat).isNone && (SMap.find x.sBad r.toNat).isNone)
/-- An a-register can be read. -/
def Context.readyA (x : Context) (r : Reg4) : Bool := !x.flying (.a r) && (SMap.find x.aBad r.toNat).isNone
/-- An s-register can be written: it awaits no remote return (17 R360). -/
def Context.freeS (x : Context) (r : SReg) : Bool := (SMap.find x.sWait r.toNat).isNone

/-! An issue of a plain bundle that holds one slot instruction. -/

/-- What the slot sees. -/
def State.slotView (s : State) (k c : Nat) (i : Instr) : Issue :=
  let x := s.context k c
  let it := plainItem i (slotEffect i) x
  { pre := s, k := k, c := c, slot := it.slot, instr := i, n := it.n, iter := 0, rep := 0, pc := x.pc, len := 12, uses := it.uses x }
/-- The work of an issue before any slot has acted. -/
def State.blank (s : State) : Work :=
  { st := s, jump := none, after := .stay, ports := [], gens := [], extra := 0, idle := 0, srUses := 0 }
/-- The state after an issue in which the one slot did the work `w`. -/
def State.issued (s : State) (k c : Nat) (i : Instr) (w : Work) : State :=
  finishIssue k c plainHeader [plainItem i (slotEffect i) (s.context k c)] w
/-- The work in which one result leaves for its destination. -/
def State.sends (s : State) (k c : Nat) (f : Flight) : Work :=
  { s.blank with st := s.modContext k c (fun x => { x with flights := x.flights ++ [f] }) }
/-- One s-register takes a value that leaves in this issue, due after `lat` clk; s0 takes none (06 R125). -/
def State.result (s : State) (k c : Nat) (d : SReg) (v : Word) (lat : Nat) : Work :=
  if d = 0 then s.blank else s.sends k c (flightS d v lat)
/-- One a-register takes a value, due after 1 clk. -/
def State.resultA (s : State) (k c : Nat) (d : Reg4) (v : Word) : Work := s.sends k c (flightA d v 1)
/-- The work that changes the issuing Context only. -/
def State.does (s : State) (k c : Nat) (f : Context → Context) : Work := { s.blank with st := s.modContext k c f }
/-- The pair of E takes a mask 3 ic after its issue (03 R76), noted for the look-ahead (03 R77). -/
def State.resultPair (s : State) (k c : Nat) (e : Reg4) (m : Mask) : Work :=
  s.does k c (fun x =>
    { x with
      flights := x.flights ++ [flightPair e m (BitVec.allOnes 256)]
      predWrites := ((s.cluster k).ic, e.toNat) :: ((s.cluster k).ic, e.toNat + 1) :: x.predWrites })
/-- The slot code that a trap of an instruction records. -/
def slotNumber (i : Instr) : Nat := slotCode ((slotOf i).getD .s)

end Sys2Proof.Machine
end

