-- ==== Sys2Proof/Certificates/Slice0/Obligations.lean ====
section
/-! DEFINITION. The statements for the provers. The tables that name an instruction's operands and result, and other words of the statements, stand first. -/

namespace Sys2Proof.Machine

/-! Scalar results (06 R127-R136). -/

/-- Guard, destination, two operands, latency in clk (04 R97) and value of the instructions that compute one s-register from at most two; an operand that an instruction does not have is s0. -/
def arithmeticRow : Instr → Option (Reg4 × SReg × SReg × SReg × Nat × (Word → Word → Word))
  | .li g d imm => some (g, d, 0, 0, 1, fun _ _ => imm.signExtend 64)
  | .lih g d a imm => some (g, d, a, 0, 1, fun x _ => imm ++ x.setWidth 32)
  | .mov g d a => some (g, d, a, 0, 1, fun x _ => x)
  | .add g d a b => some (g, d, a, b, 1, fun x y => x + y)
  | .addi g d a imm => some (g, d, a, 0, 1, fun x _ => x + imm.signExtend 64)
  | .sub g d a b => some (g, d, a, b, 1, fun x y => x - y)
  | .mul g d a b => some (g, d, a, b, 3, fun x y => x * y)
  | .mulh g d a b => some (g, d, a, b, 3, fun x y => (x.signExtend 128 * y.signExtend 128).extractLsb' 64 64)
  | .mulhn g d a b => some (g, d, a, b, 3, fun x y => (x.setWidth 128 * y.setWidth 128).extractLsb' 64 64)
  | .div g d a b => some (g, d, a, b, 34, fun x y => if y = 0 then BitVec.allOnes 64 else x.sdiv y)
  | .divn g d a b => some (g, d, a, b, 34, fun x y => if y = 0 then BitVec.allOnes 64 else x / y)
  | .rem g d a b => some (g, d, a, b, 34, fun x y => if y = 0 then x else x.srem y)
  | .remn g d a b => some (g, d, a, b, 34, fun x y => if y = 0 then x else x % y)
  | .and g d a b => some (g, d, a, b, 1, fun x y => x &&& y)
  | .andi g d a imm => some (g, d, a, 0, 1, fun x _ => x &&& imm.signExtend 64)
  | .or g d a b => some (g, d, a, b, 1, fun x y => x ||| y)
  | .ori g d a imm => some (g, d, a, 0, 1, fun x _ => x ||| imm.signExtend 64)
  | .xor g d a b => some (g, d, a, b, 1, fun x y => x ^^^ y)
  | .xori g d a imm => some (g, d, a, 0, 1, fun x _ => x ^^^ imm.signExtend 64)
  | _ => none

/-- Shifts, fields, counts, minimum and maximum, saturating sums: as `arithmeticRow`, all with latency 1. -/
def shiftRow : Instr → Option (Reg4 × SReg × SReg × SReg × (Word → Word → Word))
  | .shl g d a b => some (g, d, a, b, fun x y => x <<< y.toNat)
  | .shli g d a sh => some (g, d, a, 0, fun x _ => x <<< sh.toNat)
  | .shr g d a b => some (g, d, a, b, fun x y => x >>> y.toNat)
  | .shri g d a sh => some (g, d, a, 0, fun x _ => x >>> sh.toNat)
  | .sar g d a b => some (g, d, a, b, fun x y => x.sshiftRight y.toNat)
  | .sari g d a sh => some (g, d, a, 0, fun x _ => x.sshiftRight sh.toNat)
  | .min g d a b => some (g, d, a, b, fun x y => if x.slt y then x else y)
  | .minn g d a b => some (g, d, a, b, fun x y => if x < y then x else y)
  | .max g d a b => some (g, d, a, b, fun x y => if x.slt y then y else x)
  | .maxn g d a b => some (g, d, a, b, fun x y => if x < y then y else x)
  | .clz g d a => some (g, d, a, 0, fun x _ => BitVec.ofNat 64 ((List.range 64).takeWhile (fun j => !x.getLsbD (63 - j))).length)
  | .ctz g d a => some (g, d, a, 0, fun x _ => BitVec.ofNat 64 ((List.range 64).takeWhile (fun j => !x.getLsbD j)).length)
  | .popc g d a => some (g, d, a, 0, fun x _ => BitVec.ofNat 64 ((List.range 64).countP (fun j => x.getLsbD j)))
  | .bfx g d a sx pos wm1 =>
    some (g, d, a, 0, fun x _ => if sx then (x.extractLsb' pos.toNat (wm1.toNat + 1)).signExtend 64 else (x.extractLsb' pos.toNat (wm1.toNat + 1)).setWidth 64)
  | .bfi g d a b pos wm1 =>
    some (g, d, a, b, fun x y =>
      let m : Word := ~~~(BitVec.allOnes 64 <<< (wm1.toNat + 1)) <<< pos.toNat
      (y &&& ~~~m) ||| ((x <<< pos.toNat) &&& m))
  | .adds g d a b un =>
    some (g, d, a, b, fun x y =>
      if un then (if x.toNat + y.toNat < 2 ^ 64 then x + y else BitVec.allOnes 64)
      else if x.toInt + y.toInt < -(2 ^ 63) then BitVec.intMin 64 else if 2 ^ 63 ≤ x.toInt + y.toInt then BitVec.intMax 64 else x + y)
  | _ => none

/-! Predicates (06 R136-R142, 11 R260, 17 R368). -/

/-- The ten conditions (06 R139). -/
def compares : Cond → Word → Word → Bool
  | .eq, x, y => x == y
  | .ne, x, y => x != y
  | .lt, x, y => x.slt y
  | .ge, x, y => y.sle x
  | .le, x, y => x.sle y
  | .gt, x, y => y.slt x
  | .ltn, x, y => x.ult y
  | .gen, x, y => y.ule x
  | .len, x, y => x.ule y
  | .gtn, x, y => y.ult x
/-- All ones when a condition holds, all zeros otherwise. -/
def filled (b : Bool) : Mask := if b then BitVec.allOnes 256 else 0
/-- Lanes `first` to `first + count - 1`. -/
def laneRange (first count : Nat) : Mask := ~~~(BitVec.allOnes 256 <<< count) <<< first
/-- A Token that no unfinished command holds; k0 names none (11 R260). -/
def tokenDone (x : Context) (t : Nat) : Bool := decide (t = 0) || decide ((x.tok t).st ≠ .pending)
/-- A Handle whose operations are finished, or with LOC locally done; h0 names none (17 R368). -/
def handleDone (x : Context) (loc : Bool) (h : Nat) : Bool :=
  decide (h = 0) || decide ((x.hnd h).st = .free ∨ (x.hnd h).st = .remoteDone ∨ (x.hnd h).st = .error)
    || (loc && decide ((x.hnd h).st = .localDone))

/-- Guard, pair, s-registers and predicates read, and the mask of the instructions that write a predicate pair. -/
def pairRow (x : Context) : Instr → Option (Reg4 × Reg4 × List SReg × List Reg4 × Mask)
  | .cmp g e a b cc => some (g, e, [a, b], [], filled (compares cc (x.sreg a) (x.sreg b)))
  | .cmpi g e a cc imm => some (g, e, [a], [], filled (compares cc (x.sreg a) (imm.signExtend 64)))
  | .pand g e p q => some (g, e, [], [p, q], x.preg p &&& x.preg q)
  | .por g e p q => some (g, e, [], [p, q], x.preg p ||| x.preg q)
  | .pxor g e p q => some (g, e, [], [p, q], x.preg p ^^^ x.preg q)
  | .pandn g e p q => some (g, e, [], [p, q], x.preg p &&& ~~~(x.preg q))
  | .psetImm g e first count => some (g, e, [], [], laneRange first.toNat count.toNat)
  | .psetReg g e a => some (g, e, [a], [], laneRange 0 (Nat.min (x.sreg a).toNat 256))
  | .ttestPred g e k1 k2 k3 k4 => some (g, e, [], [], filled ([k1, k2, k3, k4].all (fun t => tokenDone x t.toNat)))
  | .ttestPredReg g e a => some (g, e, [a], [], filled ((List.range 64).all (fun t => !(x.sreg a).getLsbD t || tokenDone x t)))
  | .htestPred g loc e h1 h2 h3 h4 => some (g, e, [], [], filled ([h1, h2, h3, h4].all (fun h => handleDone x loc h.toNat)))
  | .htestPredReg g loc e a => some (g, e, [a], [], filled ((List.range 32).all (fun h => !(x.sreg a).getLsbD h || handleDone x loc h)))
  | _ => none

/-- A Token's status word (11 R260). -/
def tokenStatus (t : Token) : Word :=
  (0 : BitVec 16) ++ (if t.st = .error then t.code else 0) ++ BitVec.ofNat 16 (Nat.min t.count 65535) ++ (0 : BitVec 12)
    ++ BitVec.ofBool t.inherited ++ BitVec.ofBool t.stopped ++ (match t.st with | .free => 0#2 | .pending => 1#2 | .done => 2#2 | .error => 3#2)
/-- A Handle's status word (17 R364). -/
def handleStatus (t : Handle) : Word :=
  t.ecount ++ t.code ++ (0 : BitVec 13)
    ++ (match t.st with | .free => 0#3 | .issued => 1#3 | .localDone => 2#3 | .remoteDone => 3#3 | .error => 4#3)
/-- The word of `ptest` (05 R123). -/
def parkStatus (x : Context) : Word :=
  (0 : BitVec 52) ++ (if x.st = .blocked then BitVec.ofNat 4 (match x.cause with | some c => c.code | none => 0) else 0) ++ (0 : BitVec 3) ++ BitVec.ofBool x.h
    ++ BitVec.ofNat 4 (if x.st = .free ∧ x.parkReq then 6 else x.st.code)

/-- Guard, destination, registers read (s, p, a) and value, due after 1 clk, of the instructions that read a predicate, an a-register or a part of the core into an s-register. -/
def readRow (s : State) (k c : Nat) : Instr → Option (Reg4 × SReg × List SReg × List Reg4 × List Reg4 × Word)
  | .sel g d a b p => let x := s.context k c; some (g, d, [a, b], [p], [], if (x.preg p).getLsbD 0 then x.sreg a else x.sreg b)
  | .pcnt g d p => some (g, d, [], [p], [], BitVec.ofNat 64 ((List.range 256).countP (fun l => ((s.context k c).preg p).getLsbD l)))
  | .mfs g d num => some (g, d, [], [], [], ctlRead (s.cluster k) (s.context k c) k c (s.context k c).pc num.toNat)
  | .rdtr g d n => some (g, d, [], [], [], (s.context k c).trec.getD n.toNat 0)
  | .ptest g d a => some (g, d, [a], [], [], parkStatus ((s.cluster k).context (((s.context k c).sreg a).toNat % 4)))
  | .ttestScalar g d t => some (g, d, [], [], [], if t = 0 then 0 else tokenStatus ((s.context k c).tok t.toNat))
  | .htestScalar g d h => some (g, d, [], [], [], if h = 0 then 0 else handleStatus ((s.context k c).hnd h.toNat))
  | .htestOff g d h => some (g, d, [], [], [], if h = 0 then 0 else ((s.context k c).hnd h.toNat).foff &&& 0xFFFFFFFFFF#64)
  | .aofs g d b e => let x := s.context k c; some (g, d, [], [], [b, e], x.areg b - x.areg e)
  | .amov g (.s d) b => some (g, d, [], [], [b], (s.context k c).areg b)
  | .pquery g d p => some (g, d, [], [], [], portWord (s.context k c) p.toNat)
  | _ => none

/-! Control (05 R114-R118). -/

/-- Guard, s-register read, levels popped, target and link register of a branch or call. -/
def branchRow (x : Context) : Instr → Option (Reg4 × SReg × Nat × Word × Option SReg)
  | .br g pop imm => some (g, 0, pop.toNat, x.pc + imm.signExtend 64, none)
  | .brx g a pop => some (g, a, pop.toNat, x.sreg a, none)
  | .call g d imm => some (g, 0, 0, x.pc + imm.signExtend 64, some d)
  | .callx g d a => some (g, a, 0, x.sreg a, some d)
  | .ret g a => some (g, a, 0, x.sreg a, none)
  | _ => none
/-- The result that a call leaves in its link register: the address of the next bundle. -/
def linkFlights (x : Context) : Option SReg → List Flight
  | some d => if d = 0 then [] else [flightS d (x.pc + 12) 1]
  | none => []
/-- Guard, s-register read, trip count, stages (of `loop.swp`), LEN and yield displacement of a loop instruction. -/
def loopRow (x : Context) : Instr → Option (Reg4 × SReg × Nat × Option Nat × BitVec 16 × BitVec 16)
  | .loop g a len y => some (g, a, (x.sreg a).toNat % 2 ^ 32, none, len, y)
  | .loopi g n len y => some (g, 0, n.toNat, none, len, y)
  | .loopSwp g a sm1 len y => some (g, a, (x.sreg a).toNat % 2 ^ 32, some (sm1.toNat + 1), len, y)
  | _ => none
/-- The level that a loop instruction pushes (05 R117). -/
def loopLevel (x : Context) (trips : Nat) (stages : Option Nat) (len y : BitVec 16) : Level :=
  { count := match stages with | some n => trips + n - 1 | none => trips, start := x.pc + 12,
    stop := x.pc + 12 + 4 * len.setWidth 64, yield := x.pc + 4 * y.signExtend 64, swp := stages.isSome }
/-- The writable control registers whose value reads back, with the bits that they hold (05 R107-R109, R121, 12 R280, 15 R314, 17 R346, 19 R389). -/
def readBackRows : List (Nat × Word) :=
  [(0x01, 0x3F), (0x02, 0x0000FFFFFFFF0001), (0x11, BitVec.allOnes 64), (0x12, BitVec.allOnes 64), (0x40, BitVec.allOnes 64), (0x42, 1),
    (0x43, BitVec.allOnes 64), (0x44, BitVec.allOnes 64), (0x45, BitVec.allOnes 64), (0x46, BitVec.allOnes 64), (0x47, 0x3FF),
    (0x48, BitVec.allOnes 64), (0x49, 0xFFFF), (0x4A, 0xFFFFFFF000), (0x4E, BitVec.allOnes 64), (0x4F, 0xFFFFE00001),
    (0x50, BitVec.allOnes 64), (0x51, 0xFFFFFFFFFFFF), (0x52, 0xFFFFFFFFFFFFFF), (0x54, BitVec.allOnes 64), (0x55, 0xFFFFFC0000),
    (0x58, 0xFFFFFFFFFFFFFF), (0x59, 0xFFFFFFFFFFFFFF), (0x5A, 0xFFFF0031)]
/-- The read-only control registers with what they give (05 R107). -/
def readOnlyRows (cl : Cluster) (x : Context) (k c : Nat) (pc : Word) : List (Nat × Word) :=
  [(0x00, pc), (0x03, BitVec.ofNat 64 c), (0x04, BitVec.ofNat 64 k), (0x05, cl.device.setWidth 64), (0x10, (BitVec.ofBool x.tail).setWidth 64),
    (0x13, (BitVec.ofBool x.lsig).setWidth 64), (0x15, x.bcount), (0x16, x.prec.setWidth 64), (0x17, x.ppeer.setWidth 64)]
    ++ (List.range 8).map (fun n => (0x08 + n, (x.lvl.getD n 0).setWidth 64)) ++ (List.range 11).map (fun n => (0x20 + n, x.idle.getD n 0))
/-- No local join and no held write of Context `c` has still to take effect. -/
def nothingDue (s : State) (k c : Nat) : Bool :=
  (s.cluster k).joins.all (fun q => q.ctx != c) && (s.cluster k).heldWrites.all (fun h => h.ctx != c)
/-- The error queue of the die of cluster `k` receives a record about Context `c` (21 R428): at the write index, unless the queue is full. -/
def clusterRecord (u t : State) (k c kind unit : Nat) (code : BitVec 16) (addr info : Word) : Prop :=
  let d := u.die (dieOf k)
  d.wr - d.rd < 4096 → (t.die (dieOf k)).wr = d.wr + 1 ∧
    SMap.find (t.die (dieOf k)).errq (d.wr % 4096) = some { w0 := errWord kind unit code k c 63 15, addr := addr, info := info, time := (u.cluster k).clk }
/-- The Kernel of entry `i` has ended with a code: its entry says so and its clusters hold nothing of it. -/
def endedWith (s t : State) (i : Nat) (code : BitVec 16) : Prop :=
  (t.kernel i).st = .faulted ∧ (t.kernel i).code = code ∧ (t.kernel i).clusters = [] ∧
    ∀ k ∈ (s.kernel i).clusters, (s.cluster k).kernel = some i → (t.cluster k).kernel = none ∧ (t.cluster k).levels = [] ∧ (t.cluster k).pushes = []
/-- A Context `x` after the last issue of a bundle of `len` bytes at its PC that transfers nowhere is `y` (05 R111, R112). The levels `fall`, the innermost first, end at the bundle in their last trip and fall through, more than one of them only where no transfer reached the bundle; then either no further level ends there, and the PC stands behind the bundle or at the end of the last of them, or the level `l` does: with STOPF it is left for its yield target, else it starts its next trip. A `loop.swp` level that is left ends stage mode. BCOUNT counts the bundle, and a back edge sets it to 0; with H = 1 it stays. -/
def afterBundle (x y : Context) (len : Nat) : Prop :=
  let ends := fun (l : Level) => ∃ j, j < len ∧ x.pc + BitVec.ofNat 64 j = l.stop - 1
  let mode := fun (f : List Level) => if f.any (·.swp) = true then false else x.mode
  ∀ fall : List Level, (∀ l ∈ fall, l.count = 1 ∧ ends l) → fall.length ≤ 4 → (1 < fall.length → x.xferred = false) →
    ((x.loops = fall ∨ ∃ l r, x.loops = fall ++ l :: r ∧ (¬ ends l ∨ (x.xferred = true ∧ fall ≠ []))) →
      y.loops = x.loops.drop fall.length ∧ y.mode = mode fall ∧
      y.pc = (match fall.getLast? with | some l => l.stop | none => x.pc + BitVec.ofNat 64 len) ∧
      y.bcount = if x.h = true then x.bcount else if fall ≠ [] then 0 else if x.iter = 0 then x.bcount + 1 else x.bcount) ∧
    (∀ l r, x.loops = fall ++ l :: r → fall.length < 4 → ends l → 2 ≤ l.count → (x.xferred = true → fall = []) →
      y.bcount = (if x.h = true then x.bcount else 0) ∧
      if x.stopf = true then y.loops = r ∧ y.pc = l.yield ∧ y.mode = mode (fall ++ [l])
      else y.loops = { l with count := l.count - 1 } :: r ∧ y.pc = l.start ∧ y.mode = mode fall)

/-- No Context of the cluster has been released from PARKED with its cause still to be settled, which holds between steps (05 R104, R123). -/
def settledReleases (s : State) (k : Nat) : Prop := ∀ n, n < 4 → (s.context k n).unparked = none

/-! Waits (11 R258, R259, 17 R367). -/

/-- Guard, s-register read, Tokens, LOC and Handles of the instructions that wait. -/
def waitRow (x : Context) : Instr → Option (Reg4 × SReg × List Nat × Bool × List Nat)
  | .twaitImm g k1 k2 k3 k4 => some (g, 0, [k1.toNat, k2.toNat, k3.toNat, k4.toNat], false, [])
  | .twaitReg g a => some (g, a, (List.range 64).filter (fun t => (x.sreg a).getLsbD t), false, [])
  | .hwaitImm g loc h1 h2 h3 h4 => some (g, 0, [], loc, [h1.toNat, h2.toNat, h3.toNat, h4.toNat].filter (· ≠ 0))
  | .hwaitReg g loc a => some (g, a, [], loc, (List.range 32).filter (fun h => decide (h ≠ 0) && (x.sreg a).getLsbD h))
  | _ => none
/-- A command of Context `c` under one of some Handles that is not finished, or with LOC not locally done. -/
def holdsHandle (c : Nat) (loc : Bool) (hs : List Nat) (m : Cmd) : Bool :=
  m.ctx == c && (match m.remote with | some r => hs.contains r.hnd && (if loc then !r.locDone else !r.done) | none => false)
/-- Context `c` waits with a cause, its bundle not issued. -/
def waitsFor (s t : State) (k c : Nat) (cause : Cause) : Prop :=
  (t.context k c).st = .blocked ∧ (t.context k c).cause = some cause ∧ (t.context k c).pc = (s.context k c).pc ∧ (t.context k c).iter = (s.context k c).iter ∧
    (t.context k c).s = (s.context k c).s ∧ (t.context k c).a = (s.context k c).a ∧ (t.context k c).p = (s.context k c).p ∧ (t.cluster k).mem = (s.cluster k).mem

/-! Accesses to memory (08, 16). -/

/-- The address of an A-slot word at its first issue: n is 0, so its step counts nothing (03 R62). -/
def addressOf (x : Context) (m : AMem) : Word := x.areg m.b + m.off.signExtend 64
/-- Every page of an access translates: the pieces, and the work after the walks. -/
def translated (s : State) (k c : Nat) (i : Instr) (a : Access) (r : List (Nat × Nat)) (cs : List (List Chunk)) (w : Work) : Prop :=
  xlatPieces (s.slotView k c i) a r s.blank = .ok (cs, w)
/-- No local join, acquire or watermark holds an access back (08 R187, 12 R285, 16 R330-R336). -/
def clear (s : State) (k c : Nat) (i : Instr) (space : Nat) (r : List (Nat × Nat)) : Bool :=
  match (s.slotView k c i).gate space r with | .ok _ => true | .error _ => false
/-- No held write holds back an access to these bytes, nor, for a write, the source read of an earlier remote operation (16 R329, R339). -/
def unheld (s : State) (k c : Nat) (i : Instr) (write : Bool) (cs : List (List Chunk)) : Bool :=
  match (if write then (s.slotView k c i).writeGate cs else (s.slotView k c i).heldBytes cs) with | .ok _ => true | .error _ => false
/-- The bytes that memory shows to the core are those of `f`. -/
def showsBytes (s : State) (k : Nat) (f : Nat → Byte) : Prop := ∀ a, (s.cluster k).byte a = f a
/-- What an instruction that only reads memory leaves: the registers and every byte of memory. -/
def onlyReads (s t : State) (k c : Nat) : Prop :=
  (t.context k c).s = (s.context k c).s ∧ (t.context k c).a = (s.context k c).a ∧ (t.context k c).p = (s.context k c).p ∧
    (t.context k c).v = (s.context k c).v ∧ showsBytes t k (s.cluster k).byte
/-- Guard, base, operation's fields of a local atomic. -/
def atomicOf : Instr → Option AmoF
  | .amoCas f => some f
  | .amoSwap f => some f
  | .amoAdd f => some f
  | .amoFadd f => some f
  | .amoMin f => some f
  | .amoMax f => some f
  | .amoAnd f => some f
  | .amoOr f => some f
  | .amoXor f => some f
  | _ => none
/-- The new value of an atomic on words of `w` bits (08 R197). -/
def atomicValue (i : Instr) (w : Nat) (old v c : BitVec w) : BitVec w :=
  match i with
  | .amoCas _ => if old = c then v else old
  | .amoSwap _ => v
  | .amoAdd _ => old + v
  | .amoFadd _ => BitVec.ofNat w (add32 .rne old.toNat v.toNat)
  | .amoMin _ => if v.slt old then v else old
  | .amoMax _ => if old.slt v then v else old
  | .amoAnd _ => old &&& v
  | .amoOr _ => old ||| v
  | .amoXor _ => old ^^^ v
  | _ => old
/-- Guard, destination, a-registers and s-registers read, and value of the instructions that compute an a-register (08 R196). -/
def addressRow (x : Context) : Instr → Option (Reg4 × Reg4 × List Reg4 × List SReg × Word)
  | .aadd m d => some (m.g, d, [m.b], [], addressOf x m)
  | .amov g (.a d) b => some (g, d, [b], [], x.areg b)
  | .ali g d imm => some (g, d, [], [], imm.signExtend 64)
  | .alih g d b imm => some (g, d, [b], [], imm ++ (x.areg b).setWidth 32)
  | .sofa g d b r n z => some (g, d, if z then [] else [b], [r], (if z then 0 else x.areg b) + (x.sreg r <<< n.toNat))
  | _ => none
/-- Guard, s-registers, predicates and a-registers read by the instructions of the result tables. -/
def operandRow (s : State) (k c : Nat) (i : Instr) : Option (Reg4 × List SReg × List Reg4 × List Reg4) :=
  ((arithmeticRow i).map (fun (g, _, a, b, _, _) => (g, [a, b], [], []))).or
    (((shiftRow i).map (fun (g, _, a, b, _) => (g, [a, b], [], []))).or
      (((pairRow (s.context k c) i).map (fun (g, _, as, ps, _) => (g, as, ps, []))).or
        (((readRow s k c i).map (fun (g, _, as, ps, bs, _) => (g, as, ps, bs))).or
          ((addressRow (s.context k c) i).map (fun (g, _, bs, as, _) => (g, as, [], bs))))))
/-! Ports that an A-slot word reads or fills (08 R177-R181). -/

/-- Guard, Port and entries taken by an A-slot word that reads one Port. -/
def portReadRow : Instr → Option (Reg4 × Reg4 × Nat)
  | .stv m c => some (m.g, c, 1)
  | .stb m _ c => some (m.g, c, 1)
  | .padv g c k => some (g, c, k.toNat)
  | _ => none
/-- Guard and Port of an A-slot word that claims one entry. -/
def portClaimRow : Instr → Option (Reg4 × Reg4)
  | .ldv m c => some (m.g, c)
  | .ldb m _ c => some (m.g, c)
  | _ => none
/-- The bytes of the lanes that a vector move enables (08 R192). -/
def laneWords (x : Context) (m : AMem) : List (Nat × Nat) :=
  ((List.range 256).filter (fun l => (x.preg m.g).getLsbD l)).map (fun l => (((addressOf x m).toNat + 4 * l) % 2 ^ 64, 4))
/-- No fault of its address stops an A-slot word before it comes to its Port (08 R188, 05 R113). -/
def addressPasses (x : Context) : Instr → Prop
  | .ldv m _ => x.readyA m.b = true ∧ (addressOf x m).toNat % 64 = 0 ∧ spills x m.b (laneWords x m) = false
  | .stv m _ => x.readyA m.b = true ∧ (addressOf x m).toNat % 64 = 0 ∧ spills x m.b (laneWords x m) = false
  | .ldb m _ _ => x.readyA m.b = true ∧ (addressOf x m).toNat % 64 = 0 ∧ spills x m.b [((addressOf x m).toNat, 1024)] = false ∧ (addressOf x m).toNat ≤ 0xFFFC00
  | .stb m _ _ => x.readyA m.b = true ∧ (addressOf x m).toNat % 64 = 0 ∧ spills x m.b [((addressOf x m).toNat, 1024)] = false ∧ (addressOf x m).toNat ≤ 0xFFFC00
  | _ => True

/-! Translation (19 R390-R395). -/

/-- A field of a page-table entry: the frame (19 R391). -/
def frameOf (p : Word) : Nat := p.toNat / 2 ^ 12 % 2 ^ 28
/-- Bytes that a leaf of a level maps. -/
def leafSize (level : Nat) (p : Word) : Nat := if level = 3 then 2 ^ 30 else if level = 4 then 2 ^ 21 else if p.getLsbD 8 = true then 2 ^ 16 else 2 ^ 12
/-- A frame that a cluster's walks do not follow: another slice's, or one that reaches into the metadata area (19 R392). -/
def strayFrame (k frame size : Nat) : Prop := frame / 2 ^ 22 ≠ k ∨ Config.metaBase < frame * 4096 % 2 ^ 34 + size
/-- A bad entry of a level (19 R392). -/
def badEntry (k level : Nat) (p : Word) : Prop :=
  if p.getLsbD 11 = true then
    level ≤ 2 ∨ strayFrame k (frameOf p) (leafSize level p) ∨ frameOf p * 4096 % leafSize level p ≠ 0 ∨ (p.getLsbD 8 = true ∧ level ≠ 5) ∨
      (p.getLsbD 5 = true ∧ p.getLsbD 6 = true)
  else level = 5 ∨ strayFrame k (frameOf p) 4096
/-- The first check that an access fails at a good leaf: 3 privilege, 4 permission, 0 none (19 R393). -/
def accessCause (p : Word) (a : Access) (h : Bool) : Nat :=
  if p.getLsbD 3 = false ∧ h = false then 3
  else match a with
    | .read => 0
    | .write => if p.getLsbD 1 = true then 0 else 4
    | .fetch => if p.getLsbD 2 = true then 0 else 4
/-- Addresses and entries that a walk reads, from a level on (19 R390): every one but the last is a good pointer to the next table. -/
def walkReads (c : Cluster) (k va : Nat) : Nat → Nat → List (Nat × Word) → Prop
  | _, _, [] => True
  | level, table, (at_, p) :: t =>
    at_ = table + 8 * (if level = 1 then va / 2 ^ 48 % 256 else va / 2 ^ (12 + 9 * (5 - level)) % 512) ∧ p = BitVec.ofNat 64 (leNat (c.l2Bytes at_ 8)) ∧
      (t ≠ [] → p.getLsbD 0 = true ∧ p.getLsbD 11 = false ∧ ¬ badEntry k level p ∧ walkReads c k va (level + 1) (frameOf p * 4096 % 2 ^ 34) t)
/-- The sixteen entries of a group agree but for A, D and software's bits (19 R392). -/
def groupAgrees (c : Cluster) (at_ : Nat) : Prop :=
  ∀ i, i < 16 → let q : Word := BitVec.ofNat 64 (leNat (c.l2Bytes (at_ / 128 * 128 + 8 * i) 8))
    let p : Word := BitVec.ofNat 64 (leNat (c.l2Bytes at_ 8))
    q.toNat % 2 ^ 9 = p.toNat % 2 ^ 9 ∧ q.toNat / 2 ^ 11 % 2 ^ 29 = p.toNat / 2 ^ 11 % 2 ^ 29

/-! Vector instructions (07). -/

/-- Word, vector sources, latency in ic (04 R97), scalar sources and predicates read, of every V instruction. -/
def vectorRow : Instr → Option (VF × List (BitVec 8) × Nat × List (BitVec 8) × List Reg4)
  | .vadd f => some (f, [f.s1, f.s2], 2, [], [])
  | .vsub f => some (f, [f.s1, f.s2], 2, [], [])
  | .vmul f => some (f, [f.s1, f.s2], 2, [], [])
  | .vmulh f => some (f, [f.s1, f.s2], 2, [], [])
  | .vmad f => some (f, [f.s1, f.s2, f.s3], 2, [], [])
  | .vmin f => some (f, [f.s1, f.s2], 2, [], [])
  | .vmax f => some (f, [f.s1, f.s2], 2, [], [])
  | .vabs f => some (f, [f.s1], 2, [], [])
  | .vneg f => some (f, [f.s1], 2, [], [])
  | .vand f => some (f, [f.s1, f.s2], 2, [], [])
  | .vor f => some (f, [f.s1, f.s2], 2, [], [])
  | .vxor f => some (f, [f.s1, f.s2], 2, [], [])
  | .vnot f => some (f, [f.s1], 2, [], [])
  | .vshl f => some (f, [f.s1, f.s2], 2, [], [])
  | .vshr f => some (f, [f.s1, f.s2], 2, [], [])
  | .vsar f => some (f, [f.s1, f.s2], 2, [], [])
  | .vclz f => some (f, [f.s1], 2, [], [])
  | .vpopc f => some (f, [f.s1], 2, [], [])
  | .vadds f => some (f, [f.s1, f.s2], 2, [], [])
  | .vsubs f => some (f, [f.s1, f.s2], 2, [], [])
  | .vfadd f => some (f, [f.s1, f.s2], 4, [], [])
  | .vfsub f => some (f, [f.s1, f.s2], 4, [], [])
  | .vfmul f => some (f, [f.s1, f.s2], 4, [], [])
  | .vfma f => some (f, [f.s1, f.s2, f.s3], 4, [], [])
  | .vfnma f => some (f, [f.s1, f.s2, f.s3], 4, [], [])
  | .vfmin f => some (f, [f.s1, f.s2], 4, [], [])
  | .vfmax f => some (f, [f.s1, f.s2], 4, [], [])
  | .vfabs f => some (f, [f.s1], 4, [], [])
  | .vfneg f => some (f, [f.s1], 4, [], [])
  | .vrcp f => some (f, [f.s1], 8, [], [])
  | .vrsq f => some (f, [f.s1], 8, [], [])
  | .vsqrt f => some (f, [f.s1], 8, [], [])
  | .vexp2 f => some (f, [f.s1], 8, [], [])
  | .vlog2 f => some (f, [f.s1], 8, [], [])
  | .vsig f => some (f, [f.s1], 8, [], [])
  | .vcvt f => some (f, if immMerge f then [f.s1, f.s2] else [f.s1], 4, [], [])
  | .vcvts f => some (f, if immMerge f then [f.s1, f.s2] else [f.s1], 4, [], [])
  | .vqnt f => some (f, f.s1 :: ((if immByp f then [] else [f.s2]) ++ (if immMerge f then [f.s3] else [])), 4, [], [])
  | .vdqnt f => some (f, [f.s1, f.s2], 4, [], [])
  | .vbmax f => some (f, [f.s1], 4, [], [])
  | .vscale f => some (f, [f.s1, f.s2], 4, [], [])
  | .vsacc f => some (f, [f.s1, f.s2, f.s3], 4, [], [])
  | .vplane f => some (f, [f.s1], 3, [], [])
  | .vunplane f => some (f, [f.s1], 3, [], [])
  | .vcmp f => some (f, [f.s1, f.s2], 3, [], [])
  | .vfcmp f => some (f, [f.s1, f.s2], 3, [], [])
  | .vclass f => some (f, [f.s1], 3, [f.s2], [])
  | .vsel f => some (f, [f.s1, f.s2], 2, [], [immLo f])
  | .vperm f => some (f, [f.s1, f.s2, f.s3], 3, [], [])
  | .vbcast f => some (f, [f.s1], 3, [f.s2], [])
  | .vshift f => some (f, [f.s1, f.s2], 3, [], [])
  | .vzip f => some (f, [f.s1, f.s2], 3, [], [])
  | .vunzip f => some (f, if f.ty = 13 then [f.s1] else [f.s1, f.s2], 3, [], [])
  | .vcompress f => some (f, [f.s1], 3, [], [immLo f])
  | .vexpand f => some (f, [f.s1], 3, [], [immLo f])
  | .vred f => some (f, [f.s1], 6, [], [])
  | .vfred f => some (f, [f.s1], 6, [], [])
  | .vscan f => some (f, [f.s1], 6, [], [])
  | .vfscan f => some (f, [f.s1], 6, [], [])
  | .vsort f => some (f, [f.s1], 12, [], [])
  | .vsegsum f => some (f, [f.s1, f.s2], 12, [], [])
  | .vmov f => some (f, [f.s1], 2, [], [])
  | .vli f => some (f, [], 2, [], [])
  | .vext f => some (f, [f.s1], 3, [f.s2], [])
  | .vins f => some (f, [f.s1, f.s2], 3, [f.s3], [])
  | .vidx f => some (f, [], 2, [], [])
  | .vxpush f => some (f, [f.s1], 2, [], [])
  | _ => none

/-- The s-register of a scalar source (03 R72). -/
def scalarSource (n : BitVec 8) : SReg := BitVec.ofNat 5 (n.toNat - 0xC0)
/-- A source can be read: a queue entry, a named or a rotating vector unless an uncorrectable error has struck it (03 R60, 21 R429), a Port when its read is admitted and its head is not poisoned (08 R178-R180), a scalar when it is ready. -/
def sourceReady (s : State) (k c : Nat) (i : Instr) (n : BitVec 8) : Bool :=
  let x := s.context k c
  if n.toNat < 0x10 then !SMap.get false x.vBad (112 + (x.qpos + 16 - n.toNat) % 16)
  else if n.toNat < 0x20 then
    (match (s.slotView k c i).portRead (n.toNat - 0x10) with | .ok _ => true | .error _ => false)
      && (match ((s.context k c).port (n.toNat - 0x10)).entries.head? with | some e => !e.poison | none => false)
  else if n.toNat < 0x80 then !SMap.get false x.vBad n.toNat
  else if n.toNat < 0xC0 then !SMap.get false x.vBad ((n.toNat - 0x80 + x.rot.toNat) % 64)
  else (s.context k c).readyS (scalarSource n)
/-- Element `e` of `w` bits of a source: of a queue entry, of the head of a Port, of a named or of a rotating vector; of a scalar, its low bits (07 R145). -/
def sourceElem (x : Context) (w : Nat) (n : BitVec 8) (e : Nat) : Nat :=
  let at_ := fun (v : Vec) => v.toNat / 2 ^ (w * e) % 2 ^ w
  if n.toNat < 0x10 then at_ (x.vec (112 + (x.qpos + 16 - n.toNat) % 16))
  else if n.toNat < 0x20 then at_ (match (x.port (n.toNat - 0x10)).entries.head? with | some q => q.data | none => 0)
  else if n.toNat < 0x80 then at_ (x.vec n.toNat)
  else if n.toNat < 0xC0 then at_ (x.vec ((n.toNat - 0x80 + x.rot.toNat) % 64))
  else (x.sreg (scalarSource n)).toNat % 2 ^ w
/-- The result that goes to the destination of a V word (03 R72, R74): none, an entry of a Port, the enabled lanes of a named or a rotating vector. -/
def destFlights (x : Context) (f : VF) (v : Vec) (L : Nat) : List Flight :=
  if f.d.toNat = 0 then []
  else if f.d.toNat < 0x20 then [flightV (.port (f.d.toNat - 0x10) (x.port (f.d.toNat - 0x10)).nextId) v L]
  else if f.d.toNat < 0x80 then [flightV (.vec f.d.toNat (x.preg f.g)) v L]
  else [flightV (.vec ((f.d.toNat - 0x80 + x.rot.toNat) % 64) (x.preg f.g)) v L]

/-- A V word about to issue with a lane enabled and its operands, its destination and, for `vxpush`, the transpose engine ready. -/
abbrev vectorReady (s : State) (k c : Nat) (i : Instr) (f : VF) (srcs scs : List (BitVec 8)) (ps : List Reg4) : Prop :=
  legal i = true ∧ s.issuing k c = true ∧ decodeFault (s.context k c) ((slotOf i).getD .s) i 0 false = none ∧
    (s.context k c).readyP f.g = true ∧ (s.context k c).preg f.g ≠ 0 ∧ srcs.all (sourceReady s k c i) = true ∧
    scs.all (fun n => (s.context k c).readyS (scalarSource n)) = true ∧ ps.all (s.context k c).readyP = true ∧
    (isPort f.d = true → (s.slotView k c i).portAlloc (f.d.toNat - 0x10) = .ok ()) ∧
    ((∃ h, i = .vxpush h) → pleatFull (s.context k c) f.w = false)
/-- The scale of block `j` of a `vbmax` (07 R155): 0xFF where an enabled lane holds a NaN or an infinity, 0x7F where all are zero, else the largest exponent less that of the format, biased by 127 and held to 0 to 254. -/
def blockScaleOf (x : Context) (f : VF) (j : Nat) : Nat :=
  let vs := ((List.range 32).filter (fun i => (x.preg f.g).getLsbD (32 * j + i))).map (fun i => fF32.decode (fF32.flush f.ftz (sourceElem x 32 f.s1 (32 * j + i))))
  if vs.any (fun v => match v with | .fin .. => false | _ => true) then 0xFF
  else match vs.filterMap termExp with
    | [] => 0x7F
    | E :: Es => (max 0 (min 254 (Es.foldl max E - (match f.ty.toNat with | 9 => 8 | 10 => 15 | 12 => 4 | _ => 2) + 127))).toNat
/-- The issue takes place with the result `v`, SRCOUNT counts a `vcvts` (02 R44) and a `vbmax` sends its scales to the latch (07 R156): a new queue entry takes it, the disabled lanes zero, and so does the destination, both after `L` ic (03 R74); `tail` follows. Each Port read without PEEK loses its head (03 R61, R71). The registers and the vectors stay as they were until then. -/
def vectorSent (s : State) (k c : Nat) (i : Instr) (f : VF) (srcs : List (BitVec 8)) (L : Nat) (v : Vec) (tail : List Flight) : Prop :=
  ∃ w, exec i s = .next (s.issued k c i w) ∧
    (let x := s.context k c; let y := w.st.context k c; let q := (x.qpos + 1) % 16
     y.qpos = q ∧ y.flights = x.flights ++ flightV (.vec (112 + q) (BitVec.allOnes 256)) v L :: destFlights x f v L ++ tail ∧
       (∀ r, (isPort f.d = true → r ≠ f.d.toNat - 0x10) → (y.port r).entries =
         if f.peek = false ∧ srcs.any (fun n => isPort n && decide (r = n.toNat - 0x10)) = true then (x.port r).entries.drop 1 else (x.port r).entries) ∧
       y.srcount = x.srcount + (match i with | .vcvts _ => 1 | _ => 0) ∧
       (w.st.cluster k).latch = (s.cluster k).latch ∧ (w.st.cluster k).latchFlights = (s.cluster k).latchFlights ++ (match i with
         | .vbmax g => [(4, c, BitVec.ofNat 64 (((List.range 8).map (fun j => blockScaleOf x g j * 256 ^ j)).sum), BitVec.allOnes 8)] | _ => []) ∧
       y.s = x.s ∧ y.a = x.a ∧ y.p = x.p ∧ y.v = x.v ∧ y.toks = x.toks ∧ y.hnds = x.hnds ∧ (w.st.cluster k).mem = (s.cluster k).mem ∧
       (w.st.cluster k).dirty = (s.cluster k).dirty ∧ (w.st.cluster k).wb = (s.cluster k).wb ∧ (w.st.cluster k).ab = (s.cluster k).ab)
/-- The elements of a result: those of enabled lanes as given, the others 0. -/
def hasElements (x : Context) (f : VF) (w : Nat) (v : Vec) (g : Nat → Nat) : Prop :=
  ∀ e, e < 8192 / w → v.toNat / 2 ^ (w * e) % 2 ^ w = if (x.preg f.g).getLsbD (w * e / 32) then g e else 0

/-- The signed types S32, S16 and S8 (03 R70). -/
def signedT (f : VF) : Bool := decide (f.ty.toNat ≤ 2)
/-- Word and value of an element from its index and the elements of the three sources, as words of the type's width (07 R147, R149, R171). -/
def integerRow : Instr → Option (VF × ((w : Nat) → Nat → BitVec w → BitVec w → BitVec w → BitVec w))
  | .vadd f => some (f, fun _ _ x y _ => x + y)
  | .vsub f => some (f, fun _ _ x y _ => x - y)
  | .vmul f => some (f, fun _ _ x y _ => x * y)
  | .vmulh f => some (f, fun w _ x y _ =>
      if signedT f then (x.signExtend (2 * w) * y.signExtend (2 * w)).extractLsb' w w else (x.setWidth (2 * w) * y.setWidth (2 * w)).extractLsb' w w)
  | .vmad f => some (f, fun _ _ x y z => x * y + z)
  | .vmin f => some (f, fun _ _ x y _ => if (if signedT f then x.slt y else x.ult y) then x else y)
  | .vmax f => some (f, fun _ _ x y _ => if (if signedT f then x.slt y else x.ult y) then y else x)
  | .vabs f => some (f, fun _ _ x _ _ => if x.slt 0 then -x else x)
  | .vneg f => some (f, fun _ _ x _ _ => -x)
  | .vand f => some (f, fun _ _ x y _ => x &&& y)
  | .vor f => some (f, fun _ _ x y _ => x ||| y)
  | .vxor f => some (f, fun _ _ x y _ => x ^^^ y)
  | .vnot f => some (f, fun _ _ x _ _ => ~~~x)
  | .vshl f => some (f, fun _ _ x y _ => x <<< y.toNat)
  | .vshr f => some (f, fun _ _ x y _ => x >>> y.toNat)
  | .vsar f => some (f, fun _ _ x y _ => x.sshiftRight y.toNat)
  | .vclz f => some (f, fun w _ x _ _ => BitVec.ofNat w ((List.range w).takeWhile (fun j => !x.getLsbD (w - 1 - j))).length)
  | .vpopc f => some (f, fun w _ x _ _ => BitVec.ofNat w ((List.range w).countP (fun j => x.getLsbD j)))
  | .vadds f => some (f, fun w _ x y _ =>
      if signedT f then
        (if x.toInt + y.toInt < -(2 ^ (w - 1)) then BitVec.intMin w else if 2 ^ (w - 1) ≤ x.toInt + y.toInt then BitVec.intMax w else x + y)
      else if 2 ^ w ≤ x.toNat + y.toNat then BitVec.allOnes w else x + y)
  | .vsubs f => some (f, fun w _ x y _ =>
      if signedT f then
        (if x.toInt - y.toInt < -(2 ^ (w - 1)) then BitVec.intMin w else if 2 ^ (w - 1) ≤ x.toInt - y.toInt then BitVec.intMax w else x - y)
      else if x.toNat < y.toNat then 0 else x - y)
  | .vfabs f => some (f, fun w _ x _ _ => x &&& ~~~BitVec.intMin w)
  | .vfneg f => some (f, fun w _ x _ _ => x ^^^ BitVec.intMin w)
  | .vmov f => some (f, fun _ _ x _ _ => x)
  | .vli f => some (f, fun w _ _ _ _ => if signedT f then f.imm.signExtend w else f.imm.setWidth w)
  | .vidx f => some (f, fun w e _ _ _ => BitVec.ofNat w (f.imm.toNat + e))
  | _ => none

/-- Element `j` of a source, of the source after it, or 0 past both (07 R166). -/
def pairElem (n : Nat) (a b : Nat → Nat) (j : Nat) : Nat := if j < n then a j else if j < 2 * n then b (j - n) else 0
/-- The lanes that a predicate enables, lowest first. -/
def lanesOn (p : Mask) : List Nat := (List.range 256).filter (fun l => p.getLsbD l)
/-- A moved element: the bits of its place that hold no element are zero (02 R36). -/
def kept (f : VF) (v : Nat) : Nat := v % 2 ^ (if f.ty = 11 ∨ f.ty = 12 then 6 else if f.ty = 13 then 4 else f.w)
/-- Word and element `e` of the instructions that select and move elements (07 R161, R165, R166, R171). -/
def moveRow (x : Context) : Instr → Option (VF × (Nat → Nat))
  | .vsel f => some (f, fun e => kept f (if (x.preg (immLo f)).getLsbD (f.w * e / 32) then sourceElem x f.w f.s1 e else sourceElem x f.w f.s2 e))
  | .vperm f => some (f, fun e => pairElem (8192 / f.w) (sourceElem x f.w f.s1) (sourceElem x f.w f.s2) (sourceElem x f.w f.s3 e))
  | .vbcast f => some (f, fun _ => kept f (pairElem (8192 / f.w) (sourceElem x f.w f.s1) (fun _ => 0) (x.sreg (scalarSource f.s2)).toNat))
  | .vshift f => some (f, fun e => kept f (pairElem (8192 / f.w) (sourceElem x f.w f.s1) (sourceElem x f.w f.s2) (e + f.imm.toNat)))
  | .vzip f => some (f, fun e =>
      if f.ty = 13 then
        let a := if e < 512 then sourceElem x 8 f.s1 else sourceElem x 8 f.s2
        a (2 * (e % 512)) % 16 + 16 * (a (2 * (e % 512) + 1) % 16)
      else
        let h := if f.imm = 1 then 4096 / f.w else 0
        kept f (if e % 2 = 0 then sourceElem x f.w f.s1 (h + e / 2) else sourceElem x f.w f.s2 (h + e / 2)))
  | .vunzip f => some (f, fun e =>
      if f.ty = 13 then sourceElem x 8 f.s1 (512 * f.imm.toNat + e / 2) / 16 ^ (e % 2) % 16
      else kept f (pairElem (8192 / f.w) (sourceElem x f.w f.s1) (sourceElem x f.w f.s2) (2 * e + f.imm.toNat)))
  | .vcompress f => some (f, fun e => match (lanesOn (x.preg (immLo f)))[e]? with | some j => sourceElem x 32 f.s1 j | none => 0)
  | .vexpand f => some (f, fun e =>
      if (x.preg (immLo f)).getLsbD e then sourceElem x 32 f.s1 ((lanesOn (x.preg (immLo f))).countP (fun l => decide (l < e))) else 0)
  | .vext f => some (f, fun e => if e = 0 then kept f (pairElem (8192 / f.w) (sourceElem x f.w f.s1) (fun _ => 0) (x.sreg (scalarSource f.s2)).toNat) else 0)
  | .vins f => some (f, fun e => kept f (if e = (x.sreg (scalarSource f.s3)).toNat then sourceElem x f.w f.s2 0 else sourceElem x f.w f.s1 e))
  | .vplane f => some (f, fun b =>
      let K := f.imm.toNat
      if 128 * K ≤ b then 0
      else ((List.range 8).map (fun t =>
        if (sourceElem x 8 f.s1 (512 * (b / (64 * K)) + 8 * (b % 64) + t)).testBit (K - 1 - b % (64 * K) / 64) then 2 ^ t else 0)).sum)
  | .vunplane f => some (f, fun e =>
      let K := f.imm.toNat
      let v := ((List.range K).map (fun b =>
        if (sourceElem x 8 f.s1 (64 * K * (e / 512) + 64 * (K - 1 - b) + e % 512 / 8)).testBit (e % 8) then 2 ^ b else 0)).sum
      ((BitVec.ofNat K v).signExtend 8).toNat)
  | _ => none

/-- A value rounded to a word's type under its mode, with FlushOut (02 R42, R49). -/
def outOf (f : VF) (v : Ex) : Nat := f.fmt.flush f.ftz (f.fmt.round f.mode false v)
/-- The smaller or the larger of two patterns (07 R149): a NaN gives way to a number, of two NaNs the first is quieted, -0 lies below +0. -/
def minMaxOf (f : VF) (larger : Bool) (a b : Nat) : Nat :=
  let u := f.fmt.flush f.ftz a
  let v := f.fmt.flush f.ftz b
  let below := exCmp (f.dec a) (f.dec b) < 0 ∨ (exCmp (f.dec a) (f.dec b) = 0 ∧ u.testBit (f.fmt.bits - 1) = true)
  let above := 0 < exCmp (f.dec a) (f.dec b) ∨ (exCmp (f.dec a) (f.dec b) = 0 ∧ u.testBit (f.fmt.bits - 1) = false)
  if (f.dec a).isNan = true then (if (f.dec b).isNan = true then f.fmt.round .rne false (f.dec a) else v)
  else if (f.dec b).isNan = true then u
  else if (if larger then above else below) then u else v
/-- Word and element of the floating arithmetic, from the elements of its three sources (07 R148-R151, R159). -/
def floatingRow : Instr → Option (VF × (Nat → Nat → Nat → Nat))
  | .vfadd f => some (f, fun a b _ => outOf f (exAdd f.mode (f.dec a) (f.dec b)))
  | .vfsub f => some (f, fun a b _ => outOf f (exSub f.mode (f.dec a) (f.dec b)))
  | .vfmul f => some (f, fun a b _ => outOf f (exMul (f.dec a) (f.dec b)))
  | .vfma f => some (f, fun a b c => outOf f (exFma f.mode false (f.dec a) (f.dec b) (f.dec c)))
  | .vfnma f => some (f, fun a b c => outOf f (exFma f.mode true (f.dec a) (f.dec b) (f.dec c)))
  | .vfmin f => some (f, fun a b _ => minMaxOf f false a b)
  | .vfmax f => some (f, fun a b _ => minMaxOf f true a b)
  | .vrcp f => some (f, fun a _ _ => outOf f (exRcp (f.dec a)))
  | .vrsq f => some (f, fun a _ _ => outOf f (exRsq (f.dec a)))
  | .vsqrt f => some (f, fun a _ _ => outOf f (exSqrt (f.dec a)))
  | .vexp2 f => some (f, fun a _ _ => outOf f (exExp2 (f.dec a)))
  | .vlog2 f => some (f, fun a _ _ => outOf f (exLog2 (f.dec a)))
  | .vsig f => some (f, fun a _ _ => fF32.flush f.ftz (sigmoid (f.dec a)))
  | .vscale f => some (f, fun a b _ => outOf f (exScale (f.dec a) (BitVec.ofNat f.w b).toInt))
  | _ => none
/-- Element `d` of a conversion from elements of `ws` bits (07 R152): PART names the elements of the wider vector; where the result is narrower, its other elements are those of b under MERGE and 0 without. -/
def convertedElem (x : Context) (f : VF) (ws : Nat) (conv : Nat → Nat → Nat) (d : Nat) : Nat :=
  let n := 8192 / max ws f.w
  let p := (immPart f).toNat * n
  if f.w < ws then
    (if p ≤ d ∧ d < p + n then conv d (sourceElem x ws f.s1 (d - p)) else if immMerge f = true then kept f (sourceElem x f.w f.s2 d) else 0)
  else conv d (sourceElem x ws f.s1 (d + p))
/-- Word, width and element of the conversions and of the instructions on scaled numbers (07 R152-R160), from the Context and the scale latch. -/
def scaledRow (x : Context) (latch : Word) : Instr → Option (VF × Nat × (Nat → Nat))
  | .vcvt f => some (f, f.w, convertedElem x f (tWidth (immLo f)) (fun _ v => convert f.t (immLo f).toNat f.mode f.ftz false v))
  | .vcvts f => some (f, f.w, convertedElem x f (tWidth (immLo f)) (fun d v =>
      if f.rnd ≠ 4 then convert f.t (immLo f).toNat f.mode f.ftz true v
      else
        let per := 32 / f.w
        f.fmt.flush f.ftz (f.fmt.roundSR (decodeAny (immLo f).toNat f.ftz v) (philox x.seed x.srcount (d / per) (d % per)))))
  | .vbmax f => some (f, 32, fun e => if f.imm.getLsbD 0 then blockScaleOf x f (e / 32) else sourceElem x 32 f.s1 e)
  | .vqnt f => some (f, 8, fun d =>
      let p := 256 * (immPart f).toNat
      let e := d - p
      let scale := if immByp f = true then latch.toNat / 256 ^ (e / 32) % 256 else sourceElem x 32 f.s2 e % 256
      if p ≤ d ∧ d < p + 256 then
        (if scale = 255 then f.fmt.encNan false (2 ^ 22)
         else f.fmt.round f.mode true (exScale (fF32.decode (fF32.flush f.ftz (sourceElem x 32 f.s1 e))) (127 - (scale : Int))))
      else if immMerge f = true then kept f (sourceElem x 8 f.s3 d) else 0)
  | .vdqnt f => some (f, 32, fun e =>
      let scale := sourceElem x 32 f.s2 e % 256
      if scale = 255 then 0x7FC00000
      else fF32.flush f.ftz (fF32.round f.mode false (exScale (f.fmt.decode (sourceElem x 8 f.s1 (e + 256 * (immPart f).toNat))) ((scale : Int) - 127))))
  | .vsacc f => some (f, 32, fun e =>
      let d := fun (v : Nat) => fF32.decode (fF32.flush f.ftz v)
      let acc := d (sourceElem x 32 f.s1 e)
      let part := d (sourceElem x 32 f.s2 e)
      let sc := sourceElem x 32 f.s3 e
      if f.ty = 14 then
        (if sc % 256 = 255 ∨ sc / 256 % 256 = 255 then 0x7FC00000
         else fF32.flush f.ftz (fF32.round .rne false (scaledAcc acc part (decodeE8 sc) (decodeE8 (sc / 256)))))
      else fF32.flush f.ftz (fF32.round .rne false (scaledAcc acc part (fF32.decode sc) (.fin false 1 0 false))))
  | _ => none
/-- Patterns combined from the first on. -/
def foldPatterns (op : Nat → Nat → Nat) : List Nat → Nat
  | [] => 0
  | v :: t => t.foldl op v
/-- The minimum or maximum of patterns in order, a NaN quieted (07 R167). -/
def extremeOf (f : VF) (l : List Nat) : Nat :=
  f.fmt.flush f.ftz (f.fmt.round .rne false (f.fmt.decode (foldPatterns (minMaxOf f (decide (f.imm = 2))) (l.map (f.fmt.flush f.ftz)))))

/-- Word, element `e` and condition at element `e` of the compares (07 R162-R164). -/
def compareRow (x : Context) : Instr → Option (VF × (Nat → Nat) × (Nat → Bool))
  | .vcmp f =>
    let c := fun (e : Nat) =>
      let a := BitVec.ofNat f.w (sourceElem x f.w f.s1 e)
      let b := BitVec.ofNat f.w (sourceElem x f.w f.s2 e)
      let lt := fun (y z : BitVec f.w) => if signedT f then y.slt z else y.ult z
      match (immLo f).toNat with | 0 => a == b | 1 => a != b | 2 => lt a b | 3 => !lt a b | 4 => !lt b a | _ => lt b a
    some (f, fun e => if c e then 2 ^ f.w - 1 else 0, c)
  | .vfcmp f =>
    let c := fun (e : Nat) =>
      let a := f.dec (sourceElem x f.w f.s1 e)
      let b := f.dec (sourceElem x f.w f.s2 e)
      let un := a.isNan || b.isNan
      match (immLo f).toNat with
      | 0 => !un && decide (exCmp a b = 0) | 1 => un || decide (exCmp a b ≠ 0) | 2 => !un && decide (exCmp a b < 0)
      | 3 => !un && decide (0 ≤ exCmp a b) | 4 => !un && decide (exCmp a b ≤ 0) | 5 => !un && decide (0 < exCmp a b) | _ => un
    some (f, fun e => if c e then 2 ^ f.w - 1 else 0, c)
  | .vclass f =>
    let n := fun (e : Nat) => f.fmt.classOf (sourceElem x f.w f.s1 e)
    some (f, n, fun e => (x.sreg (scalarSource f.s2)).getLsbD (n e))
  | _ => none

/-- An integer reduction's operation (07 R167). -/
def reduceOp (f : VF) (x y : BitVec f.w) : BitVec f.w :=
  let le := fun (a b : BitVec f.w) => (if signedT f then a.sle b else a.ule b : Bool)
  match f.imm.toNat with
  | 0 => x + y
  | 1 => if le x y = true then x else y
  | 2 => if le y x = true then x else y
  | 3 => x &&& y
  | 4 => x ||| y
  | _ => x ^^^ y
/-- A list combined from its first element on. -/
def foldFirst {w : Nat} (op : BitVec w → BitVec w → BitVec w) : List (BitVec w) → BitVec w
  | [] => 0
  | v :: t => t.foldl op v
/-- The enabled elements of width `w`. -/
def elemsOn (x : Context) (f : VF) (w : Nat) : List Nat := (List.range (8192 / w)).filter (fun e => (x.preg f.g).getLsbD (w * e / 32))
/-- The order of the keys of `vsort` (07 R169). -/
def sortOrder (f : VF) (a : Nat) : Int :=
  if f.ty = 6 then (if a.testBit 31 then -1 - (a % 2 ^ 31 : Nat) else (a : Int)) else if signedT f then (BitVec.ofNat 32 a).toInt else a

/-! Exact numbers (02). -/

/-- The rational that a finite value is. -/
def Ex.rat : Ex → Option ℚ
  | .fin s m e false => some ((if s then -1 else 1) * (m : ℚ) * (2 : ℚ) ^ e)
  | _ => none
/-- The floating formats (02 R34, R37). -/
def formats : List Fmt := [fF32, fBF16, fF16, fE4M3, fE5M2, fE2M3, fE3M2, fE2M1]
/-- A pattern of a format that is a finite number. -/
def Fmt.finite (f : Fmt) (p : Nat) : Bool := decide (p < 2 ^ f.bits) && decide (p % 2 ^ (f.bits - 1) ≤ f.maxP)
/-- A real that an unrounded value stands for: exactly, or strictly between two neighbours of more than `b` bits. -/
def Ex.stands (b : Nat) (v : Ex) (x : ℝ) : Prop :=
  match v with
  | .fin s m e false => x = (if s then -1 else 1) * (m : ℝ) * (2 : ℝ) ^ e
  | .fin s m e true => 2 ^ b ≤ m ∧ (m : ℝ) * (2 : ℝ) ^ e < |x| ∧ |x| < ((m : ℝ) + 1) * (2 : ℝ) ^ e ∧ (s = true ↔ x < 0)
  | _ => False
/-- A number of a format, with the exponent unbounded above (02 R42). -/
def Fmt.onGrid (f : Fmt) (y : ℝ) : Prop := ∃ n q : ℤ, y = n * (2 : ℝ) ^ q ∧ 1 - (f.bias : ℤ) - f.man ≤ q ∧ n.natAbs ≤ 2 ^ (f.man + 1)
/-- A number of a format whose least significant mantissa bit is even. -/
def Fmt.isEven (f : Fmt) (y : ℝ) : Prop :=
  ∃ n q : ℤ, y = (2 * n : ℤ) * (2 : ℝ) ^ q ∧ 1 - (f.bias : ℤ) - f.man ≤ q ∧ (2 * n).natAbs < 2 ^ (f.man + 1) ∧
    (q = 1 - (f.bias : ℤ) - f.man ∨ 2 ^ f.man ≤ (2 * n).natAbs)
/-- `y` is the number that a mode selects for `x` (02 R41). -/
def Fmt.rounds (f : Fmt) (mode : RMode) (x y : ℝ) : Prop :=
  f.onGrid y ∧ ∀ z, f.onGrid z → match mode with
    | .rne => |y - x| ≤ |z - x| ∧ (|y - x| = |z - x| → z ≠ y → f.isEven y)
    | .rz => |y| ≤ |x| ∧ 0 ≤ x * y ∧ (|z| ≤ |x| → |z| ≤ |y|)
    | .ru => x ≤ y ∧ (x ≤ z → y ≤ z)
    | .rd => y ≤ x ∧ (z ≤ x → z ≤ y)
/-- `y` is what stochastic rounding with the word `u` selects for `x` (02 R45). -/
def Fmt.roundsRandomly (f : Fmt) (u : Nat) (x y : ℝ) : Prop :=
  ∃ t w, f.onGrid t ∧ f.onGrid w ∧ |t| ≤ |x| ∧ |x| ≤ |w| ∧ 0 ≤ x * t ∧ 0 ≤ x * w ∧
    (∀ z, f.onGrid z → (|z| ≤ |x| → |z| ≤ |t|) ∧ (|x| ≤ |z| → |w| ≤ |z|)) ∧
    y = if (u : ℤ) < ⌊(|x| - |t|) / (|w| - |t|) * 2 ^ 32⌋ then w else t
/-- What a finite result past the largest number becomes, by mode and sign: the largest number, or the infinity given (02 R42). -/
def overflowTo (f : Fmt) (mode : RMode) (s : Bool) : Option Nat :=
  match mode with | .rne => f.infP | .rz => none | .ru => if s then none else f.infP | .rd => if s then f.infP else none
/-- A pattern is that of the selected number `y` with the sign `s`, or where `y` is past the largest finite number, that number or the pattern `past`. -/
def Fmt.gives (f : Fmt) (s : Bool) (y : ℝ) (past : Option Nat) (r : Nat) : Prop :=
  r < 2 ^ f.bits ∧ r.testBit (f.bits - 1) = s ∧
    ∃ top : ℚ, (f.decode f.maxP).rat = some top ∧
      (|y| ≤ top → f.finite r = true ∧ ∃ v : ℚ, (f.decode r).rat = some v ∧ y = v) ∧
      (top < |y| → r % 2 ^ (f.bits - 1) = past.getD f.maxP)

/-- An event about command `m` of cluster `k`, which has no translation fault outstanding. -/
abbrev aboutCmd (s : State) (k : Nat) (m : Cmd) : Prop := s.arg.k = k ∧ s.argCmd = some m
/-! Engine commands (04 R100, 11 R253, R254). -/

/-- Engine, E fields, a-registers read, the register values that the command takes with it, its address with the multiple it must have, and whether it takes a place in its queue, of the instructions that give an engine one command (09 R227-R235, 10 R248, R250, 11 R266, R268, R269, 14 R308, 15 R314, 17 R349, 18 R369). -/
def commandRow (x : Context) : Instr → Option (Engine × EF × List Reg4 × List Word × Option (Word × Nat) × Bool)
  | .mxcfgLoad e _ b off => let a := x.areg b + off.signExtend 64; some (.matrix, e, [b], [a], some (a, 256), true)
  | .mxcfgStore e _ b off => let a := x.areg b + off.signExtend 64; some (.matrix, e, [b], [a], some (a, 256), true)
  | .mxgo e _ => some (.matrix, e, [], [], none, true)
  | .mxzero e _ _ _ => some (.matrix, e, [], [], none, true)
  | .mxshape e _ _ _ _ _ => some (.matrix, e, [], [], none, true)
  | .mxdrainC12 e _ _ _ => some (.matrix, e, [], [], none, true)
  | .mxdrainAb e _ _ b _ => some (.matrix, e, [b], [x.areg b], none, true)
  | .mxflag e _ _ => some (.matrix, e, [], [], none, true)
  | .mxtw e _ _ _ => some (.matrix, e, [], [], none, true)
  | .mxbf e _ b src _ => some (.matrix, e, if src then [b, b + 1] else [b], if src then [x.areg b, x.areg (b + 1)] else [x.areg b], none, true)
  | .xcfg e _ _ => some (.pleat, e, [], [], none, true)
  | .chgo e _ => some (.channel, e, [], [], none, true)
  | .chset e _ b _ => some (.channel, e, [b, b + 1, b + 2], [x.areg b, x.areg (b + 1), x.areg (b + 2)], none, true)
  | .chq e _ b now _ => some (.channel, e, [b], [x.areg b], some (x.areg b, 64), !now)
  | .wexpose e _ b => some (.network, e, [b], [x.areg b], some (x.areg b, 64), true)
  | .wrevoke e _ => some (.network, e, [], [], none, true)
  | .nmadd e b _ => some (.stack, e, [b], [x.areg b], some (x.areg b, 64), true)
  | .nmtopk e b _ => some (.stack, e, [b], [x.areg b], some (x.areg b, 64), true)
  | .nmpk e b _ => some (.stack, e, [b], [x.areg b], some (x.areg b, 64), true)
  | .nmbias e b => some (.stack, e, [b], [x.areg b], some (x.areg b, 64), true)
  | .nmfence e => some (.stack, e, [], [], none, true)
  | .gdisp e b _ _ _ =>
    some (.queue, e, [b, b + 1, b + 2, b + 3],
      [x.areg b, x.areg (b + 1), x.areg (b + 2), x.areg (b + 3)]
        ++ (List.range 3).map (fun j => BitVec.ofNat 64 (lvlBits x.lvl / 2 ^ (64 * j))) ++ [BitVec.ofNat 64 x.tail.toNat], none, true)
  | .hem e => some (.barrier, e, [], [], none, true)
  | _ => none

/-- No place is left in the queue that a command would enter (04 R100) or in its issue log (21 R426). -/
def noRoom (cl : Cluster) (c : Nat) (eng : Engine) (i : Instr) (queued : Bool) : Bool :=
  (queued && decide ((queueUse cl c eng i).2 ≤ (queueUse cl c eng i).1)) || decide (64 ≤ logUse cl c eng)
/-- A command produced into its Token with the register values that it read and the unfinished commands that it captures: the newest command of its cluster, every other command, Token and register as before (11 R253, R254). -/
def produced (s t : State) (k c : Nat) (i : Instr) (eng : Engine) (e : EF) (regs : List Word) (m : Cmd) : Prop :=
  let x := s.context k c
  let y := t.context k c
  (t.cluster k).cmds.getLast? = some m ∧ (t.cluster k).cmds.length = (s.cluster k).cmds.length + 1 ∧
    (∀ q ∈ (s.cluster k).cmds, q.id ≠ (s.cluster k).nextCmd → q ∈ (t.cluster k).cmds) ∧
    m.id = (s.cluster k).nextCmd ∧ (t.cluster k).nextCmd = (s.cluster k).nextCmd + 1 ∧ m.ctx = c ∧ m.eng = eng ∧ m.instr = i ∧ m.regs = regs ∧
    m.pc = x.pc ∧ m.iter = 0 ∧ m.started = false ∧ m.tok = e.kp.toNat ∧
    (∀ d, d ∈ m.waits ↔ ∃ r, (r = e.ka ∨ r = e.kb ∨ r = e.kc) ∧ r ≠ 0 ∧ (x.tok r.toNat).st = .pending ∧ d ∈ (x.tok r.toNat).cmds) ∧
    (y.tok e.kp.toNat).st = .pending ∧ m.id ∈ (y.tok e.kp.toNat).cmds ∧
    (y.tok e.kp.toNat).count = (if (x.tok e.kp.toNat).st = .pending then (x.tok e.kp.toNat).count + 1 else 1) ∧
    (∀ r : Tok, r ≠ e.kp → y.tok r.toNat = x.tok r.toNat) ∧ y.s = x.s ∧ y.a = x.a ∧ y.p = x.p ∧ y.v = x.v ∧
    (t.cluster k).mem = (s.cluster k).mem ∧ (t.cluster k).dirty = (s.cluster k).dirty

/-- What stops an epoch instruction that names the cluster's own window, of the kind that it needs (17 R366). -/
def windowTrap (cl : Cluster) (w : BitVec 12) (kind : Nat) : Option (BitVec 16) :=
  match cl.sel.find? (fun q => q.win == w.toNat) with
  | none => some cWINDOW
  | some q => if !q.valid then some cWINDOW else if q.kind ≠ kind then some cILLEGAL else none
/-- A peer set runs past index 4,095 (17 R365, R366). -/
def peersTrap (v : Word) : Option (BitVec 16) := if 4095 < v.toNat % 4096 + v.toNat / 4096 % 4096 then some cILLEGAL else none
/-- E fields, s-register read and what stops its first issue, of the epoch instructions (17 R352-R355, R366). -/
def epochRow (cl : Cluster) (x : Context) : Instr → Option (EF × List SReg × Option (BitVec 16))
  | .wfence e w _ => some (e, [], windowTrap cl w 0)
  | .wpost e w a =>
    some (e, [a], ((peersTrap (x.sreg a)).or (windowTrap cl w 1)).or
      (match cl.sel.find? (fun q => q.win == w.toNat) with | some q => if q.ep = .closed then none else some cILLEGAL | none => none))
  | .wstart e w a => some (e, [a], (peersTrap (x.sreg a)).or (if x.starts.any (fun p => p.1 == w.toNat) then some cILLEGAL else none))
  | .wcomplete e w => some (e, [], if x.starts.any (fun p => p.1 == w.toNat) then none else some cILLEGAL)
  | .wwait e w => some (e, [], windowTrap cl w 1)
  | .wlock e w a _ => some (e, [a], if x.locks.contains (w.toNat, (x.sreg a).toNat % 4096) then some cILLEGAL else none)
  | .wunlock e w a => some (e, [a], if x.locks.contains (w.toNat, (x.sreg a).toNat % 4096) then none else some cILLEGAL)
  | _ => none

/-- A transfer: fields, whether it reads the peer, the largest data type it takes (17 R358, R359). -/
def transferRow : Instr → Option (RF × Bool × Nat)
  | .put f => some (f, false, 0)
  | .get f => some (f, true, 0)
  | .acc f => some (f, false, 1)
  | _ => none
/-- A remote atomic: fields, the register of its second value if any, and its operands v and c (17 R360). -/
def remoteAtomicRow (x : Context) : Instr → Option (RaF × List SReg × List Word)
  | .ramo f => some (f, [f.d], [x.sreg f.d, 0])
  | .rcas f => some (f, [f.d, f.x], [x.sreg f.x, x.sreg f.d])
  | _ => none
/-- The event lets a command of the network port that has no delivered error go on; no other command has its number. -/
abbrev portCmd (s : State) (k : Nat) (m : Cmd) : Prop :=
  aboutCmd s k m ∧ m.remote = none ∧ m.eng = .network ∧ m.delivered = none ∧ ∀ q ∈ (s.cluster k).cmds, q.id = m.id → q = m
/-- It has started, or stands at the head of its queue with no earlier write of its Context still to take effect. -/
def mayGoOn (s : State) (k : Nat) (m : Cmd) : Prop :=
  m.started = true ∨ ((s.cluster k).atHead m = true ∧ ∀ h ∈ (s.cluster k).heldWrites, h.before m = false)
/-- The peer indexes that an epoch command names (17 R352, R365). -/
def peersNamed (c : Cluster) (m : Cmd) : List Nat :=
  let v := (m.regs.headD 0).toNat
  let run := fun (first more : Nat) => (List.range (more + 1)).map (· + first)
  match m.instr with
  | .wfence _ w _ => (match c.sel.find? (fun e => e.win == w.toNat) with
    | some e => run (e.desc.toNat / 2 ^ 256 % 2 ^ 12) (e.desc.toNat / 2 ^ 268 % 2 ^ 12)
    | none => [])
  | .wpost .. => run (v % 2 ^ 12) (v / 2 ^ 12 % 2 ^ 12)
  | .wstart .. => run (v % 2 ^ 12) (v / 2 ^ 12 % 2 ^ 12)
  | .wcomplete _ w => ((c.context m.ctx).starts.filter (fun p => p.1 == w.toNat)).map (·.2)
  | .wlock .. => [v % 2 ^ 12]
  | .wunlock .. => [v % 2 ^ 12]
  | _ => []
/-- Every peer of a list translates, one after the other; the entries found, and the state after the reads (17 R347). -/
def peersRead (k : Nat) : List Nat → State → List Word → State → Prop
  | [], s, l, t => l = [] ∧ t = s
  | i :: rest, s, l, t => ∃ p u l', s.readPeer k i = (.ok (some p), u) ∧ l = encPeer p :: l' ∧ peersRead k rest u l' t
/-- Some peer of a list is not a peer; the state after the reads. -/
def peerMissing (k : Nat) : List Nat → State → State → Prop
  | [], _, _ => False
  | i :: rest, s, t => s.readPeer k i = (.ok none, t) ∨ ∃ p u, s.readPeer k i = (.ok (some p), u) ∧ peerMissing k rest u t
/-- A notice of a kind stands in the inbox of the peer that an entry names, of the own device. -/
def noticeSent (s t : State) (k : Nat) (kind : BitVec 8) (w : Nat) (v : Word) (f : Packet → Prop) : Prop :=
  ∃ p ∈ (t.cluster (v.toNat / 2 ^ 11 % 2 ^ 6)).inbox, p.no = (s.cluster k).nextReq ∧ p.kind = kind ∧ p.rpl = false ∧ p.win = w ∧
    p.wid.toNat = v.toNat / 2 ^ 32 % 2 ^ 12 ∧ p.sdev = (s.cluster k).device.toNat ∧ p.scl = k ∧ f p
/-- The next notice of an epoch command goes to a peer of the own device, for which a request place is free. -/
def noticeNext (s : State) (k : Nat) (m : Cmd) (v : Word) : Prop :=
  m.data[m.pos]? = some v ∧ v.toNat % 2 ^ 11 = s.deviceNo ∧ ((s.cluster k).freePlace m.ctx).isSome = true
/-- Operations of its Context toward the window and the peers of an epoch command are not finished. -/
def opsLeft (c : Cluster) (m : Cmd) (w : Nat) : Prop :=
  ∃ q ∈ c.cmds, q.ctx = m.ctx ∧ q.isPoll = false ∧ ∃ r, q.remote = some r ∧ r.done = false ∧ r.win = w ∧
    (r.peerIdx ∈ peersNamed c m ∨ ∃ p, r.peer = some p ∧ encPeer p ∈ m.data)
/-- A packet that the epoch of window `w` admitted is not performed yet. -/
def admittedLeft (c : Cluster) (w : Nat) : Prop := ∃ p ∈ c.inbox, p.adm = true ∧ p.rpl = false ∧ p.win = w

/-! Machine events. An event reads its cluster, Context and further numbers from the state's `arg`. -/

/-- The event that lands a result (03 R60). -/
def landingOf (f : Flight) : Instr :=
  if f.load then .loadDataArrival
  else match f.dest with
    | .s _ => .scalarResultWrite
    | .a _ => .scalarResultWrite
    | .p _ => .predicateWrite
    | .pair _ _ => .predicateWrite
    | .vec _ _ => .vectorResultWrite
    | .port _ _ => .vectorResultWrite
/-- Two states differ in cluster `k` only. -/
def onlyCluster (s t : State) (k : Nat) : Prop :=
  (∀ j, j ≠ k → t.cluster j = s.cluster j) ∧ t.engines = s.engines ∧ t.kernels = s.kernels ∧ t.agenda = s.agenda ∧ t.cur = s.cur ∧ t.arg = s.arg
/-- The Context of lowest key among those of a test: READY by release time, FREE by the time it became free. -/
abbrev leastBy (c : Cluster) (p : Context → Bool) (key : Context → Nat) (n : Nat) : Prop :=
  n < 4 ∧ p (c.context n) = true ∧ ∀ j, j < 4 → p (c.context j) = true → key (c.context n) < key (c.context j) ∨ (key (c.context n) = key (c.context j) ∧ n ≤ j)
/-- The time between two clk, in parts of 1/126,000 µs, from the lengths of a clk at the steps of the clock that have ended, each with its last clk, and at the step of now (22 R438). -/
def clockTime (tick : Nat) : List (Nat × Nat) → Nat → Nat → Nat
  | [], a, b => (b - a) * tick
  | (stop, u) :: rest, a, b =>
    if stop ≤ a then clockTime tick rest a b else if b ≤ stop then (b - a) * u else (stop - a) * u + clockTime tick rest stop b
/-- Registers of a Context that a unit's event leaves. -/
def sameRegs (x y : Context) : Prop := y.s = x.s ∧ y.a = x.a ∧ y.p = x.p ∧ y.v = x.v ∧ y.pc = x.pc
/-- Command `m` of cluster `k` is finished. -/
def finished (t : State) (k : Nat) (m : Cmd) : Prop := ∀ q ∈ (t.cluster k).cmds, q.id ≠ m.id
/-- The error that command `m` ends in is recorded (11 R255, R256, 21 R427): at its Context as a trap record with the code, the engine status word and the step, at its Token unless it holds an earlier one; the command is finished. -/
def recordsError (s t : State) (k : Nat) (m : Cmd) (code : BitVec 16) (esw : Word) (step : Nat) : Prop :=
  finished t k m ∧ (m.tok ≠ 0 → ((s.context k m.ctx).tok m.tok).cmds.contains m.id = true →
    (t.context k m.ctx).terr = true ∧ ((t.context k m.ctx).tok m.tok).errSeen = true ∧
    (((s.context k m.ctx).tok m.tok).errSeen = false → ((t.context k m.ctx).tok m.tok).code = code) ∧
    ∃ tr, (t.context k m.ctx).errors = (s.context k m.ctx).errors ++ [tr] ∧ tr.code = code ∧ tr.esw = esw ∧ tr.step = step ∧ tr.src = 2 ∧
      tr.token = m.tok ∧ tr.origPc = m.pc ∧ tr.opcode = opcodeOf m.instr)
/-- The engine status word of a matrix command: opcode, table, cause, step (09 R233). -/
def matrixWord (m : Cmd) (table cause step : Nat) : Word := BitVec.ofNat 64 ((opcodeOf m.instr).toNat + 2 ^ 8 * table + 2 ^ 10 * cause + 2 ^ 16 * step)
/-- The engine status word of a channel command: opcode, channel, cause, records completed (11 R271). -/
def channelWord (m : Cmd) (cause done : Nat) : Word :=
  BitVec.ofNat 64 ((opcodeOf m.instr).toNat + 2 ^ 8 * chanOf m + 2 ^ 12 * cause + 2 ^ 16 * done)
/-- A channel after row `row` of a record: the watermark moves to the end of a row in its space that holds it, no further than RLIM (11 R267). -/
def rowMarked (h : Channel) (r : BitVec 512) (row : Nat) : Channel :=
  let lo := (((trDst r : Int) + row * trDstride r) % 2 ^ 64).toNat
  let hi := lo + trRowb r
  { h with
    wmark := if trKind r = h.space.toNat ∧ lo ≤ h.wmark.toNat ∧ h.wmark.toNat < hi then BitVec.ofNat 64 (min hi h.rlim.toNat) else h.wmark
    row := row + 1, first := false }


/-! Nest images (09 R207, R210, R211). -/

/-- `n` bits of a Nest image from bit `o` of the byte at `b`. -/
def imageField (img : BitVec 2048) (b o n : Nat) : Nat := img.toNat / 2 ^ (8 * b + o) % 2 ^ n
/-- Such bits as a two's complement number. -/
def imageInt (img : BitVec 2048) (b o n : Nat) : Int :=
  let v := imageField img b o n
  if v < 2 ^ (n - 1) then v else (v : Int) - 2 ^ n
/-- The two types are a legal pair (09 R207). -/
def walkPair (img : BitVec 2048) : Prop :=
  let a := imageField img 0 0 4
  let b := imageField img 0 4 4
  (9 ≤ a ∧ a ≤ 13 ∧ (9 ≤ b ∧ b ≤ 13 ∨ b = 15)) ∨ (a = 7 ∧ b = 7) ∨ ((a = 2 ∨ a = 5) ∧ (b = 2 ∨ b = 5 ∨ b = 15))
/-- The other fields hold no reserved value, addresses and strides are multiples of 64, and STEP is below the number of steps, 2^48 at most. -/
def walkGood (img : BitVec 2048) : Prop :=
  let a := imageField img 0 0 4
  let lv := imageField img 0 26 3
  let total := ((List.range (lv + 1)).map (fun j => imageField img (0x40 + 16 * j) 0 16 + 1)).foldl (· * ·) 1
  (imageField img 0 4 4 = 15 → 2 ≤ imageField img 0 8 4 ∧ imageField img 0 8 4 ≤ 8 ∧ 1 ≤ imageField img 0 12 4 ∧ imageField img 0 12 4 ≤ imageField img 0 8 4) ∧
  (imageField img 0 4 4 ≠ 15 → imageField img 0 8 9 = 0) ∧ imageField img 0 17 3 ≠ 7 ∧ (a = 2 ∨ a = 5 → imageField img 0 17 3 = 0) ∧
  lv ≤ 5 ∧ (imageField img 0 22 1 = 1 → imageField img 0 23 3 ≤ lv) ∧ imageField img 8 0 6 = 0 ∧ imageField img 0x10 0 6 = 0 ∧ imageField img 0x20 0 6 = 0 ∧
  imageField img 0x20 32 6 = 0 ∧ (∀ j, j ≤ lv → imageField img (0x40 + 16 * j) 32 6 = 0 ∧ imageField img (0x40 + 16 * j) 64 6 = 0) ∧
  total ≤ 2 ^ 48 ∧ imageField img 0x28 0 48 < total
/-- Every segment that a step of the walk reads from a buffer lies within the buffer's 16 MiB. -/
def walkInside (img : BitVec 2048) : Prop :=
  let lv := imageField img 0 26 3
  let ni := imageField img 0 4 4 = 15
  let planes := imageField img 0 12 4
  let p := if planes ≤ 1 then 1 else if planes = 2 then 2 else if planes ≤ 4 then 4 else 8
  let off := fun (is : Nat → Nat) (o : Nat) => ((List.range (lv + 1)).map (fun j => (is j : Int) * imageInt img (0x40 + 16 * j) o 32)).sum
  ∀ is : Nat → Nat, (∀ j, j ≤ lv → is j ≤ imageField img (0x40 + 16 * j) 0 16) →
    (imageField img 0 20 1 = 0 → ∀ r, r < 32 →
      0 ≤ (imageField img 8 0 64 : Int) + off is 32 + (r * imageField img 0x20 0 32 : Nat) ∧ (imageField img 8 0 64 : Int) + off is 32 + (r * imageField img 0x20 0 32 : Nat) + 63 ≤ 0xFFFFFF) ∧
    (imageField img 0 21 1 = 0 → ∀ c, (ni → c < 64 / p) → c < 64 → ∀ b : Nat, (ni → b < 64 * planes) → (¬ni → b < 64) →
      0 ≤ (imageField img 0x10 0 64 : Int) + off is 64 + (c * imageField img 0x20 32 32 : Nat) ∧
      (imageField img 0x10 0 64 : Int) + off is 64 + (c * imageField img 0x20 32 32 : Nat) + b ≤ 0xFFFFFF)
/-- The CAUSE that a load of an image reports, 0 for a good one (09 R211, R233); which of several defects is named is the model's choice (assumption 81). -/
def walkCause (img : BitVec 2048) (cause : Nat) : Prop :=
  (¬walkPair img → cause = 3) ∧ (walkPair img → ¬walkGood img → cause = 1) ∧
  (walkPair img → walkGood img → (walkInside img → cause = 0) ∧ (¬walkInside img → cause = 2))
/-- Segments of `n` bytes are read, those in the slice by the engine one after another, those in a buffer as they stand; `p` is the first with an uncorrectable error, by its store's number and its address (09 R208, R217, R219). -/
def segsRead (k : Nat) (u : Buf) (slice : Bool) (n : Nat) : List Nat → State → List (List Byte) → Option (Nat × Word) → State → Prop
  | [], s, bs, p, t => bs = [] ∧ p = none ∧ t = s
  | a :: l, s, bs, p, t => ∃ (b : List Byte) (rest : List (List Byte)) (here q : Option (Nat × Word)) (v : State),
      bs = b :: rest ∧ p = here.or q ∧ segsRead k u slice n l v rest q t ∧
      (slice = true → ∃ bad, s.engineRead k a n 0 = (.ok (b, bad), v) ∧ here = if bad = true then some (0, v.paOf k a) else none) ∧
      (slice = false → v = s ∧ b = (s.cluster k).bufBytes u a n ∧
        here = if (s.cluster k).bufPoisoned u a n = true then some (if u = .wb then 4 else 5, BitVec.ofNat 64 a) else none)

/-! Packets. -/

/-- Packet `p` stands in the inbox of cluster `k` at the place that the event names. -/
abbrev inboxAt (s : State) (k : Nat) (p : Packet) : Prop := s.arg.k = k ∧ (s.cluster k).inbox[s.arg.i]? = some p
/-- The state without that packet. -/
def withoutPacket (s : State) (k : Nat) : State := s.modCluster k (fun c => { c with inbox := c.inbox.eraseIdx s.arg.i })
/-- An admitted request from a cluster of the own device, next in its order (17 R350, 20 R416). -/
abbrev performable (s : State) (k : Nat) (p : Packet) : Prop :=
  inboxAt s k p ∧ p.adm = true ∧ p.rpl = false ∧ orderly (s.cluster k).inbox s.arg.i p = true ∧ p.sdev = s.deviceNo
/-- The event performs all of a packet, of which nothing is performed yet. -/
abbrev wholly (s : State) (p : Packet) : Prop := p.part = 0 ∧ p.bad = false ∧ s.arg.j = 0
/-- A packet accesses its Window within its size and by a right that it has: RD, WR, AC, AT in bits 128 to 131 of the descriptor (17 R348, R350). -/
def withinRights (e : Sel) (p : Packet) : Prop :=
  p.off + (if p.kind = kRAMO ∨ p.kind = kRCAS then (if p.arg.getLsbD 7 then 8 else 4) else if p.kind = kARRIVE then 16 else 4 * p.elems)
      ≤ e.desc.toNat / 2 ^ 64 % 2 ^ 40 ∧
    e.desc.getLsbD (128 + (if p.kind = kGETREQ then 0 else if p.kind = kPUT then 1 else if p.kind = kACCF ∨ p.kind = kACCI then 2 else 3)) = true
/-- The kinds of packets that access a Window. -/
def accessKinds : List (BitVec 8) := [kPUT, kGETREQ, kACCF, kACCI, kRAMO, kRCAS, kARRIVE]
/-- Its origin receives a reply of a kind to it. -/
def answered (t : State) (p : Packet) (kind : BitVec 8) (f : Packet → Prop) : Prop :=
  ∃ r ∈ (t.cluster p.scl).inbox, r.kind = kind ∧ r.rpl = true ∧ r.rtag = p.rtag ∧ f r
/-- A reply to a request of command `m`, an operation with its last packet outstanding and none failed. -/
abbrev lastReply (s : State) (k : Nat) (p : Packet) (pl : Place) (m : Cmd) (r : Remote) : Prop :=
  inboxAt s k p ∧ SMap.find (s.cluster k).places p.rtag = some pl ∧ (s.cluster k).cmd pl.cmd = some m ∧ m.remote = some r ∧ m.isPoll = false ∧
    r.allSent = true ∧ r.out = 1 ∧ r.failed = 0 ∧ (s.cluster k).heldWrites = []
/-- The kind of the packets that an operation sends (17 R358-R360, 12 R284, R285, 15 R319, R322). -/
def packetKind (m : Cmd) : BitVec 8 :=
  if m.isPoll then kGETREQ
  else match m.instr with
    | .put _ => kPUT
    | .get _ => kGETREQ
    | .acc _ => if (m.regs.headD 0).toNat / 2 ^ 24 % 16 = 0 then kACCF else kACCI
    | .ramo _ => kRAMO
    | .rcas _ => kRCAS
    | .spawnRemote .. => kSPAWN
    | .joinParent .. => kJOIN
    | .gbarWait .. => kGETREQ
    | _ => kARRIVE
/-- The place of an 8-byte count pair of window `w`: WSTAT below, REJ above (17 R348). -/
def countsAt (c : Cluster) (w : Nat) : Nat := c.winbase.toNat / 2 ^ 12 % 2 ^ 44 * 4096 + 64 * w + 24
/-- A target cluster lies within a scope of an origin, cluster `k` of device `dev`, whose own operation goes to `own` (16 R325). -/
def scopeCovers (sc dev k : Nat) (own d : Nat × Nat) : Prop :=
  7 ≤ sc ∨ (sc = 6 ∧ (d = own ∨ d = (dev, k))) ∨ (d.1 = dev ∧ (sc = 5 ∨ (sc = 4 ∧ d.2 / 12 = k / 12) ∨ (sc = 3 ∧ d.2 / 4 = k / 4) ∨ (sc = 2 ∧ d.2 = k)))
/-- The scope of the release that an operation carries (16 R335). -/
def carriesRelease : Instr → Option Nat
  | .put f => if f.order = .rel then some f.scope.toNat else none
  | .acc f => if f.order = .rel then some f.scope.toNat else none
  | .ramo f => if f.order = .rel then some f.scope.toNat else none
  | .rcas f => if f.order = .rel then some f.scope.toNat else none
  | _ => none
/-- A cluster after an acquire of some bytes: every set that one of their lines tags stands written back (16 R334). -/
def acquired (c : Cluster) (cs : List Chunk) : Cluster :=
  let hit := c.relSets.filter (fun r => cs.any (fun x => (linesOf x.pa x.len).contains r.tag))
  let d := c.writeBack ((hit.map (fun r => r.tag :: r.lines)).flatten)
  { d with relSets := d.relSets.filter (fun r => !cs.any (fun x => (linesOf x.pa x.len).contains r.tag)) }

/-! Stack engines, dispatch and barriers. -/

def isFence (i : Instr) : Bool := match i with
  | .nmfence _ => true
  | _ => false
/-- The eight words of a descriptor. -/
def words8 (bs : List Byte) : List Word := (chunks 8 64 bs).map (fun b => BitVec.ofNat 64 (leNat b))
/-- Key `i` of a list stands before key `j` (18 R379): the greater first, a NaN last, the lower index first on ties. -/
def ranksBefore (l : List Ex) (i j : Nat) : Prop :=
  let x := l.getD i Ex.invalid
  let y := l.getD j Ex.invalid
  keyAbove x y = true ∨ (keyAbove y x = false ∧ i < j)
/-- The command stands in cluster `k`, and an engine serves it next with job `j`. -/
abbrev served (s : State) (k : Nat) (m : Cmd) (j : NmJob) : Prop :=
  aboutCmd s k m ∧ s.nmReady k = some m ∧ s.nmTurn k = true ∧ nmJob m.instr (m.data.take 8) = some j
/-- One sector of eight elements of a lookup's output (18 R383): sums of products of weights and values, rounded once. -/
def pkSector (c : Cluster) (m : Cmd) (val out vd : Nat) (used : List (Nat × Nat)) (bad : Bool) (j : Nat) : Cluster :=
  let at_ := fun (p : Nat × Nat) => val + 4 * vd * p.1 + 32 * j
  c.nmWrite m (out + 32 * j) (((List.range 8).map (fun d => bytesLE 4 (nmRound (used.foldl (fun a p =>
      exAdd .rne a (exMul (fF32.decode p.2) (fF32.decode ((elems32 (c.nmRead m (at_ p) 32).1).getD d 0)))) (.zero false))))).flatten)
    (bad || used.any (fun p => (c.firstMark m (at_ p) 32).isSome))
/-- How far an addition has come: the cluster, the index of the row in hand and its mark, NF, RCNT, and whether marked data has fed the command. -/
structure AddState where
  cl : Cluster
  index : Nat
  indexBad : Bool
  nf : Bool
  rcnt : Nat
  bad : Bool
/-- One sector of an addition, `w` of them to a row (18 R385): the first reads the row's index; at an index of the table the elements are added, NF records an infinity or a NaN among operands and results, and RCNT counts the indexes beyond the table. -/
def addSector (m : Cmd) (src idx dst nrows w : Nat) (a : AddState) (u : Nat) : AddState :=
  let start := u % w = 0
  let read := leNat (a.cl.nmRead m (idx + 4 * (u / w)) 4).1
  let mark := (a.cl.firstMark m (idx + 4 * (u / w)) 4).isSome
  let i := if start then read else a.index
  let ib := if start then mark else a.indexBad
  let rc := if start ∧ read ≠ 0xFFFFFFFF ∧ nrows ≤ read then min 65535 (a.rcnt + 1) else a.rcnt
  let fed := a.bad || (decide start && mark)
  if nrows ≤ i then { a with index := i, indexBad := ib, rcnt := rc, bad := fed }
  else
    let d := dst + 32 * (w * i + u % w)
    let xs := elems32 (a.cl.nmRead m d 32).1
    let ys := elems32 (a.cl.nmRead m (src + 32 * u) 32).1
    let zs := (xs.zip ys).map (fun p => fF32.round .rne false (exAdd .rne (fF32.decode p.1) (fF32.decode p.2)))
    let marked := (a.cl.firstMark m d 32).isSome || (a.cl.firstMark m (src + 32 * u) 32).isSome
    { cl := a.cl.nmWrite m d ((zs.map (bytesLE 4)).flatten) (ib || m.bad || marked), index := i, indexBad := ib, rcnt := rc
      nf := a.nf || (xs ++ ys ++ zs).any (fun v => v / 2 ^ 23 % 256 == 255), bad := fed || marked }
/-- The state after the turn has passed to cluster `k`. -/
def turned (s : State) (k : Nat) : State := s.modEngine (stackOf k) (fun e => { e with last := k % 4 })

/-! Kernels, the host port and the fabric. -/

/-- The requests that the host makes of its port, and of them its writes to the control region. -/
def controlWrites : List Instr := [.kernelTableWrite, .ksubmit, .kctlStop, .kctlResume, .kctlEnd, .kctlRelease, .stagingWrite, .rload, .minsvn, .mreset, .plimit]
def hostRequests : List Instr := [.hostRdmaWrite, .hostRdmaRead, .attestationRequest] ++ controlWrites
/-- The host port is up and the request is on a connected queue pair; it is the one that the pair expects (20 R419, R422). -/
abbrev onPair (s : State) : Prop := s.hostUp = true ∧ s.arg.c < 64 ∧ (s.qpair s.arg.c).on = true
abbrev inTurn (s : State) : Prop := onPair s ∧ s.arg.j = (s.qpair s.arg.c).psn
/-- A write of `n` bytes to the control region that the port takes: in its turn, with the region's key, and within the path MTU (20 R419, R420). -/
abbrev controlTaken (s : State) (n : Nat) : Prop :=
  inTurn s ∧ (s.qpair s.arg.c).msg = none ∧ (s.qpair s.arg.c).held = [] ∧ s.keyOk 0 = true ∧ n ≤ 4096
/-- A request is refused with a NAK that leaves its queue pair in error: no connection, nothing unfinished on it; everything else that the host sees stays. -/
def closesPair (s : State) (o : Out) (a : Output) : Prop :=
  ∃ t, o = .next t ∧ t.outbox = s.outbox ++ [a] ∧ t.qpair s.arg.c = { s.qpair s.arg.c with on := false, msg := none, held := [] } ∧
    (∀ q, q ≠ s.arg.c → t.qpair q = s.qpair q) ∧ t.kernels = s.kernels ∧ t.stage = s.stage ∧ t.flash = s.flash ∧ t.staging = s.staging ∧ t.apertures = s.apertures ∧
    ∀ j, (t.cluster j).mem = (s.cluster j).mem ∧ (t.cluster j).dirty = (s.cluster j).dirty ∧ (t.cluster j).ctx = (s.cluster j).ctx
/-- The writes of a buffer after a packet: its write stands last, with the packet's bytes behind those that it had; the others stay in order. -/
def packetJoined (l r : List Ingress) (id pa len : Nat) (bs : List Byte) (last : Bool) : Prop :=
  ∃ g, r = l.filter (fun w => w.msg != id) ++ [g] ∧ g.msg = id ∧ g.last = last ∧
    match l.find? (fun w => w.msg == id) with
    | none => g.pa = pa ∧ g.len = len ∧ g.bytes = bs
    | some w => g.pa = w.pa ∧ g.len = w.len ∧ g.bytes = w.bytes ++ bs
/-- The host's write carries a KCTL word for entry `i` with operation `op`, in stage 3 (13 R292). -/
abbrev kctlFor (s : State) (i op : Nat) : Prop := controlTaken s 8 ∧ s.stage = 3 ∧ i < 256 ∧ op < 4 ∧ s.arg.w = BitVec.ofNat 64 (i + 256 * op)
/-- What a resumption of entry `i` does in a state (13 R300): it runs the Kernel again on its clusters unless its save area faults, or admits it for the first time; while another Kernel has one of its clusters it waits for firmware. -/
def resumes (u : State) (i : Nat) (o : Out) : Prop :=
  ((u.kernel i).clusters ≠ [] → u.clustersFree i (u.kernel i).clusters = true → ∃ t, o = .next t ∧
    ((t.kernel i).st = .running ∨ ((t.kernel i).st = .faulted ∧ (t.kernel i).code = cPAGE))) ∧
  ((u.kernel i).clusters ≠ [] → u.clustersFree i (u.kernel i).clusters = false → o = .next (u.modKernel i (fun e => { e with wanted := true }))) ∧
  ((u.kernel i).clusters = [] → o =
    .next (if u.clustersFree i (u.kernelClusters u.arg.k (u.kernel i).rcd) = true then u.admission i else u.modKernel i (fun e => { e with wanted := true })))
/-- The die controller of a port records an event of it (21 R428): the record stands at the write index, unless the queue is full. -/
def portRecord (u t : State) (n kind : Nat) : Prop :=
  let d := u.die (n / 9)
  d.wr - d.rd < 4096 → (t.die (n / 9)).wr = d.wr + 1 ∧
    ∃ r, SMap.find (t.die (n / 9)).errq (d.wr % 4096) = some r ∧ r.w0 = errWord kind 8 0 63 0 n 15 ∧ r.time = (u.port n).time
/-- A byte of a map of bytes after a run of bytes has been written. -/
def written (old : Byte) (at_ : Nat) (bs : List Byte) (j : Nat) : Byte := if at_ ≤ j ∧ j < at_ + bs.length then bs.getD (j - at_) 0 else old
/-- The fields of a packet are within the header's widths, and its payload is that of its kind (20 R404, R405). -/
abbrev Packet.fits (p : Packet) : Prop :=
  p.hop < 4 ∧ p.sdev < 2048 ∧ p.scl < 64 ∧ p.ddev < 2048 ∧ p.dcl < 64 ∧ p.via < 2048 ∧ p.rtag < 1024 ∧ p.win < 4096 ∧ p.off < 2 ^ 40 ∧
    1 ≤ p.elems ∧ p.elems ≤ 64 ∧ p.payload.length = 32 * beats p.kind p.elems
/-- The state with port `n` at the event's clk count. -/
def portClock (s : State) (n : Nat) : State := s.modPort n (fun x => { x with time := Nat.max x.time s.arg.v.toNat })
/-- A block that a stop parks at once: it may wait on another party, or on the Context itself (13 R297). -/
def parksAtOnce (c : Cluster) (x : Context) : Prop :=
  x.cause ∈ [some .handle, some .barrier, some .window, some .memory, some .portFull] ∨ (x.cause = some .engine ∧ x.causeEng = .network) ∨
    (x.cause = some .token ∧ ∃ m ∈ c.cmds, m.id ∈ x.awaits ∧ m.eng = .network ∧ (∀ g w b, m.instr ≠ .wexpose g w b) ∧ ∀ g w, m.instr ≠ .wrevoke g w)
/-- The stop of entry `i` has begun: STOPF stands in every Context of its clusters, a park request on each that is FREE, and nothing else of a Context has changed. -/
def stopBegun (s u : State) (i : Nat) : Prop :=
  let ks := (s.kernel i).clusters
  (u.kernel i).st = .stopping ∧ (u.kernel i).clusters = ks ∧ (u.kernel i).saved = (s.kernel i).saved ∧
    ∀ k ∈ ks, (u.kernel i).stopAt.find? (fun p => p.1 == k) = some (k, (s.cluster k).clk) ∧ (u.cluster k).cmds = (s.cluster k).cmds ∧ (u.cluster k).mem = (s.cluster k).mem ∧
      ∀ c, c < 4 → u.context k c = { s.context k c with stopf := true, parkReq := (s.context k c).parkReq || decide ((s.context k c).st = .free) }

/-! Frames, bundles and steps. -/

/-- Scalar instructions that write one s-register or one predicate pair, and nothing else. -/
def registerOnly (s : State) (k c : Nat) (i : Instr) : Bool :=
  (arithmeticRow i).isSome || (shiftRow i).isSome || (pairRow (s.context k c) i).isSome || (readRow s k c i).isSome
/-- Everything of a Context but its PC, its issue count, its bundle count, its sticky words, its idle counters, how it was reached, its loop levels with stage mode, and the results on their way. -/
def Context.rest (x : Context) : Context :=
  { x with pc := 0, iter := 0, bcount := 0, loops := [], mode := false, sticky := StickySet.none, idle := [], flights := [], predWrites := [], lastXfer := none, xferred := false, skipS := false, pleat := Pleat.off, release := 0,
           notBefore := 0 }
/-- A slot that does nothing. -/
def idleWord (i : Instr) : Bool := match i with
  | .nop _ => true
  | .nopA _ => true
  | .nopE _ => true
  | _ => false
/-- Every word of a bundle is an idle one whose guard can be read. -/
def idleBundle (x : Context) (b : Bundle) : Prop :=
  b.rsv = 0 ∧ b.hwin = false ∧ b.keep = false ∧ (b.rep ≠ 0 → b.s = none) ∧ ∀ p ∈ b.words, ∃ i, decodeWord p.1 p.2 = .ok i ∧ idleWord i = true ∧ x.readyP (guardOf i) = true
/-- The current core is about to issue from Context `c` of cluster `k`. -/
abbrev onTurn (s : State) (k c : Nat) : Prop := s.cur = k ∧ k < Config.clusters ∧ (s.cluster k).runCtx = some c ∧ (s.context k c).skipS = false
/-- So it is, with an issue of a bundle of `rep` repeats that the bundle limit allows. -/
abbrev running (s : State) (k c rep : Nat) : Prop := onTurn s k c ∧ runaway (s.cluster k) (s.context k c) = false ∧ (s.context k c).iter ≤ rep
/-- The sticky word of a slot; S has none (03 R64). -/
def stickyOf (x : Context) : Slot → Option Sticky
  | .s => none
  | .a => x.sticky.a
  | .v0 => x.sticky.v0
  | .v1 => x.sticky.v1
  | .e => x.sticky.e
/-- The one word that a bundle issues, with its number n: its own, at its issue, or with KEEP the sticky word of a slot (03 R62, R64). -/
def issuesOnly (x : Context) (b : Bundle) (sl : Slot) (w : Word) (n : BitVec 32) (sticky : Bool) : Prop :=
  b.rsv = 0 ∧ b.hwin = false ∧ sl ≠ .s ∧
    ((sticky = false ∧ b.keep = false ∧ b.words = [(sl, w)] ∧ n = BitVec.ofNat 32 x.iter) ∨
      (sticky = true ∧ b.keep = true ∧ b.words = [] ∧ ∃ m, n = m + 1 ∧ ∀ q, stickyOf x q = if q = sl then some { word := w, n := m } else none))
/-- What a word of the bundle meets in its issue. -/
def issueOf (s : State) (k c : Nat) (b : Bundle) (it : Item) (i : Instr) : Issue :=
  let x := s.context k c
  { pre := s, k := k, c := c, slot := it.slot, instr := i, n := it.n, iter := x.iter, rep := b.rep.toNat, pc := x.pc, len := b.bytes, uses := it.uses x }
/-- The state after an issue of a bundle in which every slot acted. -/
def State.bundleIssued (s : State) (k c : Nat) (b : Bundle) (w : Work) : State := finishIssue k c (headerOf b) (bundleItems b (s.context k c)) w
/-- The address of an A-slot word at issue number `n` (03 R62). -/
def steppedAddress (x : Context) (m : AMem) (n : Nat) : Word := x.areg m.b + m.off.signExtend 64 + BitVec.ofInt 64 (m.step.toInt * n * m.w.bytes)
/-- What every cluster keeps: its memory, WB and AB in their canonical form, and the dirty bytes of its L1D in the order of their addresses. -/
def State.memoriesCanonical (s : State) : Prop :=
  ∀ k, Memory.wf (s.cluster k).mem = true ∧ SMap.sorted 0 (s.cluster k).dirty = true ∧ Memory.wf (s.cluster k).wb = true ∧ Memory.wf (s.cluster k).ab = true

end Sys2Proof.Machine

open Sys2Proof Sys2Proof.Machine

/-- Arithmetic, logic and immediates (06 R129-R132, 02 R48, 04 R97): with its guard on and its operands ready, the instruction's issue takes place, and the one result that leaves is the named value, due after the class's clk. Shifts, counts, bit fields, minimum, maximum and saturating sums (06 R130-R135). -/
def Obligations.ScalarResults : Prop :=
  (∀ (s : State) (k c : Nat) (i : Instr) (g : Reg4) (d a b : SReg) (lat : Nat) (f : Word → Word → Word),
     arithmeticRow i = some (g, d, a, b, lat, f) → s.issuing k c = true → (s.context k c).on g = true →
     (s.context k c).readyS a = true → (s.context k c).readyS b = true → (s.context k c).freeS d = true →
     exec i s = .next (s.issued k c i (s.result k c d (f ((s.context k c).sreg a) ((s.context k c).sreg b)) lat))) ∧
  (∀ (s : State) (k c : Nat) (i : Instr) (g : Reg4) (d a b : SReg) (f : Word → Word → Word),
     shiftRow i = some (g, d, a, b, f) → legal i = true → s.issuing k c = true → (s.context k c).on g = true →
     (s.context k c).readyS a = true → (s.context k c).readyS b = true → (s.context k c).freeS d = true →
     exec i s = .next (s.issued k c i (s.result k c d (f ((s.context k c).sreg a) ((s.context k c).sreg b)) 1)))

/-- The instructions that write a predicate pair (06 R137-R141, 11 R260, 17 R368): the mask leaves for the pair, due 3 ic after the issue. In stage mode a pair among p8-p15 is ILLEGAL instead (05 R110). The instructions that read a predicate, an a-register or a part of the core into an s-register (06 R136, R142, 05 R118, R119, R123, 08 R196, R203, 11 R260, 17 R368). `rdtr` and `ptest` need H = 1 (04 R93). In stage mode a load into p8 to p15, and a vector compare into a pair among them, are ILLEGAL at issue (05 R110). -/
def Obligations.PredicateAndReadResults : Prop :=
  (∀ (s : State) (k c : Nat) (i : Instr) (g e : Reg4) (as : List SReg) (ps : List Reg4) (m : Mask),
     pairRow (s.context k c) i = some (g, e, as, ps, m) → legal i = true → s.issuing k c = true →
     if (s.context k c).mode = true ∧ 8 ≤ e.toNat then
       exec i s = .next (s.enterTrap k c (Trap.slotTrap cILLEGAL 0 0) false)
     else
       (s.context k c).on g = true → (∀ a ∈ as, (s.context k c).readyS a = true) → (∀ p ∈ ps, (s.context k c).readyP p = true) →
       exec i s = .next (s.issued k c i (s.resultPair k c e m))) ∧
  (∀ (s : State) (k c : Nat) (i : Instr) (g : Reg4) (d : SReg) (as : List SReg) (ps bs : List Reg4) (v : Word),
     readRow s k c i = some (g, d, as, ps, bs, v) → legal i = true → s.issuing k c = true →
     (privileged i = true → (s.context k c).h = true) → (s.context k c).on g = true →
     (∀ a ∈ as, (s.context k c).readyS a = true) → (∀ p ∈ ps, (s.context k c).readyP p = true) →
     (∀ b ∈ bs, (s.context k c).readyA b = true) → (s.context k c).freeS d = true →
     exec i s = .next (s.issued k c i (s.result k c d v 1))) ∧
  (∀ (s : State) (k c : Nat), s.issuing k c = true → (s.context k c).mode = true →
     (∀ (m : AMem) (r : Reg4), legal (.ld m (.p r)) = true → 8 ≤ r.toNat →
       exec (.ld m (.p r)) s = .next (s.enterTrap k c (Trap.slotTrap cILLEGAL 1 0) false)) ∧
     (∀ (i : Instr) (f : VF) (v : Nat → Nat) (p : Nat → Bool), compareRow (s.context k c) i = some (f, v, p) → legal i = true → 8 ≤ (immE f).toNat →
       exec i s = .next (s.enterTrap k c (Trap.slotTrap cILLEGAL (slotNumber i) 0) false)))

/-- Branches and calls (05 R116): more levels than are active raise ILLEGAL; a target that is not a multiple of 4 raises ALIGN with the target as its address; otherwise the levels are removed, the link register takes the address of the next bundle, and the issue transfers to the target. The loop unit (05 R117): LEN 0, a fifth level, or `loop.swp` in stage mode raise ILLEGAL; a trip count of 0 passes over the body, and for `loop.swp` counts as a change of stage mode in the look-ahead (03 R77); otherwise a level is pushed, and `loop.swp` starts stage mode with p8 all ones and p9 to p15 all zeros, over any earlier result for them that lands in its ic (03 R60), FEED at the trips left. That LEN 0 is found at decode is the model's choice (assumption 93), and so is that the PC's move past a body counts as a transfer (assumption 65). -/
def Obligations.ControlTransfers : Prop :=
  (∀ (s : State) (k c : Nat) (i : Instr) (g : Reg4) (a : SReg) (n : Nat) (target : Word) (link : Option SReg),
     branchRow (s.context k c) i = some (g, a, n, target, link) → legal i = true → s.issuing k c = true →
     (s.context k c).on g = true → (s.context k c).readyS a = true → (∀ d, link = some d → (s.context k c).freeS d = true) →
     if (s.context k c).loops.length < n then
       exec i s = .next (s.enterTrap k c (Trap.slotTrap cILLEGAL 0 0) false)
     else if target.toNat % 4 ≠ 0 then
       exec i s = .next (s.enterTrap k c { Trap.slotTrap cALIGN 0 0 with addr := target } false)
     else
       exec i s = .next (s.issued k c i
         { s.does k c (fun x =>
             { x with
               loops := x.loops.drop n, mode := if (x.loops.take n).any (·.swp) then false else x.mode
               flights := x.flights ++ linkFlights x link }) with
           jump := some target })) ∧
  (∀ (s : State) (k c : Nat) (i : Instr) (g : Reg4) (a : SReg) (trips : Nat) (stages : Option Nat) (len y : BitVec 16),
     loopRow (s.context k c) i = some (g, a, trips, stages, len, y) → legal i = true → s.issuing k c = true →
     (s.context k c).on g = true → (s.context k c).readyS a = true →
     if len = 0 ∨ (trips ≠ 0 ∧ 4 ≤ (s.context k c).loops.length) ∨ (stages.isSome = true ∧ (s.context k c).mode = true) then
       exec i s = .next (s.enterTrap k c (Trap.slotTrap cILLEGAL 0 0) false)
     else if trips = 0 then
       exec i s = .next (s.issued k c i
         { (if stages.isSome then s.does k c (fun x => { x with lastStage := some (s.cluster k).ic }) else s.blank) with
           jump := some ((s.context k c).pc + 12 + 4 * len.setWidth 64) })
     else
       ∃ y' : Context, exec i s = .next (s.issued k c i (s.does k c (fun _ => y'))) ∧
         y'.loops = loopLevel (s.context k c) trips stages len y :: (s.context k c).loops ∧
         (stages = none → y' = { s.context k c with loops := y'.loops }) ∧
         (stages.isSome = true → y'.mode = true ∧ y'.feed = BitVec.ofNat 32 (trips - 1) ∧
           (∀ r : Reg4, y'.preg r = if r = 8 then BitVec.allOnes 256 else if 9 ≤ r.toNat then 0 else (s.context k c).preg r) ∧
           y'.flights = (s.context k c).flights.filter (fun f => !(f.dest.isStage && decide (f.pace ≠ .held ∧ f.remain ≤ 1))) ∧
           y' = { s.context k c with
             loops := y'.loops, mode := true, feed := y'.feed, lastStage := some (s.cluster k).ic, p := y'.p, pBad := y'.pBad, flights := y'.flights }))

/-- `endt` (05 R114): with every Token and Handle of the Context complete, the task ends: the Context holds no task, its Tokens and Handles are FREE, the loop unit is clear, MODE, HERR and TERR are 0, and it is FREE, or PARKED where a park request stands; the Kernel's ENDED counts a leaf task, up to all ones (13 R292). While a Token is pending it blocks with the cause Token, else while a Handle is, with the cause Handle: that order is the model's choice (assumption 89). While a local join or a write of the Context has still to take effect it stalls, each clk idle (12 R285, 13 R296, 26 R456; the model's choice, assumption 88). `yield` (05 R115) waits as `endt` does; then the Context goes to YIELD with a continuation record: CODE the target, FRAME a15, PRIO and OPRIO the task's OPRIO, its TAIL, LVL0 to LVL7 and parent, PREM and PPEER as PPEER holds them, JOIN 0. -/
def Obligations.TaskEnds : Prop :=
  (∀ (s : State) (k c : Nat) (g : Reg4), s.issuing k c = true → (s.context k c).on g = true →
     (((s.context k c).toks.all (fun p => decide (p.2.st ≠ .pending)) = true →
       (s.context k c).hnds.all (fun p => !p.2.st.pending) = true → nothingDue s k c = true →
       ∃ t : State, exec (.endt g) s = .next t ∧ (t.context k c).live = false ∧ (t.context k c).toks = [] ∧
         (t.context k c).hnds = [] ∧ (t.context k c).loops = [] ∧ (t.context k c).mode = false ∧ (t.context k c).sticky = StickySet.none ∧
         (t.context k c).herr = false ∧ (t.context k c).terr = false ∧
         ((s.context k c).parkReq = false → s.stoppingAt k = false → (t.context k c).st = .free) ∧
         ((s.context k c).parkReq = true → (t.context k c).st = .parked) ∧
         (∀ i, (s.cluster k).kernel = some i → (t.kernel i).ended =
           if (s.context k c).leaf = true ∧ (s.kernel i).ended ≠ BitVec.allOnes 32 then (s.kernel i).ended + 1 else (s.kernel i).ended)) ∧
     ((s.context k c).toks.all (fun p => decide (p.2.st ≠ .pending)) = true → (s.context k c).hnds.all (fun p => !p.2.st.pending) = true →
       nothingDue s k c = false → exec (.endt g) s = .next (s.modCluster k (fun cl => cl.idleClk 1))) ∧
     ((s.context k c).toks.any (fun p => decide (p.2.st = .pending)) = true →
       ∃ t : State, exec (.endt g) s = .next t ∧ (t.context k c).st = .blocked ∧ (t.context k c).cause = some .token ∧ (t.context k c).pc = (s.context k c).pc) ∧
     ((s.context k c).toks.all (fun p => decide (p.2.st ≠ .pending)) = true →
       (s.context k c).hnds.any (fun p => p.2.st.pending) = true →
       ∃ t : State, exec (.endt g) s = .next t ∧ (t.context k c).st = .blocked ∧ (t.context k c).cause = some .handle ∧ (t.context k c).pc = (s.context k c).pc))) ∧
  (∀ (s : State) (k c : Nat) (g : Reg4) (imm : BitVec 32), legal (.yield g imm) = true → s.issuing k c = true → (s.context k c).on g = true →
     let x := s.context k c
     let tokens := x.toks.all (fun p => decide (p.2.st ≠ .pending))
     let handles := x.hnds.all (fun p => !p.2.st.pending)
     (tokens = false → ∃ t : State, exec (.yield g imm) s = .next t ∧ waitsFor s t k c .token) ∧
     (tokens = true → handles = false → ∃ t : State, exec (.yield g imm) s = .next t ∧ waitsFor s t k c .handle) ∧
     (tokens = true → handles = true → nothingDue s k c = false → exec (.yield g imm) s = .next (s.modCluster k (fun cl => cl.idleClk 1))) ∧
     (tokens = true → handles = true → nothingDue s k c = true → x.readyA 15 = true →
     ∃ (t : State) (r : BitVec 512), exec (.yield g imm) s = .next t ∧ (t.context k c).st = .yield ∧ (t.context k c).cont = some r ∧
       recCode r = (s.context k c).pc + imm.signExtend 64 ∧ recFrame r = (s.context k c).areg 15 ∧
       recPrio r = (s.context k c).oprio.toNat ∧ recOprio r = (s.context k c).oprio.toNat ∧ recTail r = (s.context k c).tail ∧ recJoin r = 0 ∧
       recParent r = x.prec.toNat ∧ recPrem r = x.ppeer.getLsbD 12 ∧ recPpeer r = x.ppeer.toNat % 4096 ∧ (∀ j, j < 8 → recLvl r j = x.lvl.getD j 0)))

/-- `mts` (05 R118): a write to a PW register needs H = 1; the register takes s[A] under its access code. What a write leaves in a control register is what a read gives: the written bits that the register holds, zero elsewhere; a read-only register gives its part of the Context or of the cluster, and a write to one changes none; STATUS shows H, STOPF, HERR and TERR, and a write of ones to HERR and TERR clears them (05 R107-R109, R118). -/
def Obligations.ControlRegisters : Prop :=
  (∀ (s : State) (k c : Nat) (g : Reg4) (a : SReg) (num : BitVec 8), legal (.mts g a num) = true → s.issuing k c = true →
     if 0x40 ≤ num.toNat ∧ (s.context k c).h = false then
       exec (.mts g a num) s = .next (s.enterTrap k c (Trap.slotTrap cPRIV 0 0) false)
     else
       (s.context k c).on g = true → (s.context k c).readyS a = true →
       exec (.mts g a num) s = .next (s.issued k c (.mts g a num) { s.blank with st := s.ctlWrite k c num.toNat ((s.context k c).sreg a) })) ∧
  ((∀ (s : State) (k c : Nat) (v pc : Word) (num : Nat) (mask : Word), (num, mask) ∈ readBackRows →
     ctlRead ((s.ctlWrite k c num v).cluster k) ((s.ctlWrite k c num v).context k c) k c pc num = v &&& mask) ∧
   (∀ (s : State) (k c : Nat) (pc : Word) (num : Nat) (v : Word), (num, v) ∈ readOnlyRows (s.cluster k) (s.context k c) k c pc →
     ctlRead (s.cluster k) (s.context k c) k c pc num = v ∧
     ∀ (v' : Word) (n : Nat), ctlRead ((s.ctlWrite k c num v').cluster k) ((s.ctlWrite k c num v').context k c) k c pc n = ctlRead (s.cluster k) (s.context k c) k c pc n) ∧
   (∀ (s : State) (k c : Nat) (v pc : Word),
     let x := s.context k c
     let y := (s.ctlWrite k c 0x14 v).context k c
     ctlRead (s.cluster k) x k c pc 0x14 = (0 : BitVec 60) ++ BitVec.ofBool x.terr ++ BitVec.ofBool x.herr ++ BitVec.ofBool x.stopf ++ BitVec.ofBool x.h ∧
     y.h = x.h ∧ y.stopf = x.stopf ∧ y.herr = (x.herr && !v.getLsbD 2) ∧ y.terr = (x.terr && !v.getLsbD 3)))

/-- `trap` and `sys` (05 R122): trap entry with TRAPCALL or SYSCALL, the instruction's code in the record, SKIPS set. `eret` (05 R122): PC := EPC, H := 0, sticky slots, loop levels, BCOUNT and queue position as trap entry saved them; the bundle at EPC resumes at issue ITER, without its S slot when SKIPS is set. An EPC that is not a multiple of 4 raises ALIGN (03 R58), which with H = 1 is DOUBLE (05 R104): that `eret` checks it before it returns is the model's choice (assumption 35). -/
def Obligations.TrapsAndReturn : Prop :=
  (∀ (s : State) (k c : Nat) (g : Reg4) (code : BitVec 16), s.issuing k c = true → (s.context k c).on g = true →
     exec (.trap g code) s = .next (s.enterTrap k c { Trap.slotTrap cTRAPCALL 0 0 with arg := code } true) ∧
     exec (.sys g code) s = .next (s.enterTrap k c { Trap.slotTrap cSYSCALL 0 0 with arg := code } true)) ∧
  (∀ (s : State) (k c : Nat) (g : Reg4) (v : Saved), s.issuing k c = true → (s.context k c).h = true → (s.context k c).on g = true →
     (s.context k c).saved = some v →
     if (s.context k c).epc.toNat % 4 = 0 then
       ∃ t : State, exec (.eret g) s = .next t ∧ (t.context k c).pc = (s.context k c).epc ∧ (t.context k c).h = false ∧
         (t.context k c).sticky = v.sticky ∧ (t.context k c).loops = v.loops ∧ (t.context k c).bcount = v.bcount ∧ (t.context k c).qpos = v.qpos ∧
         (t.context k c).iter = (s.context k c).estat.toNat % 64 ∧ (t.context k c).skipS = (s.context k c).estat.getLsbD 9 ∧
         (t.context k c).s = (s.context k c).s ∧ (t.context k c).a = (s.context k c).a ∧ (t.context k c).p = (s.context k c).p ∧
         (t.context k c).v = (s.context k c).v ∧ (t.cluster k).mem = (s.cluster k).mem
     else exec (.eret g) s = .next (s.enterDouble k c cALIGN))

/-- Trap entry (05 R120, R121, 21 R424) on a Context with H = 0: EPC and ESTAT save the place, H is 1, the PC is TVEC, no slot is sticky, no loop level is active (the model's reading of 05 R111, assumption 65), the trap record stands on chip and at TREC + 64c with its code, PC and RSEQ, and what was saved is kept for `eret`, a precise trap that waited behind the entry among it (the model's choice, assumption 42). A precise trap while H = 1 leads to DOUBLE (05 R104): the Context's state is DOUBLE, its registers stand as they were, nothing is written to its memory, and the error queue of its die receives a record with both codes (21 R428, R429); a Kernel that has the cluster goes to FAULTED with code DOUBLE and gives its clusters back, the Context freed (13 R293). -/
def Obligations.TrapEntry : Prop :=
  (∀ (s : State) (k c : Nat) (t : Trap) (skips : Bool), (s.context k c).h = false → t.iter < 64 → t.slot < 8 → SMap.sorted 0 (s.cluster k).dirty = true →
     let s' := s.enterTrap k c t skips
     let x := s.context k c
     let x' := s'.context k c
     x'.epc = x.pc ∧ x'.h = true ∧ x'.pc = (s.cluster k).tvec ∧ x'.sticky = StickySet.none ∧ x'.loops = [] ∧ x'.iter = 0 ∧ x'.rseq = x.rseq + 1 ∧
     x'.estat = BitVec.ofNat 64 (t.iter + 64 * t.slot + 512 * bnat (skips || x.skipS)) ∧
     x'.saved = some { sticky := x.sticky, loops := x.loops, bcount := x.bcount, qpos := x.qpos, pc := x.pc, xferred := x.xferred, trap := x.trapPending } ∧
     x'.trapPending = none ∧
     x'.s = x.s ∧ x'.a = x.a ∧ x'.p = x.p ∧ x'.v = x.v ∧ x'.rot = x.rot ∧ x'.mode = x.mode ∧
     x'.trec.getD 1 0 = x.pc ∧ (x'.trec.getD 0 0).setWidth 16 = t.code ∧ x'.trec.length = 8 ∧
     (∀ j < 64, (s'.cluster k).byte (field (s.cluster k).trecBase.toNat 0 34 + 64 * c + j)
       = BitVec.ofNat 8 ((x'.trec.getD (j / 8) 0).toNat / 2 ^ (8 * (j % 8)))) ∧
     (∀ a, (a < field (s.cluster k).trecBase.toNat 0 34 + 64 * c ∨ field (s.cluster k).trecBase.toNat 0 34 + 64 * c + 64 ≤ a) →
       (s'.cluster k).byte a = (s.cluster k).byte a)) ∧
  (∀ (s : State) (k c : Nat) (t : Trap) (skips : Bool), (s.context k c).h = true →
     let s' := s.enterTrap k c t skips
     ((s.cluster k).kernel = none → (s'.context k c).st = .double) ∧
     (∀ i, (s.cluster k).kernel = some i → endedWith s s' i cDOUBLE ∧ (k ∈ (s.kernel i).clusters → (s'.context k c).st = .free)) ∧
     clusterRecord s s' k c 3 0 cDOUBLE (s.context k c).pc (BitVec.ofNat 64 (t.code.toNat + 2 ^ 16 * (((s.context k c).trec.getD 0 0).toNat % 2 ^ 16))) ∧
     (s'.context k c).pc = (s.context k c).pc ∧ (s'.context k c).s = (s.context k c).s ∧
     (s'.context k c).a = (s.context k c).a ∧ (s'.context k c).p = (s.context k c).p ∧ (s'.context k c).v = (s.context k c).v ∧
     (s'.cluster k).mem = (s.cluster k).mem ∧ (s'.cluster k).dirty = (s.cluster k).dirty)

/-- A guard that enables nothing (03 R75): an S-slot, A-slot or E-slot word with lane 0 of its guard off, and a V word or vector move with every lane off, does nothing; its issue takes place. An epoch instruction whose command is already on its way is not among them: what it does is stated with the epoch instructions. (`vcvts` counts its issue all the same, 02 R44.) `nop` does nothing whatever its guard, also one that is not ready or is poisoned: the model's choice (assumption 74). A word whose operand fields hold a reserved value raises ILLEGAL (03 R80), and a privileged operation with H = 0 raises PRIV (04 R93), whatever the guard (03 R75): the trap names the slot, and nothing else happens. -/
def Obligations.GuardsAndDecodeFaults : Prop :=
  (∀ (s : State) (k c : Nat) (i : Instr) (sl : Slot), slotOf i = some sl → legal i = true → s.issuing k c = true → settledReleases s k →
     decodeFault (s.context k c) sl i 0 false = none →
     ((sl = .s ∨ sl = .a ∨ sl = .e) → (∀ m r, i ≠ .ldv m r ∧ i ≠ .stv m r ∧ i ≠ .ldg m r ∧ i ≠ .sts m r) →
       (s.context k c).off (guardOf i) = true →
       ((epochRow (s.cluster k) (s.context k c) i).isSome = true → ∀ p ∈ (s.context k c).epochs, p.1 = (s.context k c).pc → p.2.1 ≠ 0) →
       exec i s = .next (s.issued k c i s.blank)) ∧
     ((sl = .v0 ∨ sl = .v1 ∨ ∃ m r, i = .ldv m r ∨ i = .stv m r ∨ i = .ldg m r ∨ i = .sts m r) → (∀ f, i ≠ .vcvts f) →
       (s.context k c).readyP (guardOf i) = true → (s.context k c).preg (guardOf i) = 0 → exec i s = .next (s.issued k c i s.blank)) ∧
     ((∃ g, i = .nop g ∨ i = .nopA g ∨ i = .nopE g) → exec i s = .next (s.issued k c i s.blank))) ∧
  (∀ (s : State) (k c : Nat) (i : Instr), (slotOf i).isSome = true → s.issuing k c = true → settledReleases s k →
     (legal i = false → exec i s = .next (s.enterTrap k c (Trap.slotTrap cILLEGAL (slotNumber i) 0) false)) ∧
     (legal i = true → privileged i = true → (s.context k c).h = false →
       exec i s = .next (s.enterTrap k c (Trap.slotTrap cPRIV (slotNumber i) 0) false)))

/-- An operand that has not arrived stalls the issue: one idle clk passes and nothing else changes (06 R126, 03 R59); one that a load or an interlocked instruction still has to deliver, an s-register and an a-register alike, and a predicate that a load has to deliver, guards among them. An s-register that awaits a remote return blocks the issue with the cause Handle (17 R360). A poisoned operand traps at its first reader with POISON and the origin of the value (21 R425). That one word's operands are looked at in the order guard, predicates, a-registers, s-registers, and that a trap of an earlier one stands ahead of a later one's stall, is the model's choice (assumption 32): 03 R59 and 06 R126 order slots, not operands. -/
def Obligations.OperandInterlock : Prop :=
  ∀ (s : State) (k c : Nat) (i : Instr) (sl : Slot) (g : Reg4) (as : List SReg) (ps bs : List Reg4),
    operandRow s k c i = some (g, as, ps, bs) → slotOf i = some sl → legal i = true → s.issuing k c = true →
    decodeFault (s.context k c) sl i 0 false = none →
    let x := s.context k c
    let stalls := exec i s = .next (s.modCluster k (fun cl => cl.idleClk 1))
    let poisons := fun (o : Origin) => exec i s = .next (s.enterTrap k c
      { Trap.slotTrap cPOISON (slotNumber i) 0 with src := 3, handle := o.handle, origPc := o.pc, origIter := o.iter, opcode := o.opcode, addr := o.addr } false)
    (x.predLoading g = true → stalls) ∧
    (∀ o, x.predLoading g = false → SMap.find x.pBad g.toNat = some o → poisons o) ∧
    (x.on g = true →
      (∀ l p r, ps = l ++ p :: r → (∀ q ∈ l, x.readyP q = true) →
        (x.predLoading p = true → stalls) ∧ (∀ o, x.predLoading p = false → SMap.find x.pBad p.toNat = some o → poisons o)) ∧
      ((∀ q ∈ ps, x.readyP q = true) → ∀ l b r, bs = l ++ b :: r → (∀ q ∈ l, x.readyA q = true) →
        (x.flying (.a b) = true → stalls) ∧ (∀ o, x.flying (.a b) = false → SMap.find x.aBad b.toNat = some o → poisons o)) ∧
      ((∀ q ∈ ps, x.readyP q = true) → (∀ q ∈ bs, x.readyA q = true) → ∀ l a r, as = l ++ a :: r → (∀ q ∈ l, x.readyS q = true) → a ≠ 0 →
        (x.flying (.s a) = true → stalls) ∧
        (x.flying (.s a) = false → x.freeS a = false → ∃ t : State, exec i s = .next t ∧ waitsFor s t k c .handle) ∧
        (∀ o, x.flying (.s a) = false → x.freeS a = true → SMap.find x.sBad a.toNat = some o → poisons o)))

/-- What an issue that took place does beside its slot's work (03 R59, R64, 05 R111, R112): the PC moves to the transfer's target, which wins over a back edge, or past the bundle, or where the loop unit's back edges take it; BCOUNT counts the bundle while H = 0; one ic and its clk pass; registers, memory, and everything of other clusters stay as the slot's work left them. -/
def Obligations.IssueBookkeeping : Prop :=
  ∀ (s : State) (k c : Nat) (i : Instr) (w : Work), s.issuing k c = true → w.after = .stay → w.ports = [] → w.gens = [] → w.extra = 0 → w.idle = 0 →
    (w.st.context k c).iter = 0 →
    let t := s.issued k c i w
    let x := w.st.context k c
    let y := t.context k c
    (∀ a, w.jump = some a → y.pc = a ∧ y.loops = x.loops ∧ y.mode = x.mode ∧ y.bcount = (if x.h then x.bcount else x.bcount + 1)) ∧
    (w.jump = none → afterBundle x y 12) ∧ y.iter = 0 ∧
    y.s = x.s ∧ y.a = x.a ∧ y.p = x.p ∧ y.v = x.v ∧ y.st = x.st ∧ y.h = x.h ∧ y.rot = x.rot ∧ y.toks = x.toks ∧ y.hnds = x.hnds ∧
    y.ports = x.ports ∧ y.epc = x.epc ∧ y.estat = x.estat ∧ y.tscr = x.tscr ∧ y.trec = x.trec ∧
    (slotOf i = some .s → y.sticky = StickySet.none) ∧ (slotOf i = some .v0 → legal i = true → y.sticky.v0 = some { word := wordOf i, n := 0 }) ∧
    (t.cluster k).ic = (w.st.cluster k).ic + 1 ∧ (t.cluster k).mem = (w.st.cluster k).mem ∧ (t.cluster k).dirty = (w.st.cluster k).dirty ∧
    (t.cluster k).cmds = (w.st.cluster k).cmds ∧ (t.cluster k).tiles = (w.st.cluster k).tiles ∧ (t.cluster k).wb = (w.st.cluster k).wb ∧
    (t.cluster k).ab = (w.st.cluster k).ab ∧ (t.cluster k).tvec = (w.st.cluster k).tvec ∧ (∀ j, j ≠ k → t.cluster j = w.st.cluster j) ∧
    (w.jump = none → (t.cluster k).clk = (w.st.cluster k).clk + 1) ∧ (w.jump.isSome = true → (t.cluster k).clk = (w.st.cluster k).clk + 3)

/-- `twait` and `hwait` (11 R259, 17 R367): complete when every Token named is resolved and no operation under a Handle named is unfinished (with LOC, not locally done); otherwise block with the cause Token or Handle. `park` (05 R123) on another Context of the core: READY and BLOCKED become PARKED; FREE and YIELD take a standing request; `release` takes a PARKED Context without a task to FREE, one with a task and no fault or cause to READY, one with a blocking cause to BLOCKED or, where the cause is no longer held, to READY (05 R104), and removes a FREE Context's standing request, which a stop of its Kernel makes again (13 R297); it does nothing to any other Context. The issuing Context parks itself. One in FAULT becomes PARKED and keeps its fault (the model's choice, assumption 66). That YIELD takes a standing request too is the model's choice (assumption 66), as is the test of a cause at the release (assumption 51). -/
def Obligations.WaitsAndParking : Prop :=
  (∀ (s : State) (k c : Nat) (i : Instr) (g : Reg4) (a : SReg) (ts : List Nat) (loc : Bool) (hs : List Nat),
     waitRow (s.context k c) i = some (g, a, ts, loc, hs) → legal i = true → s.issuing k c = true → (s.context k c).on g = true →
     (s.context k c).readyS a = true →
     (ts.all (tokenDone (s.context k c)) = true → (s.cluster k).cmds.any (holdsHandle c loc hs) = false →
       exec i s = .next (s.issued k c i s.blank)) ∧
     (ts.any (fun t => !tokenDone (s.context k c) t && !((s.context k c).tok t).cmds.isEmpty) = true →
       ∃ t : State, exec i s = .next t ∧ waitsFor s t k c .token) ∧
     ((s.cluster k).cmds.any (holdsHandle c loc hs) = true → ∃ t : State, exec i s = .next t ∧ waitsFor s t k c .handle)) ∧
  (∀ (s : State) (k c : Nat) (g : Reg4) (a : SReg) (rel : Bool), s.issuing k c = true → settledReleases s k → legal (.park g a rel) = true → (s.context k c).h = true →
     (s.context k c).on g = true → (s.context k c).readyS a = true →
     let j := ((s.context k c).sreg a).toNat % 4
     let x := s.context k j
     ∃ t : State, exec (.park g a rel) s = .next t ∧
       (j = c → rel = false → (t.context k c).st = .parked) ∧
       ((j ≠ c ∨ rel = true) → (s.context k c).loops = [] → (t.context k c).pc = (s.context k c).pc + 12) ∧
       (j ≠ c → rel = false → (x.st = .ready ∨ x.st = .blocked) → (t.context k j).st = .parked) ∧
       (j ≠ c → rel = false → (x.st = .free ∨ x.st = .yield) → (t.context k j).st = x.st ∧ (t.context k j).parkReq = true) ∧
       (j ≠ c → rel = false → x.st = .fault → (t.context k j).st = .parked ∧ (t.context k j).inFault = true) ∧
       (j ≠ c → rel = true → x.st ≠ .parked → (t.context k j).st = x.st ∧ (t.context k j).parkReq = if x.st = .free then s.stoppingAt k else x.parkReq) ∧
       (j ≠ c → rel = true → x.st = .parked → x.live = false → (t.context k j).st = .free) ∧
       (j ≠ c → rel = true → x.st = .parked → x.live = true → x.inFault = false → x.cause = none → (t.context k j).st = .ready) ∧
       (j ≠ c → rel = true → x.st = .parked → x.live = true → x.inFault = false → x.cause.isSome = true → x.trapPending = none → x.errors = [] →
         ((t.context k j).st = .blocked ∧ (t.context k j).cause = x.cause) ∨ ((t.context k j).st = .ready ∧ (t.context k j).cause = none)))

/-- `ctxsave` and `ctxload` (05 R124): each writes 1 to s[D] and does nothing more when it refuses: `ctxsave` unless its target is another Context that is PARKED (a FREE one with a standing park request reports PARKED, 05 R123; that it is then saved is the model's choice, assumption 89), `ctxload` unless it is another Context that is FREE or PARKED with no pending Token or Handle. An a[B] that is not a multiple of 4 KiB raises ALIGN; a target of `ctxsave` with a Token or Handle pending blocks the issue with the cause Token. Otherwise, where the 136 KiB at a[B] translate, `ctxsave` stores the target's image there, `ctxload` makes the target what the image says, and each writes 0. What `ctxload` reads from the image that `ctxsave` writes is what was saved (05 R124), a result in flight as it lands (the model's choice, assumption 13): the PC, every s-register, a-register, predicate and vector, the control registers, the loop unit, the blocking cause and H. -/
def Obligations.ContextImages : Prop :=
  (∀ (s : State) (k c : Nat) (g : Reg4) (d a : SReg) (b : Reg4), s.issuing k c = true → (s.context k c).h = true → (s.context k c).on g = true →
     (s.context k c).readyS a = true → (s.context k c).readyA b = true → (s.context k c).freeS d = true → d ≠ 0 →
     (((s.context k c).areg b).toNat % 4096 ≠ 0 → ∀ i, i = .ctxsave g d a b ∨ i = .ctxload g d a b →
       exec i s = .next (s.enterTrap k c { Trap.slotTrap cALIGN 0 0 with addr := (s.context k c).areg b } false)) ∧
     (((s.context k c).areg b).toNat % 4096 = 0 →
     let j := ((s.context k c).sreg a).toNat % 4
     let va := ((s.context k c).areg b).toNat
     let settled := (pendingToks (s.context k j)).isEmpty && (pendingHnds (s.context k j)).isEmpty
     (j = c ∨ (s.context k j).shown ≠ .parked →
       ∃ t : State, exec (.ctxsave g d a b) s = .next t ∧ (t.context k c).sreg d = 1 ∧ (t.cluster k).dirty = (s.cluster k).dirty) ∧
     (j ≠ c → (s.context k j).shown = .parked → settled = false → ∃ t : State, exec (.ctxsave g d a b) s = .next t ∧ waitsFor s t k c .token) ∧
     (∀ cs st, j ≠ c → (s.context k j).shown = .parked → settled = true → s.xlatRange k va imageBytes .write true true = (.ok cs, st) →
       unheld s k c (.ctxsave g d a b) false [cs] = true →
       ∃ t : State, exec (.ctxsave g d a b) s = .next t ∧ (t.context k c).sreg d = 0 ∧
         (t.cluster k).dirty = ((st.cluster k).storeChunks cs (ctxImage (s.context k j))).dirty) ∧
     (j = c ∨ ((s.context k j).st ≠ .free ∧ (s.context k j).st ≠ .parked) ∨ settled = false →
       ∃ t : State, exec (.ctxload g d a b) s = .next t ∧ (t.context k c).sreg d = 1 ∧ (t.cluster k).dirty = (s.cluster k).dirty) ∧
     (∀ cs st, j ≠ c → ((s.context k j).st = .free ∨ (s.context k j).st = .parked) → settled = true →
       s.xlatRange k va imageBytes .read true true = (.ok cs, st) →
       unheld s k c (.ctxload g d a b) false [cs] = true → (st.cluster k).chunksBad cs = false →
       ∃ t : State, exec (.ctxload g d a b) s = .next t ∧ (t.context k c).sreg d = 0 ∧
         let y := (st.context k j).load ((st.cluster k).readChunks cs)
         (t.context k j).st = .parked ∧ (t.context k j).pc = y.pc ∧ (t.context k j).s = y.s ∧ (t.context k j).a = y.a ∧
         (t.context k j).p = y.p ∧ (t.context k j).v = y.v ∧ (t.context k j).loops = y.loops))) ∧
  (∀ (x y : Context), x.loops.length ≤ 4 → (∀ l ∈ x.loops, 0 < l.count ∧ l.count < 2 ^ 64 ∧ l.yield.getLsbD 0 = false) →
     let z := y.load (ctxImage x)
     let w := x.settled
     z.pc = x.pc ∧ z.rot = x.rot ∧ z.mode = x.mode ∧ z.feed = x.feed ∧ z.seed = x.seed ∧ z.srcount = x.srcount ∧ z.bcount = x.bcount ∧
     z.epc = x.epc ∧ z.tscr = x.tscr ∧ z.splim = x.splim ∧ z.stopf = x.stopf ∧ z.h = x.h ∧ z.cause = x.cause ∧ z.oprio = x.oprio ∧
     z.loops = x.loops ∧ z.st = .parked ∧ z.live = true ∧
     (∀ r, z.sreg r = w.sreg r) ∧ (∀ r, z.areg r = w.areg r) ∧ (∀ r, z.preg r = w.preg r) ∧ (∀ i < 128, z.vec i = w.vec i))

/-- `spawn` to the own cluster (12 R284): the record at s[A], with PRIO in its place and with LV the task's Group indexes, waits for the Queue's push, from the clk in which the issue is complete; a level with no place left blocks the issue (12 R280); that one with none left in its ring blocks it too is the model's choice (assumption 36). Joins on the own cluster (12 R285): a parent of 0 has nothing to do; a misaligned record raises ALIGN; otherwise the decrement of the record at the address is due before the Context's next access, in program order with its held writes (assumption 45). -/
def Obligations.SpawnsAndJoins : Prop :=
  (∀ (s : State) (k c : Nat) (g : Reg4) (a : SReg) (prio : BitVec 3) (lv : Bool) (cs : List (List Chunk)) (w : Work),
     let i := Instr.spawnLocal g a prio lv
     let va := (s.context k c).sreg a
     let r := recOfBytes ((w.st.cluster k).readChunks cs.flatten)
     legal i = true → s.issuing k c = true → (s.context k c).on g = true → (s.context k c).readyS a = true → va.toNat % 64 = 0 →
     clear s k c i 0 [(va.toNat, 64)] = true → translated s k c i .read [(va.toNat, 64)] cs w →
     (w.st.cluster k).chunksBad cs.flatten = false → (recCode r).toNat % 4 = 0 → (s.cluster k).heldWrites.any (fun h => h.ctx == c) = false →
     if 64 + (s.cluster k).ringSlots ≤ ((s.cluster k).level prio.toNat).size + (s.cluster k).reserved prio.toNat ∨
         (s.cluster k).ringSlots ≤ ((s.cluster k).level prio.toNat).len then
       ∃ t : State, exec i s = .next t ∧ (t.context k c).st = .blocked ∧ (t.context k c).cause = some .engine ∧ (t.cluster k).pushes = (s.cluster k).pushes
     else
       ∃ (t : State) (q : BitVec 512), exec i s = .next t ∧ (t.cluster k).pushes = ((s.cluster k).pushes ++ [({ src := .spawn, rcd := q } : Push)]).map
           (fun (p : Push) => if p.since.isNone then { p with since := some (t.cluster k).clk } else p) ∧
         recPrio q = prio.toNat ∧ recCode q = recCode r ∧ recFrame q = recFrame r ∧ recJoin q = recJoin r ∧ recParent q = recParent r ∧
         (lv = true → ∀ j, j < 8 → recLvl q j = (s.context k c).lvl.getD j 0) ∧ (lv = false → ∀ j, j < 8 → recLvl q j = recLvl r j)) ∧
  (∀ (s : State) (k c : Nat) (i : Instr) (g : Reg4) (va : Word), s.issuing k c = true → legal i = true → (s.context k c).on g = true →
     ((∃ n, i = .joinParent g n ∧ (s.context k c).ppeer.getLsbD 12 = false ∧ va = (s.context k c).prec.setWidth 64) ∨
       ∃ a, i = .joinRecord g a ∧ (s.context k c).readyS a = true ∧ va = (s.context k c).sreg a) →
     (va = 0 → exec i s = .next (s.issued k c i s.blank)) ∧
     (va ≠ 0 → va.toNat % 64 ≠ 0 → exec i s = .next (s.enterTrap k c { Trap.slotTrap cALIGN 0 0 with addr := va } false)) ∧
     (∀ cs w ch, va ≠ 0 → va.toNat % 64 = 0 →
       translated s k c i .write [(va.toNat, 64)] cs w → cs = [[ch]] →
       ∃ t : State, exec i s = .next t ∧ (t.cluster k).joins = (s.cluster k).joins ++ [{ ctx := c, va := va, pa := ch.pa, seq := (s.cluster k).nextCmd }]))

/-- S-slot remote operations enter the network port (12 R284, R285, 15 R319): a remote `spawn` (its record read), the join of a remote parent and `gbar.arrive` become one operation under their Handle, toward the peer and window of their reference; while that Handle is not resolved they wait, with the cause Handle. `gbar` and `gbar.wait` (15 R320-R322): the first issue blocks with the cause Barrier, an arrival or a read under way; once the generation of the record shows the ticket released, the issue takes place, the read is gone, and `gbar` frees its Handle. -/
def Obligations.OperationsOfTheSSlot : Prop :=
  (∀ (s : State) (k c : Nat) (g : Reg4) (n : Hnd), s.issuing k c = true → (s.context k c).on g = true → n ≠ 0 →
     let waits := ((s.context k c).hnd n.toNat).st.pending
     let entered := fun (t : State) (i : Instr) (peer win off : Nat) =>
       if waits = true then waitsFor s t k c .handle ∧ (t.cluster k).cmds = (s.cluster k).cmds
       else ∃ m r, (t.cluster k).cmds = (s.cluster k).cmds ++ [m] ∧ m.id = (s.cluster k).nextCmd ∧ m.ctx = c ∧ m.eng = .network ∧ m.instr = i ∧
         m.remote = some r ∧ r.hnd = n.toNat ∧ r.peerIdx = peer ∧ r.win = win ∧ r.off = off ∧ ((t.context k c).hnd n.toNat).st.pending = true
     ((s.context k c).ppeer.getLsbD 12 = true → (s.context k c).prec ≠ 0 → (s.context k c).prec.toNat % 64 = 0 → legal (.joinParent g n) = true →
       ∃ t : State, exec (.joinParent g n) s = .next t ∧ entered t (.joinParent g n) ((s.context k c).ppeer.toNat % 4096) 4095 (s.context k c).prec.toNat) ∧
     (∀ sc d a (q : Tok), legal (.gbarArrive g sc d a n q) = true → (s.context k c).readyS a = true → (s.context k c).freeS d = true →
       ((s.context k c).sreg a).toNat / 2 ^ 24 % 64 = 0 →
       ∃ t : State, exec (.gbarArrive g sc d a n q) s = .next t ∧
         entered t (.gbarArrive g sc d a n q) (((s.context k c).sreg a).toNat % 4096) (((s.context k c).sreg a).toNat / 4096 % 4096)
           (((s.context k c).sreg a).toNat / 2 ^ 24 % 2 ^ 40) ∧ (waits = false → d ≠ 0 → SMap.find (t.context k c).sWait d.toNat = some (s.cluster k).nextCmd)) ∧
     (∀ a b prio lv cs w, legal (.spawnRemote g n a b prio lv) = true → (s.context k c).readyS a = true → (s.context k c).readyS b = true →
       ((s.context k c).sreg a).toNat % 64 = 0 → clear s k c (.spawnRemote g n a b prio lv) 0 [(((s.context k c).sreg a).toNat, 64)] = true →
       translated s k c (.spawnRemote g n a b prio lv) .read [(((s.context k c).sreg a).toNat, 64)] cs w →
       unheld s k c (.spawnRemote g n a b prio lv) false cs = true →
       (w.st.cluster k).chunksBad cs.flatten = false →
       (recCode (recOfBytes ((w.st.cluster k).readChunks cs.flatten))).toNat % 4 = 0 →
       ∃ t : State, exec (.spawnRemote g n a b prio lv) s = .next t ∧
         entered t (.spawnRemote g n a b prio lv) (((s.context k c).sreg b).toNat % 4096) 4095 0)) ∧
  (∀ (s : State) (k c : Nat) (g : Reg4) (sc : BitVec 4) (a : SReg), s.issuing k c = true → (s.context k c).on g = true → (s.context k c).readyS a = true →
     ((s.context k c).sreg a).toNat / 2 ^ 24 % 64 = 0 →
     (∀ b, legal (.gbarWait g sc a b) = true → (s.context k c).readyS b = true →
       ((s.slotView k c (.gbarWait g sc a b)).poll ((s.context k c).sreg a) = none →
         ∃ (t : State) (m : Cmd), exec (.gbarWait g sc a b) s = .next t ∧ waitsFor s t k c .barrier ∧ (t.cluster k).cmds = (s.cluster k).cmds.filter (fun q => !(q.ctx == c && q.isPoll)) ++ [m] ∧ m.isPoll = true ∧ m.ctx = c) ∧
       (∀ m, (s.slotView k c (.gbarWait g sc a b)).poll ((s.context k c).sreg a) = some m → m.phase = 1 →
         genReleased ((m.data.headD 0).toNat / 2 ^ 32) (((s.context k c).sreg b).toNat % 2 ^ 32) = true →
         exec (.gbarWait g sc a b) s = .next (s.issued k c (.gbarWait g sc a b)
           { s.blank with st := s.modCluster k (fun cl => { cl with cmds := cl.cmds.filter (fun q => q.id ≠ m.id) }) }))) ∧
     (∀ n, legal (.gbar g sc a n) = true →
       (SMap.find (s.context k c).tickets n.toNat = none → (s.cluster k).cmds = [] → ((s.context k c).hnd n.toNat).st.pending = false →
         ∃ (t : State) (m : Cmd), exec (.gbar g sc a n) s = .next t ∧ waitsFor s t k c .barrier ∧ (t.cluster k).cmds = [m] ∧ m.instr = .gbar g sc a n ∧ m.eng = .network) ∧
       (∀ v m, SMap.find (s.context k c).tickets n.toNat = some ((s.context k c).pc, v) → (s.slotView k c (.gbar g sc a n)).poll ((s.context k c).sreg a) = some m → m.phase = 1 →
         genReleased ((m.data.headD 0).toNat / 2 ^ 32) (v.toNat % 2 ^ 32) = true →
         ∃ t : State, exec (.gbar g sc a n) s = .next t ∧ (t.context k c).hnd n.toNat = Handle.free ∧ SMap.find (t.context k c).tickets n.toNat = none ∧
           (t.context k c).st = .run ∧ (t.cluster k).cmds = (s.cluster k).cmds.filter (fun q => q.id ≠ m.id))))

/-- Address arithmetic (08 R196): the a-register takes the named value, due after 1 clk. -/
def Obligations.AddressResult : Prop :=
  ∀ (s : State) (k c : Nat) (i : Instr) (g d : Reg4) (bs : List Reg4) (as : List SReg) (v : Word),
    addressRow (s.context k c) i = some (g, d, bs, as, v) → legal i = true → s.issuing k c = true → (s.context k c).on g = true →
    (∀ b ∈ bs, (s.context k c).readyA b = true) → (∀ a ∈ as, (s.context k c).readyS a = true) →
    exec i s = .next (s.issued k c i (s.resultA k c d v))

/-- Scalar loads (08 R191, 04 R98): an address that is not a multiple of the size raises ALIGN, one at or past SPLIM through a14 SPILL (05 R113). Otherwise, where the page translates and nothing holds the access back, the bytes at the address, lowest first, sign-extended for `ld` and zero-extended for `ldn`, leave for the destination after 10 clk where the L1D holds them, 36 where the L2 slice does or the page is accessed there, and 240 from HBM; poisoned bytes carry their mark (21 R425). No register and no byte changes at the issue. That SPILL stands straight after ALIGN is the model's choice (assumption 73), and so are the value read at the issue and the delay of the farthest line (assumption 10). Scalar stores (08 R191, 16 R326, R333): ALIGN and SPILL as for loads, with no byte written; otherwise, where the page translates, nothing holds the access back and no release has to wait, the core sees the register's bytes at the translated address, lowest first, and every other byte as it was; no register changes. A plain store that the environment lets take clk to enter the L1D is on its way until then, and no byte changes at its issue (16 R326, R329, assumption 88). -/
def Obligations.ScalarAccesses : Prop :=
  (∀ (s : State) (k c : Nat) (i : Instr) (m : AMem) (d : DataReg) (ch : Chunk) (w : Work),
     (i = .ld m d ∨ i = .ldn m d) → legal i = true → s.issuing k c = true → (s.context k c).on m.g = true → (s.context k c).readyA m.b = true →
     ((s.context k c).mode = true → ∀ p, d = .p p → p.toNat < 8) → (∀ r, d = .s r → (s.context k c).freeS r = true) →
     SMap.sorted 0 (s.cluster k).dirty = true →
     let ea := addressOf (s.context k c) m
     let n := scalarBytes m d
     if ea.toNat % n ≠ 0 then exec i s = .next (s.enterTrap k c { Trap.slotTrap cALIGN 1 0 with addr := ea } false)
     else if spills (s.context k c) m.b [(ea.toNat, n)] = true then
       exec i s = .next (s.enterTrap k c { Trap.slotTrap cSPILL 1 0 with addr := ea } false)
     else
       clear s k c i 0 [(ea.toNat, n)] = true → unheld s k c i false [[ch]] = true → (m.ord = .sc → (s.cluster k).heldWrites = []) →
       translated s k c i .read [(ea.toNat, n)] [[ch]] w → s.lags = [] → (s.cluster k).acbase.getLsbD 0 = false →
       ∃ w', exec i s = .next (s.issued k c i w') ∧ onlyReads w.st w'.st k c ∧
         (w'.st.context k c).flights = (s.context k c).flights ++
           (match destOf d with
            | none => []
            | some x =>
              let v : Nat := leNat ((w.st.cluster k).bytes ch.pa ch.len)
              [{ dest := x
                 data := BitVec.ofNat 8192 (match d, i with
                   | .p _, _ => v
                   | _, .ld _ _ => ((BitVec.ofNat (8 * n) v).signExtend 64).toNat
                   | _, _ => v)
                 poison := if (w.st.cluster k).coreBad ch.pa ch.len then
                   some { pc := (s.context k c).pc, iter := 0, opcode := opcodeOf i, handle := 0, addr := ea } else none
                 pace := .clk
                 remain :=
                   if !(pteNM ch.leaf || pteSC ch.leaf) && (linesOf ch.pa ch.len).all (fun l => (w.st.cluster k).l1.contains l) then 10
                   else if (linesOf ch.pa ch.len).all (fun l => (w.st.cluster k).l1.contains l || (SMap.find (w.st.cluster k).l2 l).isSome) then 36
                   else 240
                 load := true }])) ∧
  (∀ (s : State) (k c : Nat) (m : AMem) (d : DataReg) (ch : Chunk) (w : Work),
     let i := Instr.st m d
     legal i = true → s.issuing k c = true → (s.context k c).on m.g = true → (s.context k c).readyA m.b = true →
     (∀ r, d = .s r → (s.context k c).readyS r = true) → (∀ r, d = .a r → (s.context k c).readyA r = true) →
     (∀ r, d = .p r → (s.context k c).readyP r = true) → SMap.sorted 0 (s.cluster k).dirty = true →
     let ea := addressOf (s.context k c) m
     let n := scalarBytes m d
     let v : Nat := match d with | .s r => ((s.context k c).sreg r).toNat | .a r => ((s.context k c).areg r).toNat | .p r => ((s.context k c).preg r).toNat
     if ea.toNat % n ≠ 0 then exec i s = .next (s.enterTrap k c { Trap.slotTrap cALIGN 1 0 with addr := ea } false)
     else if spills (s.context k c) m.b [(ea.toNat, n)] = true then
       exec i s = .next (s.enterTrap k c { Trap.slotTrap cSPILL 1 0 with addr := ea } false)
     else
       clear s k c i 0 [(ea.toNat, n)] = true → translated s k c i .write [(ea.toNat, n)] [[ch]] w →
       (s.cluster k).cmds = [] → (s.cluster k).heldWrites = [] → (s.cluster k).acbase.getLsbD 0 = false →
       ∃ t : State, exec i s = .next t ∧
         ((s.storeLags.headD 0 = 0 ∨ m.ord ≠ .plain ∨ pteSC ch.leaf = true) →
           showsBytes t k (fun a => if ch.pa ≤ a ∧ a < ch.pa + n then BitVec.ofNat 8 (v / 2 ^ (8 * (a - ch.pa))) else (w.st.cluster k).byte a)) ∧
         (∀ d, m.ord = .plain → pteSC ch.leaf = false → s.storeLags.head? = some (d + 1) → showsBytes t k (w.st.cluster k).byte ∧
           ∃ h, (t.cluster k).heldWrites = [h] ∧ h.ctx = c ∧ h.late = some ((s.cluster k).clk + d + 1) ∧
             h.bytes = (List.range n).map (fun j => (ch.pa + j, BitVec.ofNat 8 (v / 2 ^ (8 * j))))) ∧
         (t.context k c).s = (s.context k c).s ∧ (t.context k c).a = (s.context k c).a ∧ (t.context k c).p = (s.context k c).p ∧
         (t.context k c).v = (s.context k c).v)

/-- Vector loads and gathers (08 R192, R193): where the Port takes an entry, the pages translate and nothing holds the access back, one entry is claimed at the tail of the Port and its data leaves for it, due at the time that its source gives (04 R98): for `ldv` the word of each enabled lane at the address, for `ldg` the element of each enabled lane at the address plus its index times the size, the index popped from the Port's index Port after the entry is claimed; other lanes are zero. The value read at the issue, its delay (assumption 10) and the order of the pop after the claim and before SPILL (assumption 73) are the model's choice. Vector stores and scatters (08 R192, R193): the entry is popped from the Port (and for `sts` the index entry from its index Port: after it, or before it where one Port holds both), the words of the enabled lanes reach memory at the addresses that translate, in lane order, and every other byte stays as it was; the environment holds no store back (assumption 88). Faults of a vector move before it reaches memory (08 R188, R192, R193): an address that is not a multiple of 64, or of the element for `ldg` and `sts`, raises ALIGN; a byte past SPLIM through a14 SPILL (05 R113), for `ldg` and `sts` once the indexes are known; `ldg` and `sts` on a Port that is off or has no index Port raise PORT. The place of SPILL is the model's choice (assumption 73). -/
def Obligations.VectorAccesses : Prop :=
  (∀ (s : State) (k c : Nat) (m : AMem) (r : Reg4), s.issuing k c = true → (s.context k c).readyA m.b = true → (s.context k c).readyP m.g = true →
     (s.context k c).preg m.g ≠ 0 → s.lags = [] → (s.cluster k).heldWrites = [] → (s.cluster k).acbase.getLsbD 0 = false →
     let g := (s.context k c).preg m.g
     let ea := addressOf (s.context k c) m
     let ls := (List.range 256).filter (fun l => g.getLsbD l)
     let p := (s.context k c).port r.toNat
     (∀ cs w, let i := Instr.ldv m r
       let rs := ls.map (fun l => ((ea.toNat + 4 * l) % 2 ^ 64, 4))
       legal i = true → ea.toNat % 64 = 0 → spills (s.context k c) m.b rs = false → p.on = true → p.gen.active = false →
       1 ≤ (s.context k c).room r.toNat → clear s k c i 0 rs = true →
       xlatPieces (s.slotView k c i) .read rs ((s.does k c (fun x => x.setPort r.toNat { p with
         entries := p.entries ++ [{ id := p.nextId, ready := false, poison := false, fromV := false, data := 0 }], nextId := p.nextId + 1 }))) = .ok (cs, w) →
       ∃ w' f, exec i s = .next (s.issued k c i w') ∧ (w'.st.context k c).flights = (s.context k c).flights ++ [f] ∧
         f.dest = .port r.toNat p.nextId ∧ f.remain = (w.st.cluster k).loadBase cs ∧ f.load = true ∧
         ((w'.st.context k c).port r.toNat).entries.length = p.entries.length + 1 ∧
         f.data = BitVec.ofNat 8192 (lanesVec (ls.zip (cs.map (fun l => leNat ((w.st.cluster k).readChunks l)))))) ∧
     (∀ cs w xv w0 w1, let i := Instr.ldg m r
       let es := ((ls.map (fun l => (l, xv.toNat / 2 ^ (32 * l) % 2 ^ 32))).filter (fun e => e.2 != 0xFFFFFFFF)).map
         (fun e => (e.1, (ea.toNat + e.2 * m.w.bytes) % 2 ^ 64))
       let rs := es.map (fun e => (e.2, m.w.bytes))
       legal i = true → ea.toNat % m.w.bytes = 0 → spills (s.context k c) m.b rs = false → p.on = true → p.idxv = true →
       (s.slotView k c i).alloc r.toNat false s.blank = .ok (p.nextId, w0) → (s.slotView k c i).pop p.idx w0 = .ok (xv, w1) → clear s k c i 0 rs = true →
       xlatPieces (s.slotView k c i) .read rs w1 = .ok (cs, w) →
       ∃ w' f, exec i s = .next (s.issued k c i w') ∧ (w'.st.context k c).flights = (s.context k c).flights ++ [f] ∧
         f.dest = .port r.toNat p.nextId ∧ f.load = true ∧
         f.data = BitVec.ofNat 8192 (lanesVec ((es.map (·.1)).zip (cs.map (fun l => leNat ((w.st.cluster k).readChunks l))))))) ∧
  (∀ (s : State) (k c : Nat) (m : AMem) (r : Reg4), s.issuing k c = true → (s.context k c).readyA m.b = true → (s.context k c).readyP m.g = true →
     (s.context k c).preg m.g ≠ 0 → (s.cluster k).cmds = [] → (s.cluster k).heldWrites = [] → (s.cluster k).acbase.getLsbD 0 = false →
     SMap.sorted 0 (s.cluster k).dirty = true → s.storeLags.headD 0 = 0 →
     let g := (s.context k c).preg m.g
     let ea := addressOf (s.context k c) m
     let ls := (List.range 256).filter (fun l => g.getLsbD l)
     let stored := fun (t : State) (w : Work) (bs : List (Nat × Byte)) =>
       showsBytes t k (fun a => match bs.reverse.find? (fun q => q.1 == a) with | some q => q.2 | none => (w.st.cluster k).byte a)
     (∀ cs w v w1, let i := Instr.stv m r
       let rs := ls.map (fun l => ((ea.toNat + 4 * l) % 2 ^ 64, 4))
       legal i = true → ea.toNat % 64 = 0 → spills (s.context k c) m.b rs = false → (s.slotView k c i).pop r.toNat s.blank = .ok (v, w1) →
       clear s k c i 0 rs = true → xlatPieces (s.slotView k c i) .write rs w1 = .ok (cs, w) →
       ∃ t : State, exec i s = .next t ∧ stored t w (placeBytes cs (ls.map (fun l => bytesLE 4 (v.toNat / 2 ^ (32 * l) % 2 ^ 32)))) ∧
         ((t.context k c).port r.toNat).entries = ((s.context k c).port r.toNat).entries.drop 1) ∧
     (∀ cs w xv v w1 w2, let i := Instr.sts m r
       let p := (s.context k c).port r.toNat
       let es := ((ls.map (fun l => (l, xv.toNat / 2 ^ (32 * l) % 2 ^ 32))).filter (fun e => e.2 != 0xFFFFFFFF)).map
         (fun e => (e.1, (ea.toNat + e.2 * m.w.bytes) % 2 ^ 64))
       let rs := es.map (fun e => (e.2, m.w.bytes))
       legal i = true → ea.toNat % m.w.bytes = 0 → spills (s.context k c) m.b rs = false → p.on = true → p.idxv = true →
       (if p.idx = r.toNat then (s.slotView k c i).pop p.idx s.blank = .ok (xv, w1) ∧ (s.slotView k c i).pop r.toNat w1 = .ok (v, w2)
         else (s.slotView k c i).pop r.toNat s.blank = .ok (v, w1) ∧ (s.slotView k c i).pop p.idx w1 = .ok (xv, w2)) → clear s k c i 0 rs = true →
       xlatPieces (s.slotView k c i) .write rs w2 = .ok (cs, w) →
       ∃ t : State, exec i s = .next t ∧ stored t w (placeBytes cs (es.map (fun e => bytesLE m.w.bytes (v.toNat / 2 ^ (32 * e.1) % 2 ^ 32)))))) ∧
  (∀ (s : State) (k c : Nat) (i : Instr) (m : AMem) (r : Reg4), s.issuing k c = true → legal i = true → (s.context k c).readyA m.b = true →
     (s.context k c).readyP m.g = true → (s.context k c).preg m.g ≠ 0 →
     let x := s.context k c
     let ea := addressOf x m
     let p := x.port r.toNat
     let spilled := exec i s = .next (s.enterTrap k c { Trap.slotTrap cSPILL 1 0 with addr := ea } false)
     let places := fun (xv : Vec) => ((((List.range 256).filter (fun l => (x.preg m.g).getLsbD l)).map (fun l => xv.toNat / 2 ^ (32 * l) % 2 ^ 32)).filter (· != 0xFFFFFFFF)).map
       (fun e => ((ea.toNat + e * m.w.bytes) % 2 ^ 64, m.w.bytes))
     ((i = .ldv m r ∨ i = .stv m r) → ea.toNat % 64 ≠ 0 → exec i s = .next (s.enterTrap k c { Trap.slotTrap cALIGN 1 0 with addr := ea } false)) ∧
     ((i = .ldv m r ∨ i = .stv m r) → ea.toNat % 64 = 0 → spills x m.b (laneWords x m) = true → spilled) ∧
     ((i = .ldg m r ∨ i = .sts m r) → ea.toNat % m.w.bytes ≠ 0 → exec i s = .next (s.enterTrap k c { Trap.slotTrap cALIGN 1 0 with addr := ea } false)) ∧
     ((i = .ldg m r ∨ i = .sts m r) → ea.toNat % m.w.bytes = 0 → (p.on = false ∨ p.idxv = false) →
       exec i s = .next (s.enterTrap k c (Trap.slotTrap cPORT 1 0) false)) ∧
     (∀ a w0 xv w1, i = .ldg m r → ea.toNat % m.w.bytes = 0 → p.on = true → p.idxv = true → (s.slotView k c i).alloc r.toNat false s.blank = .ok (a, w0) →
       (s.slotView k c i).pop p.idx w0 = .ok (xv, w1) → spills x m.b (places xv) = true → spilled) ∧
     (∀ v w1 xv w2, i = .sts m r → ea.toNat % m.w.bytes = 0 → p.on = true → p.idxv = true → p.idx ≠ r.toNat → (s.slotView k c i).pop r.toNat s.blank = .ok (v, w1) →
       (s.slotView k c i).pop p.idx w1 = .ok (xv, w2) → spills x m.b (places xv) = true → spilled))

/-- Rows of WB and AB (08 R183, R194): an offset that is not a multiple of 64 raises ALIGN, a row through a14 past SPLIM SPILL (05 R113), a row past the end of the buffer PORT; otherwise `ldb` claims an entry that takes the 1,024 bytes after 6 clk, and `stb` pops an entry into them, every other byte of both buffers unchanged. That SPILL comes before PORT where the row runs past the buffer's end is the model's choice (assumption 73). `baste` (08 R195): through a14 a block past SPLIM raises SPILL (05 R113), the whole 1 KiB counted (the model's choice, assumption 73). Otherwise it never faults and changes no register: a block at or above a filling channel's watermark, or whose page does not translate, or that holds an uncorrectable error, is dropped and counted; any other is not. -/
def Obligations.BufferRowsAndHints : Prop :=
  (∀ (s : State) (k c : Nat) (m : AMem) (u : Buf) (r : Reg4), s.issuing k c = true → (s.context k c).on m.g = true → (s.context k c).readyA m.b = true →
     let o := addressOf (s.context k c) m
     let p := (s.context k c).port r.toNat
     let other := fun (cl : Cluster) => match u with | .wb => cl.ab | .ab => cl.wb
     (∀ i, i = .ldb m u r ∨ i = .stb m u r → legal i = true →
       (o.toNat % 64 ≠ 0 → exec i s = .next (s.enterTrap k c { Trap.slotTrap cALIGN 1 0 with addr := o } false)) ∧
       (o.toNat % 64 = 0 → spills (s.context k c) m.b [(o.toNat, 1024)] = true →
         exec i s = .next (s.enterTrap k c { Trap.slotTrap cSPILL 1 0 with addr := o } false)) ∧
       (o.toNat % 64 = 0 → spills (s.context k c) m.b [(o.toNat, 1024)] = false → 0xFFFC00 < o.toNat → exec i s = .next (s.enterTrap k c (Trap.slotTrap cPORT 1 0) false))) ∧
     (let i := Instr.ldb m u r;
       legal i = true → o.toNat % 64 = 0 → o.toNat ≤ 0xFFFC00 → spills (s.context k c) m.b [(o.toNat, 1024)] = false →
       (s.slotView k c i).portAlloc r.toNat = .ok () → clear s k c i (bufSpace u) [(o.toNat, 1024)] = true →
       ∃ w' f, exec i s = .next (s.issued k c i w') ∧ (w'.st.context k c).flights = (s.context k c).flights ++ [f] ∧ f.dest = .port r.toNat p.nextId ∧
         f.remain = 6 ∧ f.data = BitVec.ofNat 8192 (leNat ((s.cluster k).bufBytes u o.toNat 1024)) ∧
         (w'.st.cluster k).wb = (s.cluster k).wb ∧ (w'.st.cluster k).ab = (s.cluster k).ab) ∧
     (∀ v w1, let i := Instr.stb m u r
       legal i = true → o.toNat % 64 = 0 → o.toNat ≤ 0xFFFC00 → spills (s.context k c) m.b [(o.toNat, 1024)] = false →
       (s.slotView k c i).pop r.toNat s.blank = .ok (v, w1) → clear s k c i (bufSpace u) [(o.toNat, 1024)] = true →
       ∃ t : State, exec i s = .next t ∧ other (t.cluster k) = other (s.cluster k) ∧
         (∀ a, SMap.get 0 ((t.cluster k).buf u) a =
           if o.toNat ≤ a ∧ a < o.toNat + 1024 then BitVec.ofNat 8 (v.toNat / 2 ^ (8 * (a - o.toNat))) else SMap.get 0 ((s.cluster k).buf u) a))) ∧
  (∀ (s : State) (k c : Nat) (m : AMem), legal (.baste m) = true → s.issuing k c = true → (s.context k c).on m.g = true → (s.context k c).readyA m.b = true →
     let va := (addressOf (s.context k c) m).toNat / 1024 * 1024
     (spills (s.context k c) m.b [(va, 1024)] = true →
       exec (.baste m) s = .next (s.enterTrap k c { Trap.slotTrap cSPILL 1 0 with addr := addressOf (s.context k c) m } false)) ∧
     (spills (s.context k c) m.b [(va, 1024)] = false → ∃ t : State, exec (.baste m) s = .next t ∧ (t.context k c).st = .run ∧ (t.context k c).s = (s.context k c).s ∧ (t.context k c).a = (s.context k c).a ∧
       (t.context k c).p = (s.context k c).p ∧ (t.context k c).v = (s.context k c).v ∧
       ((s.cluster k).marked 0 va 1024 = true → t = s.issued k c (.baste m)
         { s.blank with st := s.modCluster k (fun cl => { cl with basteDrop := cl.basteDrop + 1 }) }) ∧
       ((s.cluster k).marked 0 va 1024 = false → (∃ e st, s.xlatRange k va 1024 .read (s.context k c).h true = (.error e, st)) →
         (t.cluster k).basteDrop = (s.cluster k).basteDrop + 1) ∧
       ((s.cluster k).marked 0 va 1024 = false → ∀ cs st, s.xlatRange k va 1024 .read (s.context k c).h true = (.ok cs, st) →
         (t.cluster k).basteDrop = if (st.cluster k).chunksBad cs then (s.cluster k).basteDrop + 1 else (s.cluster k).basteDrop)))

/-- Local atomics (08 R197): ALIGN and SPILL first; otherwise, where the page translates and nothing holds the access back, the word at the address becomes the operation's new value by one read-modify-write, every other byte stays, and the old word leaves for s[D] after 40 clk. That SPILL stands straight after ALIGN is the model's choice (assumption 73). -/
def Obligations.LocalAtomics : Prop :=
  ∀ (s : State) (k c : Nat) (i : Instr) (f : AmoF) (ch : Chunk) (w : Work),
    atomicOf i = some f → legal i = true → s.issuing k c = true → (s.context k c).on f.g = true → (s.context k c).readyA f.b = true →
    (s.context k c).readyS f.v = true → (s.context k c).readyS f.c = true → (s.context k c).freeS f.d = true →
    SMap.sorted 0 (s.cluster k).dirty = true →
    let ea := (s.context k c).areg f.b + f.off.signExtend 64
    let n := f.w.bytes
    if ea.toNat % n ≠ 0 then exec i s = .next (s.enterTrap k c { Trap.slotTrap cALIGN 1 0 with addr := ea } false)
    else if spills (s.context k c) f.b [(ea.toNat, n)] = true then
      exec i s = .next (s.enterTrap k c { Trap.slotTrap cSPILL 1 0 with addr := ea } false)
    else
      clear s k c i 0 [(ea.toNat, n)] = true → translated s k c i .write [(ea.toNat, n)] [[ch]] w →
      (s.cluster k).cmds = [] → (s.cluster k).heldWrites = [] → (s.cluster k).acbase.getLsbD 0 = false → s.lags = [] →
      let old := leNat ((w.st.cluster k).bytes ch.pa n)
      let new := atomicValue i (8 * n) (BitVec.ofNat (8 * n) old) (((s.context k c).sreg f.v).setWidth (8 * n)) (((s.context k c).sreg f.c).setWidth (8 * n))
      ∃ w', exec i s = .next (s.issued k c i w') ∧
        showsBytes w'.st k (fun a => if ch.pa ≤ a ∧ a < ch.pa + n then BitVec.ofNat 8 (new.toNat / 2 ^ (8 * (a - ch.pa))) else (w.st.cluster k).byte a) ∧
        (w'.st.context k c).flights.length = (s.context k c).flights.length + (if f.d = 0 then 0 else 1) ∧
        (f.d ≠ 0 → ∃ q, (w'.st.context k c).flights = (s.context k c).flights ++ [q] ∧ q.dest = .s f.d ∧ q.data = BitVec.ofNat 8192 old ∧
          q.remain = 40 ∧ q.pace = .clk) ∧
        (w'.st.context k c).s = (s.context k c).s ∧ (w'.st.context k c).a = (s.context k c).a

/-- `fence` and `waitm` (16 R337, 08 R199): a fence with no operation of its order outstanding issues, and a releasing one of a scope beyond the cluster writes every dirty line back; an acquiring one waits for loads still under way and for `get`, `ramo` and `rcas` within its scope until they are locally done, a releasing one for the Context's writes that have yet to take effect and for every remote operation within its scope until it is done, with the cause Memory. `waitm` issues when its condition holds of the word in memory, and blocks with the cause Memory when it does not. TLB invalidation (19 R403): while a command, a held write or a local join has still to access a page that a named entry maps, or the Context has a held write, which may be one to a page table, the issue blocks with the cause Memory, the model's choice of a wait for held writes too (assumption 82); otherwise every dirty line goes to memory, the entries named leave both TLBs, and the walker's pointers go; an address at or above 2^56 names none. -/
def Obligations.FencesAndInvalidation : Prop :=
  (∀ (s : State) (k c : Nat) (g : Reg4), s.issuing k c = true → (s.context k c).on g = true →
     (∀ o sc, legal (.fence g o sc) = true →
       ((s.cluster k).cmds = [] → (s.cluster k).heldWrites = [] → (s.context k c).loadAt ≤ (s.cluster k).clk →
         ∃ t : State, exec (.fence g o sc) s = .next t ∧ (t.context k c).st = .run ∧ (t.context k c).s = (s.context k c).s ∧
           ((o = .rel ∨ o = .sc) → 3 ≤ sc.toNat → (t.cluster k).dirty = [] ∧ (t.cluster k).relSets = [])) ∧
       ((o = .acq ∨ o = .sc) → (s.cluster k).clk < (s.context k c).loadAt → ∃ t : State, exec (.fence g o sc) s = .next t ∧ waitsFor s t k c .memory) ∧
       ((o = .rel ∨ o = .sc) → (s.cluster k).heldWrites.any (fun h => h.ctx == c) = true → ∃ t : State, exec (.fence g o sc) s = .next t ∧ waitsFor s t k c .memory) ∧
       (∀ m r d q n, m ∈ (s.cluster k).cmds → m.ctx = c → m.remote = some r → r.peer = some (d, q, n) →
         (6 ≤ sc.toNat ∨ (sc.toNat = 5 ∧ d = (s.cluster k).device.toNat) ∨ (sc.toNat = 4 ∧ d = (s.cluster k).device.toNat ∧ q / 12 = k / 12) ∨
           (sc.toNat = 3 ∧ d = (s.cluster k).device.toNat ∧ q / 4 = k / 4) ∨ (sc.toNat = 2 ∧ d = (s.cluster k).device.toNat ∧ q = k)) →
         (((o = .rel ∨ o = .sc) ∧ r.done = false) ∨
           ((o = .acq ∨ o = .sc) ∧ r.locDone = false ∧ ((∃ f, m.instr = .get f) ∨ (∃ f, m.instr = .ramo f) ∨ ∃ f, m.instr = .rcas f))) →
         ∃ t : State, exec (.fence g o sc) s = .next t ∧ waitsFor s t k c .memory)) ∧
     (∀ b wd acq sc off d cc cs w, let i := Instr.waitm g b wd acq sc off d cc
       let ea := (s.context k c).areg b + off.signExtend 64
       legal i = true → (s.context k c).readyA b = true → (s.context k c).readyS d = true → ea.toNat % wd.bytes = 0 →
       spills (s.context k c) b [(ea.toNat, wd.bytes)] = false → clear s k c i 0 [(ea.toNat, wd.bytes)] = true →
       translated s k c i .read [(ea.toNat, wd.bytes)] cs w → unheld s k c i false cs = true → (w.st.cluster k).chunksBad cs.flatten = false →
       (s.cluster k).acbase.getLsbD 0 = false →
       if condHolds (8 * wd.bytes) cc (leNat ((w.st.cluster k).readChunks cs.flatten)) ((s.context k c).sreg d).toNat = true then
         ∃ t : State, exec i s = .next t ∧ (t.context k c).st = .run ∧ (t.context k c).s = (s.context k c).s
       else ∃ t : State, exec i s = .next t ∧ waitsFor s t k c .memory)) ∧
  (∀ (s : State) (k c : Nat) (i : Instr) (hit : TlbEntry → Bool), legal i = true → s.issuing k c = true → (s.context k c).on (guardOf i) = true →
     (s.context k c).h = true →
     ((∃ g b off, i = .tlbinv g b off ∧ (s.context k c).readyA b = true ∧
         hit = fun q => let va := ((s.context k c).areg b + off.signExtend 64).toNat
           decide (va < 2 ^ 56 ∧ q.asid = (s.cluster k).asid.setWidth 16 ∧ va / 2 ^ q.bits = q.base / 2 ^ q.bits)) ∨
       (∃ g, i = .tlbinvAll g ∧ hit = fun _ => true) ∨
       (∃ g a, i = .tlbinvAsid g a ∧ (s.context k c).readyS a = true ∧ hit = fun q => decide (q.asid = ((s.context k c).sreg a).setWidth 16))) →
     let gone := ((s.cluster k).tlb1 ++ (s.cluster k).tlb2).filter hit
     let busy := !((s.cluster k).cmdsUsing gone).isEmpty || (s.cluster k).writesUsing c gone
     (busy = true → ∃ t : State, exec i s = .next t ∧ waitsFor s t k c .memory) ∧
     (busy = false → ∃ t : State, exec i s = .next t ∧ (t.cluster k).tlb1 = (s.cluster k).tlb1.filter (fun q => !hit q) ∧
       (t.cluster k).tlb2 = (s.cluster k).tlb2.filter (fun q => !hit q) ∧ (t.cluster k).dirty = [] ∧
       (t.context k c).s = (s.context k c).s ∧ (t.context k c).a = (s.context k c).a ∧
       (SMap.sorted 0 (s.cluster k).dirty = true → showsBytes t k (s.cluster k).byte)))

/-- Ports (08 R176, R200-R202): `pcfg` gives the Port its new depth, empty, when the 32 entries of the store suffice, and raises PORT when they do not; `padv` removes entries from the head; `pwait` issues when FILL or ROOM suffices, and blocks with its cause where it may yet come to, and raises PORT where it cannot or the Port is off. What an A-slot word that reads or fills one Port waits for (08 R177-R180): a Port that is off raises PORT, and so do a read that no entry, pending or requested, can meet and a claim beside an active generator; a read whose entries a load or a generator brings stalls, each clk idle, and one that waits for a vector result or an engine blocks with the cause Port empty; a full Port blocks a claim with the cause Port full; a poisoned head raises POISON at `stv` and `stb`. Address generators (08 R185): `agset` loads START, COUNTS and STRIDES from three a-registers and s0 from its word into an empty Port that is on, from the next clk, when every row of the walk lies in AB; otherwise it raises PORT. Detaching ends the requests. -/
def Obligations.PortsAndGenerators : Prop :=
  (∀ (s : State) (k c : Nat) (g r : Reg4), s.issuing k c = true → (s.context k c).on g = true →
     let x := s.context k c
     let n := r.toNat
     let p := x.port n
     (∀ depth idx v, let i := Instr.pcfg g r depth idx v
       let others := (((List.range 12).filter (fun q => decide (q ≠ n))).map (fun q => (x.port q).depth)).foldl (· + ·) 0
       legal i = true →
       (depth = 0 → exec i s = .next (s.issued k c i { s.blank with ports := [(n, { Port.off with nextId := p.nextId + 8 })] })) ∧
       (depth ≠ 0 → 32 < others + depth.toNat → exec i s = .next (s.enterTrap k c (Trap.slotTrap cPORT 1 0) false)) ∧
       (depth ≠ 0 → others + depth.toNat ≤ 32 → ∃ t : State, exec i s = .next t ∧ ((t.context k c).port n).on = true ∧
         ((t.context k c).port n).depth = depth.toNat ∧ ((t.context k c).port n).entries = [] ∧ ((t.context k c).port n).gen.active = false ∧
         ((t.context k c).port n).idxv = v)) ∧
     (∀ q, let i := Instr.padv g r q
       legal i = true → (s.slotView k c i).portRead n = .ok () →
       ∃ t : State, exec i s = .next t ∧ ((t.context k c).port n).entries = p.entries.drop q.toNat) ∧
     (∀ q, let i := Instr.pwaitFill g r q
       legal i = true → x.portOn n = true →
       (q.toNat ≤ x.fill n → exec i s = .next (s.issued k c i s.blank)) ∧
       (x.fill n < q.toNat → (12 ≤ n ∨ q.toNat ≤ x.fill n + x.pend n + p.gen.left) → ∃ t : State, exec i s = .next t ∧ waitsFor s t k c .portEmpty) ∧
       (n < 12 → x.fill n + x.pend n + p.gen.left < q.toNat → exec i s = .next (s.enterTrap k c (Trap.slotTrap cPORT 1 0) false))) ∧
     (∀ i, (∃ q, i = .pwaitFill g r q ∨ i = .pwaitFree g r q) → legal i = true → x.portOn n = false →
       exec i s = .next (s.enterTrap k c (Trap.slotTrap cPORT 1 0) false)) ∧
     (∀ q, let i := Instr.pwaitFree g r q
       legal i = true → x.portOn n = true →
       (q.toNat ≤ x.room n → exec i s = .next (s.issued k c i s.blank)) ∧
       (x.room n < q.toNat → (12 ≤ n ∨ q.toNat ≤ x.depth n) → ∃ t : State, exec i s = .next t ∧ waitsFor s t k c .portFull) ∧
       (n < 12 → x.depth n < q.toNat → exec i s = .next (s.enterTrap k c (Trap.slotTrap cPORT 1 0) false)))) ∧
  (∀ (s : State) (k c : Nat) (i : Instr) (g r : Reg4), s.issuing k c = true → (s.context k c).on g = true → legal i = true → addressPasses (s.context k c) i →
     let x := s.context k c
     let n := r.toNat
     let p := x.port n
     let traps := fun (code : BitVec 16) => exec i s = .next (s.enterTrap k c (Trap.slotTrap code 1 0) false)
     (∀ q, portReadRow i = some (g, r, q) →
       (x.portOn n = false → traps cPORT) ∧
       (x.portOn n = true → n < 12 → x.fill n + x.pend n + p.gen.left < max q 1 → traps cPORT) ∧
       (x.portOn n = true → x.fill n < max q 1 → (12 ≤ n ∨ (max q 1 ≤ x.fill n + x.pend n + p.gen.left ∧ (p.entries.take (max q 1)).any (fun e => !e.ready && e.fromV) = true)) →
         ∃ t : State, exec i s = .next t ∧ waitsFor s t k c .portEmpty) ∧
       (x.portOn n = true → n < 12 → x.fill n < max q 1 → max q 1 ≤ x.fill n + x.pend n + p.gen.left → (p.entries.take (max q 1)).any (fun e => !e.ready && e.fromV) = false →
         exec i s = .next (s.modCluster k (fun cl => cl.idleClk 1))) ∧
       (∀ e l, (∀ q', i ≠ .padv g r q') → x.portOn n = true → 1 ≤ x.fill n → p.entries = e :: l → e.poison = true → traps cPOISON)) ∧
     (portClaimRow i = some (g, r) →
       ((p.on = false ∨ p.gen.active = true) → traps cPORT) ∧
       (p.on = true → p.gen.active = false → x.room n = 0 → ∃ t : State, exec i s = .next t ∧ waitsFor s t k c .portFull))) ∧
  (∀ (s : State) (k c : Nat) (g r b : Reg4) (s0 : BitVec 20), s.issuing k c = true → (s.context k c).on g = true →
     let x := s.context k c
     let p := x.port r.toNat
     let q : Gen := { active := true, start := x.areg b, counts := x.areg (b + 1), strides := x.areg (b + 2), s0 := s0.signExtend 32,
                      since := (s.cluster k).clk + 1, asked := 0, taken := 0 }
     (let i := Instr.agset g r b s0;
       legal i = true → x.readyA b = true → x.readyA (b + 1) = true → x.readyA (b + 2) = true →
       (p.on = true → p.entries = [] → q.good = true → ∃ t : State, exec i s = .next t ∧ ((t.context k c).port r.toNat).gen = q) ∧
       ((p.on = false ∨ p.entries ≠ [] ∨ q.good = false) → exec i s = .next (s.enterTrap k c (Trap.slotTrap cPORT 1 0) false))) ∧
     (let i := Instr.agsetDetach g r;
       legal i = true →
       (p.on = true → ∃ t : State, exec i s = .next t ∧ ((t.context k c).port r.toNat).gen = { p.gen with active := false }) ∧
       (p.on = false → exec i s = .next (s.enterTrap k c (Trap.slotTrap cPORT 1 0) false))))

/-- Translation (19 R390-R395). An entry of the L1 TLB serves an access of the core, and one of the L2 TLB every access, for its ASID and page where its leaf's checks pass and, for a write, its D is set. Otherwise the walk reads one entry of each level at the L2 slice: bits above 55 of the address, or an entry with V = 0, end it with cause 1 at that level, a root or an entry that is bad with cause 2, a leaf whose checks fail with their cause, and then no TLB and no byte changes; a leaf that passes gives its frame with the address bits below its size, sets A, and D for a write, in memory with the padding zero, and fills the TLBs with the ASID. That the sixteen entries of a 64 KiB group agree, or one of them is taken, is 19 R392; entries that walker pointers hold are left aside here. An A-slot access whose page faults (05 R104, 19 R397, R398): the Context goes to FAULT with its bundle not issued, every register and byte of memory as it was but for what the walk and the fault ring write; the fault is pending for it, and where the ring has room its entry stands at the next place, with the address, the cause and level at which the walk stopped, WR, the Context, and the PC; a full ring leaves the fault waiting for one. -/
def Obligations.PagesAndFaults : Prop :=
  (∀ (s : State) (k va : Nat) (a : Access) (h core : Bool),
     let c := s.cluster k
     let r := s.xlat k va a h core
     let u := r.2.cluster k
     let serves := fun (e : TlbEntry) => e.asid.toNat = c.asid.toNat % 2 ^ 16 ∧ va / 2 ^ e.bits = e.base / 2 ^ e.bits ∧ accessCause e.leaf a h = 0 ∧ (a = .write → e.leaf.getLsbD 10 = true)
     let given := fun (e : TlbEntry) => Xlat.ok ((frameOf e.leaf * 4096 + va % 2 ^ e.bits) % 2 ^ 34) e.leaf
     let root := c.ptbase.toNat / 2 ^ 12 % 2 ^ 28
     (∀ l e t, core = true → va < 2 ^ 56 → c.tlb1 = l ++ e :: t → (∀ q ∈ l, ¬ serves q) → serves e → r = (given e, s)) ∧
     (∀ l e t, va < 2 ^ 56 → (core = true → ∀ q ∈ c.tlb1, ¬ serves q) → c.tlb2 = l ++ e :: t → (∀ q ∈ l, ¬ serves q) → serves e →
       r.1 = given e ∧ (core = true → u.tlb1.head? = some e) ∧ ∀ x, u.l2Byte x = c.l2Byte x) ∧
     ((∀ q ∈ c.tlb1 ++ c.tlb2, ¬ serves q) → c.ptrs = [] → c.dirty = [] → c.acbase.getLsbD 0 = false →
       (2 ^ 56 ≤ va → r.1 = .fail 1 1) ∧
       (va < 2 ^ 56 → strayFrame k root 4096 → r.1 = .fail 2 1) ∧
       (∀ es at_ p, va < 2 ^ 56 → ¬ strayFrame k root 4096 → walkReads c k va 1 (root * 4096 % 2 ^ 34) (es ++ [(at_, p)]) →
         let level := es.length + 1
         let good := p.getLsbD 0 = true ∧ ¬ badEntry k level p ∧ p.getLsbD 11 = true ∧ (p.getLsbD 8 = true → groupAgrees c at_)
         (p.getLsbD 0 = false → r.1 = .fail 1 level) ∧
         (p.getLsbD 0 = true → badEntry k level p → r.1 = .fail 2 level) ∧
         (good → accessCause p a h ≠ 0 → r.1 = .fail (accessCause p a h) level) ∧
         (good → accessCause p a h = 0 →
           let q := p ||| (1 <<< 9) ||| (if a = .write then 1 <<< 10 else 0)
           let e : TlbEntry := { asid := c.asid.setWidth 16, base := va / leafSize level p * leafSize level p, bits := Nat.log2 (leafSize level p), leaf := q }
           r.1 = given e ∧ u.tlb2.head? = some e ∧ (core = true → u.tlb1.head? = some e) ∧
           ∀ x, u.l2Byte x = if q ≠ p ∧ at_ ≤ x ∧ x < at_ + 8 then BitVec.ofNat 8 ((q.toNat % 2 ^ 40 + q.toNat / 2 ^ 52 * 2 ^ 52) / 2 ^ (8 * (x - at_))) else c.l2Byte x)) ∧
       (∀ cause level, r.1 = .fail cause level → u.tlb1 = c.tlb1 ∧ u.tlb2 = c.tlb2 ∧ ∀ x, u.l2Byte x = c.l2Byte x))) ∧
  (∀ (s st : State) (k c : Nat) (i : Instr) (m : AMem) (d : DataReg) (cause level va : Nat), s.issuing k c = true → legal i = true → (s.context k c).on m.g = true →
     (s.context k c).readyA m.b = true → ((s.context k c).mode = true → ∀ p, d = .p p → p.toNat < 8) →
     ((i = .ld m d ∧ (∀ r, d = .s r → (s.context k c).freeS r = true) ∧ (m.ord = .sc → (s.cluster k).heldWrites = [])) ∨
       (i = .st m d ∧ (∀ r, d = .s r → (s.context k c).readyS r = true) ∧ (∀ r, d = .a r → (s.context k c).readyA r = true) ∧ (∀ r, d = .p r → (s.context k c).readyP r = true))) →
     let ea := addressOf (s.context k c) m
     let n := scalarBytes m d
     let wr := decide (i = .st m d)
     ea.toNat % n = 0 → spills (s.context k c) m.b [(ea.toNat, n)] = false → clear s k c i 0 [(ea.toNat, n)] = true →
     s.xlatRange k ea.toNat n (if wr = true then .write else .read) (s.context k c).h true = (.error (cause, level, va), st) →
     (st.cluster k).faults.all (fun f => f.id.isSome) = true → cause < 16 → level < 8 → c < 4 →
     let u := st.cluster k
     let at_ := u.frbase.toNat / 2 ^ 12 % 2 ^ 28 * 4096 % 2 ^ 34 + 32 * (u.frWr.toNat % 2 ^ (u.frbase.toNat % 32))
     let info := cause * 2 ^ 4 + level * 2 ^ 8 + (if wr = true then 2 ^ 11 else 0) + c * 2 ^ 12
     ∃ (t : State) (f : PFault), exec i s = .next t ∧ (t.context k c).st = .fault ∧ (t.context k c).pc = (s.context k c).pc ∧ (t.context k c).iter = 0 ∧ (t.context k c).s = (s.context k c).s ∧
       (t.context k c).a = (s.context k c).a ∧ (t.context k c).p = (s.context k c).p ∧ (t.context k c).v = (s.context k c).v ∧
       (t.cluster k).faults = u.faults ++ [f] ∧ f.waiter = .ctx c ∧ f.va = BitVec.ofNat 64 va ∧ f.pc = (s.context k c).pc ∧ f.answer = none ∧
       ((u.frWr - u.frRd).toNat < 2 ^ (u.frbase.toNat % 32) → f.id = some (u.frWr.setWidth 16) ∧ (t.cluster k).frWr = u.frWr + 1 ∧
         ∀ a, (t.cluster k).l2Byte a = if at_ ≤ a ∧ a < at_ + 32 then
           BitVec.ofNat 8 (([va % 2 ^ 56, info + u.frWr.toNat % 2 ^ 16 * 2 ^ 32, (s.context k c).pc.toNat, 0].getD ((a - at_) / 8) 0) / 2 ^ (8 * ((a - at_) % 8)))
           else u.l2Byte a) ∧
       (2 ^ (u.frbase.toNat % 32) ≤ (u.frWr - u.frRd).toNat → f.id = none ∧ (t.cluster k).frWr = u.frWr ∧ ∀ a, (t.cluster k).l2Byte a = u.l2Byte a))

/-- Every V instruction issues when its operands are ready (03 R60, R74, 04 R97): its result goes to a new queue entry and to its destination after its latency, with the lanes that the guard disables zero; each Port that it reads without PEEK loses its head entry (03 R61, R71). -/
def Obligations.VectorIssueCompletes : Prop :=
  ∀ (s : State) (k c : Nat) (i : Instr) (f : VF) (srcs scs : List (BitVec 8)) (L : Nat) (ps : List Reg4),
    vectorRow i = some (f, srcs, L, scs, ps) → vectorReady s k c i f srcs scs ps →
    ∃ v tail, vectorSent s k c i f srcs L v tail ∧ (∀ l, l < 256 → ((s.context k c).preg f.g).getLsbD l = false → v.toNat / 2 ^ (32 * l) % 2 ^ 32 = 0)

/-- The value of every integer, logic, shift, count and saturating instruction, of `vfabs`, `vfneg` and of `vmov`, `vli`, `vidx` (07 R147, R149, R171), element by element as arithmetic on words of the element's width. The value of every instruction that selects, permutes, extracts or inserts elements or moves bit planes (07 R161, R165, R166, R171). The value of the floating arithmetic, element by element: the exact result rounded once to the type under the word's mode, with FlushIn and FlushOut (07 R148-R151, R159); and of the conversions, which place their elements by PART and MERGE (07 R152-R154), and the quantising and scaling instructions (07 R155-R158, R160). A `vcvts` draws its numbers at SEED and SRCOUNT and counts; a `vbmax` sends eight scales to the latch. The model's choices: the lane width to which a scalar source is cut (assumption 63), `vsacc`'s scale read without FlushIn and its default NaN (assumption 64), and that `vexp2`, `vlog2` and `vsig` round what a computation with 256 fractional bits gives (assumption 14). Rows pushed to the transpose engine and disabled conversions. `vxpush` sends its operand as any V word does, and the same row, the disabled lanes zero, joins the filling tile; the H-th closes it: 48 ic on its 32 entries return, each the transpose of 32-element groups, zero past the H rows (07 R172, 09 R235, R236). On an unconfigured engine, at another width, or for a third tile it raises PLEAT_OVF and pushes nothing (09 R237). A `vcvts` that its guard disables still counts its issue (02 R44). -/
def Obligations.VectorResults : Prop :=
  (∀ (s : State) (k c : Nat) (i : Instr) (f : VF) (srcs scs : List (BitVec 8)) (L : Nat) (ps : List Reg4)
     (h : (w : Nat) → Nat → BitVec w → BitVec w → BitVec w → BitVec w),
     vectorRow i = some (f, srcs, L, scs, ps) → integerRow i = some (f, h) → vectorReady s k c i f srcs scs ps →
     let x := s.context k c
     let q := fun (n : BitVec 8) (e : Nat) => BitVec.ofNat f.w (sourceElem x f.w n e)
     ∃ v, vectorSent s k c i f srcs L v [] ∧ hasElements x f f.w v (fun e => (h f.w e (q f.s1 e) (q f.s2 e) (q f.s3 e)).toNat)) ∧
  (∀ (s : State) (k c : Nat) (i : Instr) (f : VF) (srcs scs : List (BitVec 8)) (L : Nat) (ps : List Reg4) (h : Nat → Nat),
     vectorRow i = some (f, srcs, L, scs, ps) → moveRow (s.context k c) i = some (f, h) → vectorReady s k c i f srcs scs ps →
     ∃ v, vectorSent s k c i f srcs L v [] ∧ hasElements (s.context k c) f f.w v h) ∧
  (∀ (s : State) (k c : Nat) (i : Instr) (f : VF) (srcs scs : List (BitVec 8)) (L : Nat) (ps : List Reg4),
     vectorRow i = some (f, srcs, L, scs, ps) → vectorReady s k c i f srcs scs ps →
     let x := s.context k c
     (∀ h, floatingRow i = some (f, h) → ∃ v, vectorSent s k c i f srcs L v [] ∧
       hasElements x f f.w v (fun e => h (sourceElem x f.w f.s1 e) (sourceElem x f.w f.s2 e) (sourceElem x f.w f.s3 e))) ∧
     (∀ w h, scaledRow x (s.cluster k).latch i = some (f, w, h) → ∃ v, vectorSent s k c i f srcs L v [] ∧ hasElements x f w v h)) ∧
  (∀ (s : State) (k c : Nat) (f : VF),
     let x := s.context k c
     let q := x.pleat
     let W := if q.w16 = true then 16 else 32
     (vectorReady s k c (.vxpush f) f [f.s1] [] [] → ∃ (v : Vec) (w : Work),
       exec (.vxpush f) s = .next (s.issued k c (.vxpush f) w) ∧ hasElements x f f.w v (sourceElem x f.w f.s1) ∧
       vectorSent s k c (.vxpush f) f [f.s1] 2 v [] ∧
       let y := (w.st.context k c).pleat
       (q.filling.length + 1 < q.h → y = { q with filling := q.filling ++ [v] }) ∧
       (q.h ≤ q.filling.length + 1 → ∃ t : PleatTile, y = { q with filling := [], tiles := q.tiles ++ [t] } ∧ t.remain = 48 ∧ t.rows.length = 32 ∧
         ∀ i, i < 32 → ∀ g, g < 8192 / W / 32 → ∀ j, j < 32 →
           (t.rows.getD i 0).toNat / 2 ^ (W * (32 * g + j)) % 2 ^ W =
             if j < q.h then ((q.filling ++ [v]).getD j 0).toNat / 2 ^ (W * (32 * g + i)) % 2 ^ W else 0)) ∧
     (legal (.vxpush f) = true → s.issuing k c = true → x.readyP f.g = true → x.preg f.g ≠ 0 → sourceReady s k c (.vxpush f) f.s1 = true →
       (isPort f.d = true → (s.slotView k c (.vxpush f)).portAlloc (f.d.toNat - 0x10) = .ok ()) →
       (q.on = false ∨ f.w ≠ W ∨ (q.filling = [] ∧ 2 ≤ q.tiles.length + (x.fill 13 + 31) / 32)) →
       exec (.vxpush f) s = .next (s.enterTrap k c (Trap.slotTrap cPLEAT 2 0) false)) ∧
     (legal (.vcvts f) = true → s.issuing k c = true → x.readyP f.g = true → x.preg f.g = 0 →
       exec (.vcvts f) s = .next (s.issued k c (.vcvts f) { s.does k c (fun x => { x with srcount := x.srcount + 1 }) with srUses := 1 })))

/-- The compares (07 R162-R164): elements of all ones or zeros (`vclass`: the class number), and where IMM names a pair, its even member takes in each enabled lane whether every element of the lane holds, its odd member the complement, due 3 ic later, and no sooner by idle clk (03 R76; the model's choice, assumption 62). Reductions, scans, sorts and segmented sums (07 R167-R170): a reduction combines the enabled elements in order into every element; a scan gives each enabled element the combination up to it; a sort orders the enabled lanes by key, equal keys by lane; a segmented sum gives the first lane of each run of equal keys the run's sum, or all ones where OUT is 1, and the others 0. A floating sum is of FP32 values, in the tree of 02 R55 (`vfred`) or in order, and rounded to the type once at its end. -/
def Obligations.VectorComparesAndReductions : Prop :=
  (∀ (s : State) (k c : Nat) (i : Instr) (f : VF) (srcs scs : List (BitVec 8)) (L : Nat) (ps : List Reg4) (h : Nat → Nat) (d : Nat → Bool),
     vectorRow i = some (f, srcs, L, scs, ps) → compareRow (s.context k c) i = some (f, h, d) → vectorReady s k c i f srcs scs ps →
     ∃ v msk, vectorSent s k c i f srcs L v (if immE f = 0 then [] else [flightPair (immE f) msk ((s.context k c).preg f.g)]) ∧
       hasElements (s.context k c) f f.w v h ∧ (∀ l, l < 256 → msk.getLsbD l = (List.range (32 / f.w)).all (fun j => d (l * (32 / f.w) + j)))) ∧
  (∀ (s : State) (k c : Nat) (f : VF),
     let x := s.context k c
     let q := fun (e : Nat) => BitVec.ofNat f.w (sourceElem x f.w f.s1 e)
     (vectorReady s k c (.vred f) f [f.s1] [] [] →
       ∃ v, vectorSent s k c (.vred f) f [f.s1] 6 v [] ∧ hasElements x f f.w v (fun _ => (foldFirst (reduceOp f) ((elemsOn x f f.w).map q)).toNat)) ∧
     (vectorReady s k c (.vscan f) f [f.s1] [] [] →
       ∃ v, vectorSent s k c (.vscan f) f [f.s1] 6 v [] ∧
         hasElements x f f.w v (fun e => (foldFirst (reduceOp f) (((elemsOn x f f.w).filter (fun d => decide (d ≤ e))).map q)).toNat)) ∧
     (vectorReady s k c (.vsort f) f [f.s1] [] [] →
       ∃ (v : Vec) (ls : List Nat), vectorSent s k c (.vsort f) f [f.s1] 12 v [] ∧ ls.Perm (elemsOn x f 32) ∧
         ls.Pairwise (fun a b => sortOrder f (sourceElem x 32 f.s1 a) < sortOrder f (sourceElem x 32 f.s1 b) ∨
           (sortOrder f (sourceElem x 32 f.s1 a) = sortOrder f (sourceElem x 32 f.s1 b) ∧ a < b)) ∧
         (elemsOn x f 32).map (fun e => v.toNat / 2 ^ (32 * e) % 2 ^ 32) =
           ls.map (fun l => if f.imm = 1 then l else sourceElem x 32 f.s1 l)) ∧
     (vectorReady s k c (.vfred f) f [f.s1] [] [] →
       ∃ v, vectorSent s k c (.vfred f) f [f.s1] 6 v [] ∧ hasElements x f f.w v (fun _ =>
         if f.imm = 0 then outOf f (fF32.decode (treeSum f.mode ((List.range (8192 / f.w)).map (fun e =>
           if (x.preg f.g).getLsbD (f.w * e / 32) then toF32 f (sourceElem x f.w f.s1 e) else 0))))
         else extremeOf f ((elemsOn x f f.w).map (sourceElem x f.w f.s1)))) ∧
     (vectorReady s k c (.vfscan f) f [f.s1] [] [] →
       ∃ v, vectorSent s k c (.vfscan f) f [f.s1] 6 v [] ∧ hasElements x f f.w v (fun e =>
         let l := ((elemsOn x f f.w).filter (fun d => decide (d ≤ e))).map (sourceElem x f.w f.s1)
         if f.imm = 0 then outOf f (fF32.decode (foldPatterns (add32 f.mode) (l.map (toF32 f)))) else extremeOf f l)) ∧
     (vectorReady s k c (.vsegsum f) f [f.s1, f.s2] [] [] →
       ∃ v, vectorSent s k c (.vsegsum f) f [f.s1, f.s2] 12 v [] ∧ hasElements x f 32 v (fun l =>
         let key := sourceElem x 32 f.s2
         let es := elemsOn x f 32
         if (match (es.filter (fun e => decide (e < l))).getLast? with | some p => key p == key l | none => false) then 0
         else
           let run := ((es.filter (fun e => decide (l ≤ e))).takeWhile (fun e => key e == key l)).map (sourceElem x 32 f.s1)
           if f.imm.getLsbD 0 then 2 ^ 32 - 1
           else if f.ty = 6 then fF32.flush f.ftz (foldPatterns (add32 f.mode) (run.map (fF32.flush f.ftz)))
           else run.sum % 2 ^ 32)))

/-- Decoding, exact arithmetic and rounding (02 R34, R35, R41, R42, R45, 07 R150): a finite pattern decodes to the number it stands for, rounding gives it back in every mode; sums, products and fused sums of finite values are exact before they are rounded, and compare by value. Rounding gives the number of the format, with the exponent unbounded, that the mode selects: the nearest with ties to even, the next toward zero, up or down; past the largest finite number, that number or an infinity by the mode; a stochastic rounding moves away from zero where the top 32 bits of the discarded fraction exceed the drawn word. Reciprocals and roots are held closely enough that one rounding of them is correct. -/
def Obligations.ExactArithmetic : Prop :=
  (∀ f ∈ formats, ∀ p, f.finite p = true →
    (f.decode p).rat = some (
      let g := p % 2 ^ (f.bits - 1)
      let sg : ℚ := if p.testBit (f.bits - 1) then -1 else 1
      if g < 2 ^ f.man then sg * g * 2 ^ (1 - (f.bias : ℤ) - f.man)
      else sg * (2 ^ f.man + g % 2 ^ f.man : Nat) * 2 ^ ((g / 2 ^ f.man : Nat) - (f.bias : ℤ) - f.man)) ∧
    ∀ mode sat, f.round mode sat (f.decode p) = p) ∧
  (∀ (mode : RMode) (a b d : Ex) (x y z : ℚ), a.rat = some x → b.rat = some y → d.rat = some z →
    (exAdd mode a b).rat = some (x + y) ∧ (exSub mode a b).rat = some (x - y) ∧ (exMul a b).rat = some (x * y) ∧
    (exFma mode false a b d).rat = some (x * y + z) ∧ (exFma mode true a b d).rat = some (z - x * y) ∧
    (∀ n : ℤ, (exScale a n).rat = some (x * 2 ^ n)) ∧ ((exCmp a b < 0 ↔ x < y) ∧ (exCmp a b = 0 ↔ x = y) ∧ (0 < exCmp a b ↔ y < x))) ∧
  (∀ f ∈ formats, ∀ (s : Bool) (m : Nat) (e : ℤ) (more : Bool) (x : ℝ), (Ex.fin s m e more).stands (f.man + 2) x →
    (∀ mode sat, ∃ y, f.rounds mode x y ∧ f.gives s y (if sat = true ∨ f.infP = none then none else overflowTo f mode s) (f.round mode sat (.fin s m e more))) ∧
    (more = false → ∀ u : Nat, ∃ y, f.roundsRandomly u x y ∧ f.gives s y none (f.roundSR (.fin s m e more) u))) ∧
  (∀ f ∈ formats, ∀ p, f.finite p = true → ∀ x : ℚ, (f.decode p).rat = some x → x ≠ 0 →
    (exRcp (f.decode p)).stands 64 (1 / x) ∧
      (0 < x → (exSqrt (f.decode p)).stands 64 (Real.sqrt x) ∧ (exRsq (f.decode p)).stands 64 (1 / Real.sqrt x)))

/-- Powers of two, logarithms and sigmoids (02 R53, 07 R150, R151). What the model rounds for 2^x, and for log2 x of a positive x, is the exact value where x is an integer or a power of two, and else differs from the real function's value by less than 2^-200 of it (for log2, by less than 2^-200); a power outside any format overflows or underflows. Sig(x) is one rounding to nearest of a number that differs from 1/(1 + e^-x) by less than 2^-200 of it, 1/2 at zero. How close the computation comes is the model's choice (assumption 14); the spec asks for correct rounding. -/
def Obligations.PowersLogarithmsSigmoids : Prop :=
  (∀ f ∈ formats, ∀ p, f.finite p = true → ∀ x : ℚ, (f.decode p).rat = some x →
    (∀ n : ℤ, x = n → |x| < 2 ^ 13 → (exExp2 (f.decode p)).rat = some ((2 : ℚ) ^ n)) ∧
    (|x| < 2 ^ 13 → ∃ m e b, exExp2 (f.decode p) = .fin false m e b ∧ |(m : ℝ) * 2 ^ e - (2 : ℝ) ^ (x : ℝ)| < (2 : ℝ) ^ (x : ℝ) / 2 ^ 200) ∧
    (2 ^ 13 ≤ x → ∃ m e b, exExp2 (f.decode p) = .fin false m e b ∧ (2 : ℝ) ^ 1000 ≤ (m : ℝ) * 2 ^ e) ∧
    (x ≤ -(2 ^ 13) → ∃ m e b, exExp2 (f.decode p) = .fin false m e b ∧ 0 < m ∧ (m : ℝ) * 2 ^ e ≤ 1 / 2 ^ 1000) ∧
    (∀ n : ℤ, x = (2 : ℚ) ^ n → (exLog2 (f.decode p)).rat = some (n : ℚ)) ∧
    (0 < x → ∃ s m e b, exLog2 (f.decode p) = .fin s m e b ∧ |(if s = true then -1 else 1) * (m : ℝ) * 2 ^ e - Real.logb 2 x| < 1 / 2 ^ 200)) ∧
  (∀ p, fF32.finite p = true → ∀ x : ℚ, (fF32.decode p).rat = some x →
    (x = 0 → sigmoid (fF32.decode p) = 0x3F000000) ∧ (2 ^ 13 ≤ x → sigmoid (fF32.decode p) = 0x3F800000) ∧ (x ≤ -(2 ^ 13) → sigmoid (fF32.decode p) = 0) ∧
    (x ≠ 0 → |x| < 2 ^ 13 → ∃ m e, sigmoid (fF32.decode p) = fF32.round .rne false (.fin false m e true) ∧
      let y := 1 / (1 + Real.exp (-(x : ℝ)))
      |(m : ℝ) * 2 ^ e - y| < y / 2 ^ 200))

/-- The instructions that give an engine a command (09 R227, 11 R253, R254): a misaligned address raises ALIGN; a full queue or issue log blocks the issue with the cause Engine (04 R100, 21 R426); otherwise the command enters, capturing the unfinished commands of the Tokens it names, with the register values it read, and its Token is PENDING. `tjoin` (11 R261): a command outside every queue. With nothing unfinished among the Tokens it captures, its own Token is DONE at once, or ERROR with the first code found there, inherited; otherwise it waits with them. -/
def Obligations.EngineCommands : Prop :=
  (∀ (s : State) (k c : Nat) (i : Instr) (eng : Engine) (e : EF) (rs : List Reg4) (regs : List Word) (al : Option (Word × Nat)) (queued : Bool),
     commandRow (s.context k c) i = some (eng, e, rs, regs, al, queued) → legal i = true → s.issuing k c = true → (s.context k c).on e.g = true →
     rs.all (s.context k c).readyA = true →
     (∀ a n, al = some (a, n) → a.toNat % n ≠ 0 → exec i s = .next (s.enterTrap k c { Trap.slotTrap cALIGN (slotNumber i) 0 with addr := a } false)) ∧
     ((∀ a n, al = some (a, n) → a.toNat % n = 0) →
       (noRoom (s.cluster k) c eng i queued = true → ∃ t : State, exec i s = .next t ∧ waitsFor s t k c .engine ∧ (t.cluster k).cmds = (s.cluster k).cmds) ∧
       (noRoom (s.cluster k) c eng i queued = false →
         ∃ w m, exec i s = .next (s.issued k c i w) ∧ produced s w.st k c i eng e regs m ∧ m.queued = queued ∧ m.remote = none))) ∧
  (∀ (s : State) (k c : Nat) (e : EF), legal (.tjoin e) = true → s.issuing k c = true → (s.context k c).on e.g = true →
     let i := Instr.tjoin e
     let x := s.context k c
     let ks := [e.ka, e.kb, e.kc].filter (fun r => decide (r ≠ 0))
     let busy := ks.any (fun r => decide ((x.tok r.toNat).st = .pending) && !(x.tok r.toNat).cmds.isEmpty)
     let bad := ks.find? (fun r => decide ((x.tok r.toNat).st = .pending ∨ (x.tok r.toNat).st = .error) && (x.tok r.toNat).errSeen)
     (busy = true → ∃ w m, exec i s = .next (s.issued k c i w) ∧ produced s w.st k c i .matrix e [] m ∧ m.queued = false) ∧
     (busy = false → (x.tok e.kp.toNat).st ≠ .pending →
       ∃ w, exec i s = .next (s.issued k c i w) ∧
         (let y := (w.st.context k c).tok e.kp.toNat
          (bad = none → y.st = .done ∧ y.count = 0) ∧
          (∀ r, bad = some r → y.st = .error ∧ y.code = (x.tok r.toNat).code ∧ y.inherited = true)) ∧
         (∀ r : Tok, r ≠ e.kp → (w.st.context k c).tok r.toNat = x.tok r.toNat) ∧ (w.st.context k c).s = x.s))

/-- `put`, `get` and `acc` (17 R358, R359, R366): a length that is 0, no multiple of 4 or whose word holds a reserved value raises ILLEGAL, a misaligned local address or offset ALIGN; otherwise, where the local range translates with H = 0 (an engine's access, 19 R393), the operation enters the network port toward the window and peer of its reference, and its Handle counts one more operation. `ramo` and `rcas` (17 R360): a misaligned offset raises ALIGN; while the Handle is pending the issue blocks; otherwise the operation enters the network port with its operands, its Handle is ISSUED, and s[D] awaits the old value. -/
def Obligations.RemoteCommandsIssue : Prop :=
  (∀ (s : State) (k c : Nat) (i : Instr) (f : RF) (isGet : Bool) (maxType : Nat), transferRow i = some (f, isGet, maxType) → legal i = true →
     s.issuing k c = true → (s.context k c).on f.e.g = true →
     (s.context k c).readyA f.b = true → (s.context k c).readyA (f.b + 1) = true → (s.context k c).readyA (f.b + 2) = true →
     let x := s.context k c
     let va := x.areg f.b
     let ref := (x.areg (f.b + 1)).toNat
     let l := (x.areg (f.b + 2)).toNat
     let len := l % 2 ^ 24
     let off := ref / 2 ^ 24
     let bad := len = 0 ∨ len % 4 ≠ 0 ∨ maxType < l / 2 ^ 24 % 16 ∨ l / 2 ^ 28 % 16 ≠ 0 ∨ (isGet = true ∧ l / 2 ^ 32 ≠ 0)
     (bad → exec i s = .next (s.enterTrap k c (Trap.slotTrap cILLEGAL (slotNumber i) 0) false)) ∧
     (¬bad → va.toNat % 4 ≠ 0 → exec i s = .next (s.enterTrap k c { Trap.slotTrap cALIGN (slotNumber i) 0 with addr := va } false)) ∧
     (¬bad → va.toNat % 4 = 0 → off % 4 ≠ 0 →
       exec i s = .next (s.enterTrap k c { Trap.slotTrap cALIGN (slotNumber i) 0 with addr := BitVec.ofNat 64 off } false)) ∧
     (∀ cs st, ¬bad → va.toNat % 4 = 0 → off % 4 = 0 → (s.cluster k).acquiring c = [] → (s.cluster k).atomicsUnder c f.n.toNat = false →
       s.xlatRange k va.toNat len (if isGet then .write else .read) false true = (.ok cs, st) → noRoom (st.cluster k) c .network i true = false →
       ∃ w m r, exec i s = .next (s.issued k c i w) ∧ produced st w.st k c i .network f.e [x.areg (f.b + 2)] m ∧ m.remote = some r ∧
         r.hnd = f.n.toNat ∧ r.peerIdx = ref % 4096 ∧ r.win = ref / 4096 % 4096 ∧ r.off = off ∧ r.len = len ∧ r.localVa = va ∧ r.dest = none ∧
         ((w.st.context k c).hnd f.n.toNat).st = .issued ∧
         ((w.st.context k c).hnd f.n.toNat).left = (if (x.hnd f.n.toNat).st.pending then (x.hnd f.n.toNat).left + 1 else 1))) ∧
  (∀ (s : State) (k c : Nat) (i : Instr) (f : RaF) (rs : List SReg) (vs : List Word), remoteAtomicRow (s.context k c) i = some (f, rs, vs) →
     legal i = true → s.issuing k c = true → (s.context k c).on f.e.g = true → (s.context k c).readyS f.a = true →
     rs.all (s.context k c).readyS = true → (s.context k c).freeS f.d = true →
     let x := s.context k c
     let ref := (x.sreg f.a).toNat
     let off := ref / 2 ^ 24
     (off % (if f.w then 8 else 4) ≠ 0 →
       exec i s = .next (s.enterTrap k c { Trap.slotTrap cALIGN (slotNumber i) 0 with addr := BitVec.ofNat 64 off } false)) ∧
     (off % (if f.w then 8 else 4) = 0 → (s.cluster k).acquiring c = [] →
       ((x.hnd f.n.toNat).st.pending = true → ∃ t : State, exec i s = .next t ∧ waitsFor s t k c .engine) ∧
       ((x.hnd f.n.toNat).st.pending = false → noRoom (s.cluster k) c .network i true = false →
         ∃ w m r, exec i s = .next (s.issued k c i w) ∧ produced s w.st k c i .network f.e vs m ∧ m.remote = some r ∧
           r.hnd = f.n.toNat ∧ r.peerIdx = ref % 4096 ∧ r.win = ref / 4096 % 4096 ∧ r.off = off ∧ r.dest = (if f.d = 0 then none else some f.d) ∧
           (f.n ≠ 0 → ((w.st.context k c).hnd f.n.toNat).st = .issued) ∧
           (f.d ≠ 0 → SMap.find (w.st.context k c).sWait f.d.toNat = some (s.cluster k).nextCmd))))

/-- Epoch instructions (17 R352-R355, R366): the first issue traps on a window, peer set or epoch that does not allow it; otherwise its command enters the network port and the issue blocks with the cause Window; once the command has completed, the issue takes place. That it then does so whatever its guard has become, and that the first attempt gives the command its place, is the model's choice (assumption 43). The epoch commands at work (17 R352-R355): a command translates every peer that it names before anything else, and with one that fails ends in PEER_MISS; `wfence` opens a round, or waits for the one before it, sends its markers with FGEN, and ends with the markers of every member, FGEN one higher and the held packets performed or refused in their order; `wpost` sets the posted set without its own cluster and sends a notice to each; `wstart` takes a notice of each target; `wcomplete` and `wunlock` wait for the operations before their notices; `wwait` waits for the complete notices and for what was admitted; `wlock` asks for its lock. `wexpose` and `wrevoke` at work (17 R348, R356, R357): an image that breaks the rules, a window that is exposed or has no entry left end in ILLEGAL, pages that do not allow the exposure in PERM; otherwise the descriptor is written with VALID 1 and WSTAT and REJ 0 and a CLOSED entry stands in the table. `wrevoke` of a Window that is not exposed is ILLEGAL; else VALID falls, every packet, lock and notice that waits is refused, `wfence` and `wwait` end in WINDOW_CLOSED, and the Token completes with the last admitted packet. -/
def Obligations.EpochsAndExposure : Prop :=
  (∀ (s : State) (k c : Nat) (i : Instr) (e : EF) (rs : List SReg) (bad : Option (BitVec 16)),
     epochRow (s.cluster k) (s.context k c) i = some (e, rs, bad) → legal i = true → s.issuing k c = true →
     let x := s.context k c
     let mine := fun (p : Word × Nat × Nat × Bool) => decide (p.1 = x.pc ∧ p.2.1 = 0)
     (x.epochs.find? mine = none → x.on e.g = true → rs.all x.readyS = true →
       (∀ code, bad = some code → exec i s = .next (s.enterTrap k c (Trap.slotTrap code (slotNumber i) 0) false)) ∧
       (bad = none → noRoom (s.cluster k) c .network i true = false →
         ∃ (t : State) (m : Cmd), exec i s = .next t ∧ waitsFor s t k c .window ∧ produced s t k c i .network e (rs.map x.sreg) m ∧ m.queued = true ∧
           (t.context k c).epochs = x.epochs ++ [(x.pc, 0, m.id, false)])) ∧
     (∀ d, x.epochs.find? mine = some (x.pc, 0, d, false) → ∃ t : State, exec i s = .next t ∧ waitsFor s t k c .window ∧ (t.cluster k).cmds = (s.cluster k).cmds) ∧
     (∀ d, x.epochs.find? mine = some (x.pc, 0, d, true) →
       exec i s = .next (s.issued k c i (s.does k c (fun x => { x with epochs := x.epochs.filter (fun p => !mine p) }))))) ∧
  ((∀ (s : State) (k w : Nat) (m : Cmd), portCmd s k m → epochWin m.instr = some w →
     (¬mayGoOn s k m → exec .packetSend s = .next s) ∧
     (∀ u, mayGoOn s k m → m.phase = 0 → peerMissing k (peersNamed (s.cluster k) m) s u → exec .packetSend s = .next (u.finish k m (networkError cPEER))) ∧
     (∀ l u, mayGoOn s k m → m.phase = 0 → peersRead k (peersNamed (s.cluster k) m) s l u →
       exec .packetSend s = exec .packetSend (u.modCluster k (fun c => c.setCmd { m.taken with phase := 1, data := l })))) ∧
   (∀ (s : State) (k : Nat) (m : Cmd), portCmd s k m → m.started = true →
     let c := s.cluster k
     let next := { m with pos := m.pos + 1 }
     let last := m.pos + 1 = m.data.length
     (∀ g w mode e, m.instr = .wfence g w mode → c.selOf w.toNat = some e →
       let done := m.phase = 3 ∧ e.fence = some m.id ∧ e.gn + 1 ≤ e.marks.length ∧ ¬admittedLeft c w.toNat
       (m.phase = 1 → (e.ep = .gather ∨ e.ep = .closing → exec .packetSend s = .next s) ∧
         (e.ep = .closed ∨ e.ep = .opened → exec .packetSend s = .next (s.modCluster k (fun c => (c.writeBackAll.modSel w.toNat (fun e => { e with
           ep := if e.ep = .closed then .gather else .closing, fence := some m.id })).setCmd { m with phase := 2 })))) ∧
       (∀ v, m.phase = 2 → noticeNext s k m v → ∃ t : State, exec .packetSend s = .next t ∧ noticeSent s t k kMARKER w.toNat v (fun p => p.arg = e.fgen.setWidth 32) ∧
         (¬last → next ∈ (t.cluster k).cmds) ∧ (last → e.marks.length < e.gn + 1 → { next with phase := 3 } ∈ (t.cluster k).cmds)) ∧
       (done → exec .packetSend s = .next ((e.held.foldl (State.performHeldPacket k e) (s.modCluster k (fun c => c.writeBackAll.modSel w.toNat (fun e => { e with
         ep := if mode = 2 then .closed else .opened, fgen := e.fgen + 1, marks := e.nextMarks, nextMarks := [], held := [], fence := none })))).finish k m .normal)) ∧
       (m.phase = 3 → e.fence = some m.id → ¬done → exec .packetSend s = .next s)) ∧
     (∀ g w a, m.instr = .wpost g w a →
       (m.phase = 1 → ∃ set : List (Nat × Nat), set.Nodup ∧ (∀ d n, (d, n) ∈ set ↔ (d, n) ≠ (c.device.toNat, k) ∧ ∃ v ∈ m.data, v.toNat % 2 ^ 11 = d ∧ v.toNat / 2 ^ 11 % 2 ^ 6 = n) ∧
         exec .packetSend s = .next (s.modCluster k (fun c => (c.writeBackAll.modSel w.toNat (fun e => { e with
           ep := if set = [] then .closed else .opened, posted := set })).setCmd { m with phase := 2 }))) ∧
       (∀ v, m.phase = 2 → m.data[m.pos]? = some v → v.toNat % 2 ^ 11 = c.device.toNat → v.toNat / 2 ^ 11 % 2 ^ 6 = k →
         exec .packetSend s = .next (s.modCluster k (fun c => c.setCmd next))) ∧
       (∀ v, m.phase = 2 → noticeNext s k m v → ¬(v.toNat % 2 ^ 11 = c.device.toNat ∧ v.toNat / 2 ^ 11 % 2 ^ 6 = k) →
         ∃ t : State, exec .packetSend s = .next t ∧ noticeSent s t k kPOST w.toNat v (fun _ => True) ∧ (¬last → next ∈ (t.cluster k).cmds) ∧ (last → finished t k m)) ∧
       (m.phase = 2 → m.data[m.pos]? = none → exec .packetSend s = .next (s.finish k m .normal))) ∧
     (∀ g w a, m.instr = .wstart g w a → m.phase = 1 →
       let need := (m.data.map (fun v => (w.toNat, v.toNat % 2 ^ 11, v.toNat / 2 ^ 11 % 2 ^ 6))).eraseDups
       (¬(∀ n ∈ need, n ∈ c.notices) → exec .packetSend s = .next s) ∧
       ((∀ n ∈ need, n ∈ c.notices) → exec .packetSend s = .next ((s.modCluster k (fun c =>
         { c with notices := need.foldl (fun l n => l.erase n) c.notices }.modContext m.ctx (fun x => { x with
           starts := x.starts ++ (peersNamed c m).map (fun i => (w.toNat, i)) }))).finish k m .normal))) ∧
     (∀ g w, m.instr = .wcomplete g w →
       (m.phase = 1 → (opsLeft c m w.toNat → exec .packetSend s = .next s) ∧
         (¬opsLeft c m w.toNat → exec .packetSend s = .next (s.modCluster k (fun c => c.setCmd { m with phase := 2 })))) ∧
       (∀ v, m.phase = 2 → noticeNext s k m v → ∃ t : State, exec .packetSend s = .next t ∧ noticeSent s t k kCOMPLETE w.toNat v (fun _ => True) ∧
         (¬last → next ∈ (t.cluster k).cmds) ∧
         (last → finished t k m ∧ (t.context k m.ctx).starts = (s.context k m.ctx).starts.filter (fun p => p.1 ≠ w.toNat)))) ∧
     (∀ g w, m.instr = .wwait g w → m.phase = 1 →
       (c.selOf w.toNat = none → exec .packetSend s = .next (s.finish k m (networkError cWINDOW))) ∧
       (∀ e, c.selOf w.toNat = some e → (e.posted ≠ [] ∨ admittedLeft c w.toNat → exec .packetSend s = .next s) ∧
         (e.posted = [] → ¬admittedLeft c w.toNat →
           exec .packetSend s = .next ((s.modCluster k (fun c => c.modSel w.toNat (fun e => { e with ep := .closed }))).finish k m .normal)))) ∧
     (∀ g w a ex v, m.instr = .wlock g w a ex → m.phase = 1 → noticeNext s k m v → last →
       ∃ t : State, exec .packetSend s = .next t ∧ noticeSent s t k kLOCK w.toNat v (fun p => p.acq = ex) ∧ { next with phase := 2 } ∈ (t.cluster k).cmds) ∧
     (∀ g w a, m.instr = .wunlock g w a →
       (m.phase = 1 → (opsLeft c m w.toNat → exec .packetSend s = .next s) ∧
         (¬opsLeft c m w.toNat → exec .packetSend s = .next (s.modCluster k (fun c => (c.modContext m.ctx (fun x => { x with
           locks := x.locks.filter (fun q => q ≠ (w.toNat, (m.regs.headD 0).toNat % 2 ^ 12)) })).setCmd { m with phase := 2 })))) ∧
       (∀ v, m.phase = 2 → noticeNext s k m v → last →
         ∃ t : State, exec .packetSend s = .next t ∧ noticeSent s t k kUNLOCK w.toNat v (fun _ => True) ∧ { next with phase := 3 } ∈ (t.cluster k).cmds))) ∧
   (∀ (s : State) (k : Nat) (e : Sel) (p : Packet), p.kind ∈ accessKinds →
     (withinRights e p → State.performHeldPacket k e s p = s.perform k p p.elems) ∧ (¬withinRights e p → State.performHeldPacket k e s p = s.refuse k p cPERM))) ∧
  (∀ (s : State) (k : Nat) (m : Cmd), portCmd s k m → mayGoOn s k m →
     (∀ g w b bs bad u ds v, m.instr = .wexpose g w b → s.engineRead k (m.regs.headD 0).toNat 64 4 = (.ok (bs, bad), u) →
       u.xlatRange k ((u.cluster k).winbase.toNat / 2 ^ 12 % 2 ^ 44 * 4096 + 64 * w.toNat) 64 .write false false = (.ok ds, v) →
       let img := leNat bs % 2 ^ 512
       let base := img % 2 ^ 56
       let size := img / 2 ^ 64 % 2 ^ 40
       let rights := img / 2 ^ 128 % 2 ^ 6
       let exposedNow := fun (e : Sel) => e.desc.getLsbD 134
       let illegal := w = 4095 ∨ (∃ e, (v.cluster k).selOf w.toNat = some e ∧ exposedNow e = true) ∨ 64 ≤ ((v.cluster k).sel.filter exposedNow).length ∨
         base % 4096 ≠ 0 ∨ size = 0 ∨ size % 4 ≠ 0 ∨ rights / 2 ^ 4 = 3
       (illegal → exec .packetSend s = .next (v.finish k m (.error cILLEGAL 0 (m.regs.headD 0) 0))) ∧
       (¬illegal → (v.cluster k).selOf w.toNat = none →
         (∀ f z, v.xlatRange k base size .read false false = (.error f, z) → exec .packetSend s = .next (z.finish k m (.error cPERM 0 (m.regs.headD 0) 0))) ∧
         (∀ cs z, v.xlatRange k base size .read false false = (.ok cs, z) →
           let denied := ∃ x ∈ cs, ptePIN x.leaf = false ∨ (rights / 2 % 8 ≠ 0 ∧ pteW x.leaf = false)
           (denied → exec .packetSend s = .next (z.finish k m (.error cPERM 0 (m.regs.headD 0) 0))) ∧
           (∀ ch, ¬denied → ds = [ch] → ch.off = 0 → ch.len = 64 → ∃ (t : State) (e : Sel), exec .packetSend s = .next t ∧ finished t k m ∧
             (t.cluster k).sel = (z.cluster k).sel ++ [e] ∧ e.win = w.toNat ∧
             e.desc.toNat = base + 2 ^ 64 * size + 2 ^ 128 * rights + 2 ^ 134 + 2 ^ 256 * (img / 2 ^ 256 % 2 ^ 24) ∧
             (t.cluster k).l2Bytes ch.pa 64 = bytesLE 64 e.desc.toNat ∧ e.ep = .closed ∧ e.fgen = 0 ∧ e.marks = [] ∧ e.posted = [] ∧ e.holders = [] ∧ e.waiters = [])))) ∧
     (∀ g w, m.instr = .wrevoke g w → m.phase = 0 → (∀ e, (s.cluster k).selOf w.toNat = some e → e.desc.getLsbD 134 = false) →
       exec .packetSend s = .next (s.finish k m (.error cILLEGAL 0 0 0))) ∧
     (∀ g w e bs bad u v, m.instr = .wrevoke g w → m.phase = 0 → (s.cluster k).selOf w.toNat = some e → e.desc.getLsbD 134 = true →
       let at_ := (s.cluster k).winbase.toNat / 2 ^ 12 % 2 ^ 44 * 4096 + 64 * w.toNat + 16
       s.engineRead k at_ 8 4 = (.ok (bs, bad), u) → u.engineWrite k at_ 4 (bytesLE 8 (leNat bs % 2 ^ 6)) false = (.ok (), v) →
       ∃ (t : State) (e' : Sel), exec .packetSend s = .next t ∧ (t.cluster k).selOf w.toNat = some e' ∧ e'.desc.getLsbD 134 = false ∧ e'.ep = .closed ∧ e'.held = [] ∧
         e'.posted = [] ∧ e'.holders = [] ∧ e'.waiters = [] ∧ w.toNat ∈ (t.cluster k).revoked ∧ (∀ n ∈ (t.cluster k).notices, n.1 ≠ w.toNat) ∧
         (∀ p, p ∈ e.held ∨ p ∈ e.waiters.map (·.reply) → p.kind ≠ kMARKER → p.kind ≠ kCOMPLETE → p.sdev = s.deviceNo → p.scl < 48 →
           answered t p kFAIL (fun r => r.arg = cWINDOW.setWidth 32)) ∧
         (∀ q ∈ (s.cluster k).cmds, (∃ g mode, q.instr = .wfence g w mode) ∨ (∃ g, q.instr = .wwait g w) → finished t k q) ∧
         { m.taken with phase := 1 } ∈ (t.cluster k).cmds) ∧
     (∀ g w, m.instr = .wrevoke g w → m.phase = 1 → (admittedLeft (s.cluster k) w.toNat → exec .packetSend s = .next s) ∧
       (¬admittedLeft (s.cluster k) w.toNat → exec .packetSend s =
         .next ((s.modCluster k (fun c => { c with sel := c.sel.filter (fun e => e.win ≠ w.toNat) })).finish k m .normal))))

/-- The Nest tables and their walks (09 R210-R222): a load at the head of the queue leaves it, then reads its image in the background, in order among loads, and gives it to the shadow, good or bad with its cause, which its own Token's error and that of a go that finds it bad name (assumption 79; ZL is checked where ZEN = 1, and may name any level: assumption 15; of several causes, 81); firmware's other answer to its fault leaves the shadow; a store writes the image of the table; a go takes a good shadow and runs, runs on a READY or STOPPED table, and ends in error otherwise; a step between granules of a stopped Kernel's task ends the walk STOPPED at that step. One step of a walk (09 R206, R208, R212-R219, R222): its segments come from AB and WB or from the slice; each element of each tile of the step within the tile's rows and columns becomes the sum of its old value (0 where the step zero-starts) and the products of its K-block, and its FLAG bit is set where the sum lost its window; the tile is LIVE, counts the rows beyond it that hold a nonzero element, and is poisoned by any marked segment or accumulator; the walk goes on to the next step or ends after the last. A step whose tile has another element type ends the walk in error, and a stop ends it before a granule, but not before the replay of a step that a fault held up; a faulting segment stops the sequencer, as does an image read that waits on a fault, and firmware's other answer ends the walk at its step. Which marked place the record names is the model's choice (assumption 80), and so is that a struck accumulator keeps its mark unless its segment is written whole (assumption 40). -/
def Obligations.NestEvents : Prop :=
  (∀ (s : State) (k : Nat) (m : Cmd), aboutCmd s k m →
     let t := (s.cluster k).nest (nestOfInstr m.instr)
     (∀ e n b off code, m.instr = .mxcfgLoad e n b off → m.started = true → (s.cluster k).cmds.find? (fun q => q.started && isLoad q.instr) = some m →
       m.delivered = some code → ∃ v : State, exec .mxcfgLoadDone s = .next v ∧ recordsError s v k m (deliveredCode code) (matrixWord m n.toNat 6 0) 0 ∧
         (v.cluster k).nests = (s.cluster k).nests) ∧
     (m.delivered = none →
     (∀ e n b off, m.instr = .mxcfgLoad e n b off → m.started = false → (s.cluster k).atHead m = true →
       exec .mxcfgLoadDone s = .next (s.modCluster k (fun c => c.setCmd m.taken))) ∧
     (∀ e n b off bs bad u, m.instr = .mxcfgLoad e n b off → m.started = true →
       (s.cluster k).cmds.find? (fun q => q.started && isLoad q.instr) = some m → s.engineRead k (m.regs.headD 0).toNat 256 4 = (.ok (bs, bad), u) →
       let img : BitVec 2048 := BitVec.ofNat 2048 (leNat bs)
       ∃ (v : State) (cause : Nat), exec .mxcfgLoadDone s = .next v ∧ finished v k m ∧ walkCause img cause ∧
         (cause = 0 → ((v.cluster k).nest n.toNat).shadow = img ∧ ((v.cluster k).nest n.toNat).sv = .valid ∧ ((v.cluster k).nest n.toNat).active = t.active) ∧
         (cause ≠ 0 → ((v.cluster k).nest n.toNat).sv = .bad ∧ ((v.cluster k).nest n.toNat).cause = cause ∧
           recordsError s v k m cILLEGAL (matrixWord m n.toNat cause 0) 0)) ∧
     (∀ e n b off u, m.instr = .mxcfgStore e n b off → m.started = false → (s.cluster k).seqReady m = true →
       s.engineWrite k (m.regs.headD 0).toNat 4 (bytesLE 256 (storeImage t).toNat) false = (.ok (), u) →
       exec .mxcfgStoreExec s = .next (u.finish k m .normal)) ∧
     (∀ e n, m.instr = .mxgo e n → m.started = false → (s.cluster k).seqReady m = true →
       (t.sv = .valid → ∃ v : State, exec .nestWalkStart s = .next v ∧ (v.cluster k).nest n.toNat =
         { t with active := t.shadow, sv := .none, step := (nestOf t.shadow).step, st := .running } ∧
         { m.taken with pos := (nestOf t.shadow).step } ∈ (v.cluster k).cmds) ∧
       (t.sv = .bad → ∃ v : State, exec .nestWalkStart s = .next v ∧ (v.cluster k).nest n.toNat = { t with sv := .none, st := .invalid } ∧
         recordsError s v k m cILLEGAL (matrixWord m n.toNat t.cause 0) 0) ∧
       (t.sv = .none → (t.st = .ready ∨ t.st = .stopped) → ∃ v : State, exec .nestWalkStart s = .next v ∧ (v.cluster k).nest n.toNat = { t with st := .running }) ∧
       (t.sv = .none → (t.st = .empty ∨ t.st = .invalid) → exec .nestWalkStart s = .next (s.finish k m (matrixError m cILLEGAL 7 0 0)))))) ∧
  (∀ (s : State) (k : Nat) (m : Cmd) (e : EF) (q : BitVec 2), aboutCmd s k m → m.instr = .mxgo e q → m.started = true →
     let t := (s.cluster k).nest q.toNat
     let n := nestOf t.active
     let is := stepIndices n.levels t.step
     let stopped := m.pos < t.step ∧ t.step % 4 ^ n.gran = 0 ∧ (s.context k m.ctx).stopf = true ∧ m.data ≠ [BitVec.ofNat 64 t.step]
     let mixed := (List.range n.T).any (fun j => ((s.cluster k).tile (n.tile is j)).i32 != n.integer)
     let rows := (List.range 32).map (fun r => segAddr n.abase (strideSum n.levels is (·.sa)) r n.lda)
     let columns := (List.range n.segs).map (fun r => segAddr n.bbase (strideSum n.levels is (·.sb)) r n.ldb)
     t.st = .running →
     ((∃ p ∈ (s.cluster k).cmds, p.eng = .matrix ∧ p.started = true ∧ p.fault = true) → exec .nestStep s = .next s) ∧
     ((∀ p ∈ (s.cluster k).cmds, p.eng = .matrix → p.started = true → p.fault = false) →
      (∀ code, m.delivered = some code → ∃ v : State, exec .nestStep s = .next v ∧ (v.cluster k).nest q.toNat = { t with st := .stopped } ∧
        recordsError s v k m (deliveredCode code) (matrixWord m q.toNat 6 t.step) t.step) ∧
      (m.delivered = none →
       (stopped → ∃ v : State, exec .nestStep s = .next v ∧ finished v k m ∧ (v.cluster k).nest q.toNat = { t with st := .stopped }) ∧
       (¬stopped → mixed = true → ∃ v : State, exec .nestStep s = .next v ∧ (v.cluster k).nest q.toNat = { t with st := .stopped } ∧
         recordsError s v k m cILLEGAL (matrixWord m q.toNat 4 t.step) t.step) ∧
       (∀ f u, ¬stopped → mixed = false → n.asrc = true → s.engineRead k (rows.headD 0) 64 0 = (.error f, u) →
         exec .nestStep s = .next (u.cmdFault k { m with data := [BitVec.ofNat 64 t.step] } 1 f 0 q.toNat t.step)) ∧
       (∀ (as bs : List (List Byte)) (pa pb : Option (Nat × Word)) (u w : State), ¬stopped → mixed = false →
         segsRead k .ab n.asrc 64 rows s as pa u → segsRead k .wb n.bsrc n.segBytes columns u bs pb w →
         let av := as.map leNat
         let bv := bs.map leNat
         let old := fun (j : Nat) => (w.cluster k).tile (n.tile is j)
         let inside := fun (z : Tile) (i : Nat) => decide (i / 64 < z.rows ∧ i % 64 < z.cols)
         let struck := fun (j g : Nat) => n.zeroStart is = false ∧ (old j).marks.getLsbD g = true ∧ (List.range 16).any (fun i => inside (old j) (16 * g + i)) = true
         let marked := fun (j : Nat) => pa ≠ none ∨ pb ≠ none ∨ ∃ g, g < 128 ∧ struck j g
         let nonzero := fun (a : Nat) => (List.range n.kblock).any (fun i =>
           if n.integer = true then segElem n.atype a i != 0 else !(fltOf n.atype (segElem n.atype a i)).isZero)
         ∃ v : State, exec .nestStep s = .next v ∧
           (∀ j, j < n.T →
             let z := old j
             let y := (v.cluster k).tile (n.tile is j)
             y.live = true ∧ (y.poison = true ↔ z.poison = true ∨ marked j) ∧ y.i32 = z.i32 ∧ y.rows = z.rows ∧ y.cols = z.cols ∧ y.reshaped = z.reshaped ∧
             y.drop = min 65535 (z.drop + (List.range 32).countP (fun r => decide (z.rows ≤ r) && nonzero (av.getD r 0))) ∧
             (∀ g, g < 128 → (y.marks.getLsbD g = true ↔ z.marks.getLsbD g = true ∧ (marked j ∨ (List.range 16).all (fun i => inside z (16 * g + i)) = false))) ∧
             ∀ i, i < 2048 →
               let r := stepElem n (av.getD (i / 64) 0) bv (64 * j + i % 64) (if n.zeroStart is then 0 else z.el i) (z.flag.getLsbD i)
               y.el i = (if inside z i = true then r.1 % 2 ^ 32 else z.el i) ∧ y.flag.getLsbD i = (if inside z i = true then r.2 else z.flag.getLsbD i)) ∧
           (∀ st a, pa.or pb = some (st, a) → clusterRecord w v k m.ctx 1 1 cPOISON a (BitVec.ofNat 64 st)) ∧
           (∀ j g, pa.or pb = none → j < n.T → g < 128 → struck j g → (∀ i h, i < j → h < 128 → ¬struck i h) → (∀ h, h < g → ¬struck j h) →
             clusterRecord w v k m.ctx 1 1 cPOISON (BitVec.ofNat 64 (8192 * n.tile is j + 64 * g)) 6) ∧
           (t.step + 1 = n.total → finished v k m ∧ (v.cluster k).nest q.toNat = { (w.cluster k).nest q.toNat with st := .ready, step := 0 }) ∧
           (t.step + 1 ≠ n.total → (v.cluster k).nest q.toNat = { (w.cluster k).nest q.toNat with step := t.step + 1 } ∧
             (m ∈ (w.cluster k).cmds → m ∈ (v.cluster k).cmds))))))

/-- Tile commands (09 R206, R224-R226, R228-R232, R236, 10 R246-R250): zeroing, shaping, draining to AB and to c12, the flag words, the twiddle table, the butterflies and the transpose engine's configuration, each taken when the sequencer reaches it. A poisoned tile, or one with struck segments, gives marked entries and marked bytes of AB. A flag entry carries the tile's flag words and its status word; a butterfly whose plan, source offset in AB or tile type is bad ends in error with its cause and leaves the tile. That a drain that ends in DRAIN_ERR leaves its tile, CLR or not, is the model's choice (assumption 92), and so are the marks of struck segments (40) and the rounding of the twiddles (14). The drain buffer (08 R203, 09 R231, R232): while c12 holds fewer than 16 entries its oldest entry passes into c12; a flag entry with a flag set sets LSIG; the command ends with its last entry. -/
def Obligations.TileEvents : Prop :=
  (∀ (s : State) (k : Nat) (m : Cmd), aboutCmd s k m →
     let c := s.cluster k
     let x := s.context k m.ctx
     let taken := fun (z : Tile) (clr : Bool) => if clr = true then { z with data := 0, live := false, poison := false, marks := 0 } else z
     (c.seqReady m = true →
       (∀ e t cm1 st, m.instr = .mxzero e t cm1 st → ∃ v : State, exec .mxzeroExec s = .next v ∧ finished v k m ∧
         ∀ z, z < 1024 → (v.cluster k).tile z =
           if (z + 1024 - tEff t st m.n) % 1024 ≤ cm1.toNat then { c.tile z with data := 0, live := false, marks := 0 } else c.tile z) ∧
       (∀ e t hm1 lm1 i32 mm1, m.instr = .mxshape e t hm1 lm1 i32 mm1 → ∃ v : State, exec .mxshapeExec s = .next v ∧ finished v k m ∧
         ∀ z, z < 1024 → (v.cluster k).tile z =
           if (z + 1024 - t.toNat) % 1024 ≤ mm1.toNat then (let x := c.tile z
                let y : Tile := { x with i32 := i32, rows := hm1.toNat + 1, cols := lm1.toNat + 1 }
                if x.live = false then y else if y = x then x else { y with data := 0, live := false, flag := 0, poison := false, reshaped := true, marks := 0 }) else c.tile z) ∧
       (∀ e t clr st, m.instr = .mxdrainC12 e t clr st → x.drain = [] → ∃ v : State, exec .mxdrainExec s = .next v ∧ { m.taken with phase := 1 } ∈ (v.cluster k).cmds ∧
         (v.context k m.ctx).drain.map (·.data) = (List.range 8).map (fun j => (c.tile (tEff t st m.n)).data.extractLsb' (8192 * j) 8192) ∧
         (v.context k m.ctx).drain.map (·.poison) = (List.range 8).map (fun j =>
           (c.tile (tEff t st m.n)).poison || (List.range 16).any (fun g => (c.tile (tEff t st m.n)).marks.getLsbD (16 * j + g))) ∧
         (∀ d ∈ (v.context k m.ctx).drain, d.ready = true ∧ d.id = m.id) ∧ (v.cluster k).tile (tEff t st m.n) = taken (c.tile (tEff t st m.n)) clr) ∧
       (∀ e t clr b st, m.instr = .mxdrainAb e t clr b st →
         let a := m.regs.headD 0
         let o := (a + BitVec.ofInt 64 (st.toInt * m.n.toNat * 8192)).toNat
         (o % 64 ≠ 0 ∨ 0xFFE000 < o ∨ 2 ^ 24 ≤ a.toNat → exec .mxdrainExec s = .next (s.finish k m (matrixError m cDRAIN 5 0 0))) ∧
         (o % 64 = 0 → o ≤ 0xFFE000 → a.toNat < 2 ^ 24 → ∃ v : State, exec .mxdrainExec s = .next v ∧ finished v k m ∧
           (∀ j, SMap.get 0 (v.cluster k).ab j = if o ≤ j ∧ j < o + 8192 then (c.tile (tEff t st m.n)).data.extractLsb' (8 * (j - o)) 8 else SMap.get 0 c.ab j) ∧
           (∀ g, SMap.get false (v.cluster k).abPoison g = if o / 64 ≤ g ∧ g < o / 64 + 128 then
             (c.tile (tEff t st m.n)).poison || (c.tile (tEff t st m.n)).marks.getLsbD (g - o / 64) else SMap.get false c.abPoison g) ∧
           (v.cluster k).tile (tEff t st m.n) = taken (c.tile (tEff t st m.n)) clr)) ∧
       (∀ e t st, m.instr = .mxflag e t st → x.drain.length < 8 → (c.tile (tEff t st m.n)).rows ≤ 32 → (c.tile (tEff t st m.n)).cols ≤ 64 → (c.tile (tEff t st m.n)).drop < 2 ^ 16 →
         ∃ (v : State) (d : PEntry), exec .mxflagExec s = .next v ∧ (v.context k m.ctx).drain = x.drain ++ [d] ∧
         (let z := c.tile (tEff t st m.n)
          d.ready = true ∧ d.poison = false ∧ d.data.toNat = z.flag.toNat + 2 ^ 2048 * ((if z.live then 1 else 0) + (if z.reshaped then 2 else 0) + (if z.i32 then 4 else 0)
            + (if z.poison then 8 else 0) + 2 ^ 4 * (z.rows - 1) + 2 ^ 9 * (z.cols - 1) + 2 ^ 16 * z.drop
            + 2 ^ 32 * ((List.range 2048).countP (fun i => z.flag.getLsbD i)))) ∧
         (v.cluster k).tile (tEff t st m.n) = { c.tile (tEff t st m.n) with flag := 0, reshaped := false, drop := 0 }) ∧
       (∀ e t inv lm1, m.instr = .mxtw e t inv lm1 →
         ((c.tile t.toNat).i32 = true → exec .mxtwExec s = .next (s.finish k m (matrixError m cILLEGAL 4 0 0))) ∧
         ((c.tile t.toNat).i32 = false → ∃ v : State, exec .mxtwExec s = .next v ∧ finished v k m ∧ (v.cluster k).tile t.toNat =
           (c.tile t.toNat).putCx ((List.range (lm1.toNat + 1)).map (twEntry (lm1.toNat + 1) inv)) false)) ∧
       (∀ e t b src st, m.instr = .mxbf e t b src st →
         let z := tEff t st m.n
         let p := planOf (m.regs.headD 0)
         let o := (m.regs.getD 1 0 + BitVec.ofInt 64 (st.toInt * m.n.toNat * 8192)).toNat
         (planOk (m.regs.headD 0) z = false → exec .mxbfExec s = .next (s.finish k m (matrixError m cILLEGAL 1 0 0))) ∧
         (planOk (m.regs.headD 0) z = true → src = true → o % 64 ≠ 0 ∨ 0xFFE000 < o ∨ 2 ^ 24 ≤ (m.regs.getD 1 0).toNat →
           ∃ v : State, exec .mxbfExec s = .next v ∧ recordsError s v k m cDRAIN (matrixWord m 0 2 0) 0 ∧ (v.cluster k).tile z = c.tile z) ∧
         (planOk (m.regs.headD 0) z = true → (src = true → abSourceBad (m.regs.getD 1 0) o = false) → (c.tile z).i32 = true ∨ (c.tile p.tw).i32 = true →
           ∃ v : State, exec .mxbfExec s = .next v ∧ recordsError s v k m cILLEGAL (matrixWord m 0 4 0) 0 ∧ (v.cluster k).tile z = c.tile z) ∧
         (planOk (m.regs.headD 0) z = true → (src = true → abSourceBad (m.regs.getD 1 0) o = false) → (c.tile z).i32 = false → (c.tile p.tw).i32 = false →
           let data := if src then leNat (c.bufBytes .ab o (8 * (p.batch * p.len))) else (c.tile z).data.toNat
           let tw := (List.range p.len).map (cxAt (c.tile p.tw).data.toNat)
           ∃ v : State, exec .mxbfExec s = .next v ∧ finished v k m ∧ ((v.cluster k).tile z).live = true ∧ ((v.cluster k).tile z).data =
             ((c.tile z).putCx (((List.range p.batch).map (fun b => transform tw p.st ((List.range p.len).map (fun i => cxAt data (b * p.len + i))))).flatten) false).data))) ∧
     (∀ e hm1 w16, m.instr = .xcfg e hm1 w16 → c.atHead m = true → ∃ v : State, exec .xcfgExec s = .next v ∧ finished v k m ∧
       (v.context k m.ctx).pleat.on = true ∧ (v.context k m.ctx).pleat.h = hm1.toNat + 1 ∧ (v.context k m.ctx).pleat.w16 = w16 ∧
       (v.context k m.ctx).pleat.filling = [] ∧ (v.context k m.ctx).pleat.tiles = x.pleat.tiles)) ∧
  (∀ (s : State) (k : Nat) (e : PEntry) (rest : List PEntry), s.arg.k = k →
     let x := s.context k s.arg.c
     x.drain = e :: rest → (x.port 12).entries.length < 16 →
     ∃ v : State, exec .drainEntryTransfer s = .next v ∧ (v.context k s.arg.c).drain = rest ∧
       (∃ q, ((v.context k s.arg.c).port 12).entries = (x.port 12).entries ++ [q] ∧ q.data = e.data ∧ q.poison = e.poison ∧ q.ready = e.ready) ∧
       (∀ m, (s.cluster k).cmd e.id = some m → rest.any (fun r => r.id == m.id) = false → finished v k m) ∧
       (∀ m f t st, (s.cluster k).cmd e.id = some m → m.instr = .mxflag f t st →
         ((v.context k s.arg.c).lsig = true ↔ x.lsig = true ∨ e.data.extractLsb' 0 2048 ≠ 0)))

/-- Copy channels (11 R262-R276): `chset` sets a channel that is idle, or ends in error on a bad argument; `chq` writes the snapshot; `chgo` starts a walk, which takes a record that it owns, ends at one it does not own and in error at a bad one; a row's segments are copied in order (the state after them is that of `State.copySegs`) and the watermark follows it; after a record's last row its control word with OWN 0 and DONE 0 are written, RECS counts it and HEAD moves on, and after the last record's the walk ends, IDLE with LAST 1; firmware carries a faulted Chain on, from the row that POS gave where the record itself was not read, or ends it with PAGE or PERM, and a code that it delivers instead ends the walk in error (19 R399). That firmware goes on by a number of records and rows that the environment names is the model's choice (assumption 41), and so is it that `chset` leaves CTX (assumption 95). -/
def Obligations.CopyChannelEvents : Prop :=
  ∀ (s : State) (k : Nat) (m : Cmd), aboutCmd s k m →
    let c := s.cluster k
    let n := chanOf m
    let h := c.chan n
    (∀ e q b sp, m.instr = .chset e q b sp → c.chanReady m = true →
      let lo := m.regs.getD 1 0
      let hi := m.regs.getD 2 0
      let bad := (m.regs.headD 0).toNat % 64 ≠ 0 ∨ hi.toNat < lo.toNat ∨ (sp ≠ 0 ∧ 2 ^ 24 < hi.toNat)
      (bad → ∃ v : State, exec .chsetExec s = .next v ∧ recordsError s v k m cILLEGAL (channelWord m 2 0) 0 ∧ (v.cluster k).chan n = h) ∧
      (¬bad → ∃ v : State, exec .chsetExec s = .next v ∧ finished v k m ∧ (v.cluster k).chan n =
        { h with head := m.regs.headD 0, rbase := lo, rlim := hi, wmark := lo, recs := 0, space := sp, last := 0 })) ∧
    (∀ e q b now st u, m.instr = .chq e q b now st → m.delivered = none → m.started = false → (if now then c.mayStart m = true else c.chanReady m = true) →
      s.engineWrite k (m.regs.headD 0).toNat 4 (((c.snapshot n m.id).map (fun w => bytesLE 8 w.toNat)).flatten) false = (.ok (), u) →
      exec .chqSnapshot s = .next (u.finish k m .normal)) ∧
    (∀ e q r u, m.instr = .chgo e q → m.started = false → c.chanReady m = true →
      let s1 := s.setCluster k ((c.setChan n { h with st := .walk, ctx := m.ctx, cmd := some m.id, rcd := none, row := 0, first := true, done := 0 }).setCmd m.taken)
      s1.readRecord false k n = (.ok r, u) →
      ∃ v : State, exec .chainRecordRead s = .next v ∧
        (trOwn r = false → finished v k m ∧ ((v.cluster k).chan n).st = .idle ∧ ((v.cluster k).chan n).last = 1) ∧
        (trOwn r = true → trBad r = true → recordsError u v k m.taken cILLEGAL (channelWord m 1 0) 0 ∧ ((v.cluster k).chan n).st = .idle ∧ ((v.cluster k).chan n).last = 3) ∧
        (trOwn r = true → trBad r = false → ((v.cluster k).chan n).st = .walk ∧ ((v.cluster k).chan n).rcd = some r ∧ ((v.cluster k).chan n).row = trDone r)) ∧
    (∀ r u, c.walking m .walk = true → m.delivered = none → h.rcd = some r → (h.first = true ∨ (s.context k m.ctx).stopf = false) → h.row < trRows r →
      State.copySegs false k m r h.row (trRowb r / 64) 0 s = (none, u) →
      exec .chainRowCopy s = .next (u.modCluster k (fun c => c.setChan n (rowMarked (c.chan n) r h.row)))) ∧
    (∀ r u u2 u3, c.walking m .walk = true → m.delivered = none → h.rcd = some r → (h.first = true ∨ (s.context k m.ctx).stopf = false) → h.row = trRows r →
      State.copySegs false k m r h.row (trRowb r / 64) 0 s = (none, u) →
      (u.modCluster k (fun c => c.setChan n (rowMarked (c.chan n) r h.row))).engineWrite k (h.head.toNat + 8) 1 (bytesLE 8 (2 * (r.toNat / 2 ^ 65 % 16))) false = (.ok (), u2) →
      u2.engineWrite k (h.head.toNat + 0x30) 1 [0, 0] false = (.ok (), u3) →
      let next := fun (g : Channel) => { g with recs := g.recs + 1, head := trNext r, rcd := none, done := g.done + 1 }
      (trEnd r = false → exec .chainRowCopy s = .next (u3.modCluster k (fun c => c.setChan n (next (c.chan n))))) ∧
      (trEnd r = true → ∃ v : State, exec .chainRowCopy s = .next v ∧ finished v k m ∧ (v.cluster k).mem = (u3.cluster k).mem ∧ (v.cluster k).dirty = (u3.cluster k).dirty ∧
        (v.cluster k).ab = (u3.cluster k).ab ∧ (v.cluster k).wb = (u3.cluster k).wb ∧
        (v.cluster k).chan n = { next ((u3.cluster k).chan n) with st := .idle, last := 1, cmd := none, pos := none })) ∧
    (∀ r u, c.walking m .walk = true → m.delivered = none → h.rcd = some r → h.row ≤ trRows r → h.first = false → (s.context k m.ctx).stopf = true → s.writeDone k n h.row = (.ok (), u) →
      ∃ v : State, exec .chainRowCopy s = .next v ∧ finished v k m ∧ ((v.cluster k).chan n).st = .idle ∧ ((v.cluster k).chan n).last = 2) ∧
    (∀ r code, c.walking m .walk = true → m.delivered = some code → h.rcd = some r →
      ∃ v : State, exec .chainRowCopy s = .next v ∧ finished v k m ∧ ((v.cluster k).chan n).st = .idle ∧ ((v.cluster k).chan n).last = 3) ∧
    (∀ r u, c.walking m .firmware = true → h.rcd = none → s.arg.j = 1 → s.readRecord true k n = (.ok r, u) → trOwn r = true → trBad r = false →
      ∃ v : State, exec .firmwareFinishChain s = .next v ∧ ((v.cluster k).chan n).st = .firmware ∧ ((v.cluster k).chan n).rcd = some r ∧
        ((v.cluster k).chan n).row = (match h.pos with | some p => p | none => trDone r)) ∧
    (∀ r u, c.walking m .firmware = true → h.rcd = none → s.arg.j = 1 → s.readRecord true k n = (.ok r, u) → trOwn r = false →
      ∃ v : State, exec .firmwareFinishChain s = .next v ∧ finished v k m ∧ ((v.cluster k).chan n).st = .idle ∧ ((v.cluster k).chan n).last = 1) ∧
    (∀ r u, c.walking m .firmware = true → h.rcd = some r → s.arg.j = 1 → h.row ≤ trRows r → State.copySegs true k m r h.row (trRowb r / 64) 0 s = (none, u) →
      exec .firmwareFinishChain s = .next (u.modCluster k (fun c => c.setChan n (rowMarked (c.chan n) r h.row)))) ∧
    (c.walking m .firmware = true → (s.arg.w.setWidth 16 = cPAGE ∨ s.arg.w.setWidth 16 = cPERM) →
      ∃ v : State, exec .firmwareEndChain s = .next v ∧ recordsError s v k m (s.arg.w.setWidth 16) (channelWord m 3 h.done) h.done ∧
        ((v.cluster k).chan n).st = .idle ∧ ((v.cluster k).chan n).last = 3)

/-- How commands end (11 R255, R261): a `tjoin` whose captured commands have all finished ends, in error where one of them did; a command that captured an error ends unstarted with it; the last command of a Token makes it DONE, or ERROR with the first code. -/
def Obligations.CommandEndings : Prop :=
  (∀ (s : State) (k : Nat) (m : Cmd), aboutCmd s k m → m.waits = [] →
    (∀ e, m.instr = .tjoin e →
      exec .commandFinish s = .next (s.finish k m (match m.inh with | some code => .inherited code | none => .normal))) ∧
    (∀ code, m.inh = some code → m.started = false → m.isPoll = false → gatedArrival m.instr = false → m.remote = none →
      (m.queued = true → (s.cluster k).queueHead m = true) → exec .inheritedFinish s = .next (s.finish k m (.inherited code)))) ∧
  (∀ (s : State) (k : Nat) (m : Cmd) (f : Finish), m.tok ≠ 0 →
    let t := s.finish k m f
    let x := (s.context k m.ctx).tok m.tok
    let y := (t.context k m.ctx).tok m.tok
    finished t k m ∧ (t.context k m.ctx).s = (s.context k m.ctx).s ∧ (t.cluster k).mem = (s.cluster k).mem ∧
    (x.cmds = [m.id] → x.count = 1 → x.errSeen = false →
      (f = .normal → y.st = .done) ∧ (f = .stopped → y.st = .done ∧ y.stopped = true) ∧
      (∀ code w a n, f = .error code w a n → y.st = .error ∧ y.code = code ∧ y.inherited = x.inherited ∧ (t.context k m.ctx).terr = true ∧
        ∃ tr, (t.context k m.ctx).errors = (s.context k m.ctx).errors ++ [tr] ∧ tr.code = code ∧ tr.esw = w ∧ tr.addr = a ∧ tr.origPc = m.pc ∧ tr.token = m.tok) ∧
      (∀ code, f = .inherited code → y.st = .error ∧ y.code = code ∧ y.inherited = true ∧ (t.context k m.ctx).errors = (s.context k m.ctx).errors)))

/-- Requests that arrive (17 R350, R353-R360, 12 R284, R285, 15 R319, 20 R416, R417): each is checked, against the window table's number and the entry of its Window, its epoch, then size and rights, and performed, held, dropped or refused; performed, a notice or a lock request of a Window that is still open, it has its effect at the target and its origin receives its reply. An event may perform a part of a PUT's elements (16 R344, assumption 61), whose counters count a line once that two parts touch (19 R400). That a LOCK says beside its header whether it is exclusive is the model's choice (assumption 18). What a refusal leaves, and what requests order (17 R350, R351, R353, R355, R358, 12 R285, 16 R334, R335): a refused packet adds 1 to REJ of its exposed Window and leaves a REFUSED record with its origin, Window and offset, and changes neither the Window nor, but for REJ, memory; a MARKER of the next round is kept for it, one of another round is dropped with a record; a lock request behind a holder that excludes it waits, and is granted when the lock is released; a join at 0 leaves a JOINZERO record; an acquiring access writes back the release sets that its lines tag before it reads; and an operation with a release leaves after its Context's earlier accesses and the earlier operations in its scope, with every dirty line written back at scope stack or wider. -/
def Obligations.RequestsAtTheTarget : Prop :=
  ((∀ (c : Cluster) (p : Packet),
     (p.wid.toNat ≠ c.winid → c.verdict p = .refuse cWINDOW) ∧
     (p.wid.toNat = c.winid → p.win ≠ 4095 →
       (p.kind ≠ kPOST → ((c.sel.find? (fun e => e.win == p.win)).any (fun e => e.desc.getLsbD 134)) = false → c.verdict p = .refuse cWINDOW) ∧
       (∀ e, c.sel.find? (fun e => e.win == p.win) = some e → e.desc.getLsbD 134 = true →
         let kind := e.desc.toNat / 2 ^ 132 % 4
         let third := fun (v : Verdict) => (withinRights e p → v = .perform) ∧ (¬withinRights e p → v = .refuse cPERM)
         (p.kind ∈ accessKinds →
           (kind = 0 → ((e.ep = .opened ∨ e.ep = .closing) ∧ p.tag = e.fgen → third (c.verdict p)) ∧
             (e.ep = .gather ∨ e.ep = .closing → p.tag = e.fgen + 1 → c.verdict p = if e.held.length < 64 then .hold else .drop) ∧
             (p.tag ≠ e.fgen → p.tag ≠ e.fgen + 1 → c.verdict p = .refuse cWINDOW) ∧ (e.ep = .closed → c.verdict p = .refuse cWINDOW)) ∧
           (kind = 1 → ((p.sdev, p.scl) ∈ e.posted → third (c.verdict p)) ∧ ((p.sdev, p.scl) ∉ e.posted → c.verdict p = .refuse cWINDOW)) ∧
           (kind = 2 → ((∃ h ∈ e.holders, h.dev = p.sdev ∧ h.cl = p.scl ∧ h.ctx = p.rtag / 256) → third (c.verdict p)) ∧
             ((∀ h ∈ e.holders, ¬(h.dev = p.sdev ∧ h.cl = p.scl ∧ h.ctx = p.rtag / 256)) → c.verdict p = .refuse cWINDOW))) ∧
         (p.kind = kMARKER → c.verdict p = if kind = 0 then .perform else .refuse cWINDOW) ∧
         (p.kind = kCOMPLETE → c.verdict p = if kind = 1 ∧ (p.sdev, p.scl) ∈ e.posted then .perform else .refuse cWINDOW) ∧
         (p.kind = kLOCK → kind ≠ 2 → c.verdict p = .refuse cWINDOW) ∧ (p.kind = kUNLOCK → kind ≠ 2 → c.verdict p = .refuse cWINDOW)))) ∧
   (∀ (s : State) (k : Nat) (p : Packet), inboxAt s k p → p.rpl = false → p.adm = false → p.ordered = false →
     ((s.cluster k).verdict p = .perform → ∃ t : State, exec .packetAdmit s = .next t ∧ (t.cluster k).inbox[s.arg.i]? = some { p with adm := true }) ∧
     ((s.cluster k).verdict p = .hold → exec .packetAdmit s =
       .next ((withoutPacket s k).modCluster k (fun c => c.modSel p.win (fun e => { e with held := e.held ++ [p] })))) ∧
     ((s.cluster k).verdict p = .drop → p.sdev = s.deviceNo → ∃ t : State, exec .packetAdmit s = .next t ∧ answered t p kENACK (fun _ => True)) ∧
     (∀ code, (s.cluster k).verdict p = .refuse code → p.kind ≠ kMARKER → p.kind ≠ kCOMPLETE → p.sdev = s.deviceNo →
       ∃ t : State, exec .packetAdmit s = .next t ∧ answered t p kFAIL (fun r => r.arg = code.setWidth 32))) ∧
   (∀ (s : State) (k : Nat) (p : Packet), performable s k p →
     let u := withoutPacket s k
     (p.kind = kSPAWN → ∃ (t : State) (q : Push), exec .spawnPacket s = .next t ∧ (t.cluster k).pushes = (s.cluster k).pushes ++ [q] ∧ q.rcd = recOfBytes (padTo 64 p.payload)) ∧
     (p.kind = kPOST → (s.cluster k).revoked.contains p.win = false → ∃ t : State, exec .post s = .next t ∧ (t.cluster k).notices = (s.cluster k).notices ++ [(p.win, p.sdev, p.scl)] ∧ answered t p kDONE (fun _ => True)) ∧
     (∀ ch v, p.kind = kJOIN → (s.cluster k).pushes = [] → u.xlatRange k p.off 64 .write false false = (.ok [ch], v) →
       let n := leNat (((v.cluster k).writeBack (linesOf ch.pa 64)).l2Bytes (ch.pa + 16) 4)
       ∃ t : State, exec .joinPacket s = .next t ∧ (n ≠ 0 → leNat ((t.cluster k).l2Bytes (ch.pa + 16) 4) = n - 1) ∧
         (n ≠ 1 → answered t p kDONE (fun _ => True)) ∧ (n = 1 → ∃ q, (t.cluster k).pushes = [q]))) ∧
   (∀ (s : State) (k : Nat) (p : Packet) (e : Sel), performable s k p → (s.cluster k).selOf p.win = some e → e.fence = none →
     let u := withoutPacket s k
     let now := fun (v : State) (cs : List Chunk) => (v.cluster k).countChunks 2 cs
     (∀ cs v, p.kind = kPUT → 0 < s.arg.j → p.part + s.arg.j < p.elems →
       u.xlatRange k (e.base + p.off + 4 * p.part) (4 * s.arg.j) .write false false = (.ok cs, v) → exec .putPacket s = .next (
         v.modCluster k (fun c =>
           let fresh := match cs with
             | x :: l => if p.part = 0 ∨ x.pa % 64 = 0 then cs else { x with pa := x.pa + min x.len (64 - x.pa % 64), len := x.len - min x.len (64 - x.pa % 64) } :: l
             | [] => []
           let d := (c.countChunks 2 fresh).writeChunks cs (padTo (4 * s.arg.j) (p.payload.drop (4 * p.part))) p.pois
           { d with inbox := d.inbox.take s.arg.i ++ { p with part := p.part + s.arg.j } :: d.inbox.drop s.arg.i }))) ∧
     (∀ cs v, p.kind = kPUT → wholly s p → u.xlatRange k (e.base + p.off) (4 * p.elems) .write false false = (.ok cs, v) → exec .putPacket s = .next (
       ((v.modCluster k (fun c => (c.countChunks 2 cs).writeChunks cs (padTo (4 * p.elems) p.payload) p.pois)).windowStat k p.win p.arg 0).doneTo p false)) ∧
     (∀ cs v, p.kind = kGETREQ → wholly s p → p.acq = false → u.xlatRange k (e.base + p.off) (4 * p.elems) .read false false = (.ok cs, v) →
       ∃ t : State, exec .getreqPacket s = .next t ∧ answered t p kGETDATA (fun r => r.payload = (now v cs).readChunksL2 cs ∧ r.elems = p.elems ∧ r.pois = (now v cs).chunksPoisoned cs)) ∧
     (∀ ch v, p.kind = kACCF ∨ p.kind = kACCI → wholly s p → u.xlatRange k (e.base + p.off) (4 * p.elems) .write false false = (.ok [ch], v) →
       ch.off = 0 → ch.len = 4 * p.elems →
       let c := (now v [ch]).cleanChunks [ch]
       let x := fun (i : Nat) => leNat (c.l2Bytes (ch.pa + 4 * i) 4)
       let a := fun (i : Nat) => leNat ((p.payload.drop (4 * i)).take 4)
       let sum := fun (i : Nat) => if p.kind = kACCI then (x i + a i) % 2 ^ 32 else fF32.round .rne false (exAdd .rne (fF32.decode (x i)) (fF32.decode (a i)))
       let special := p.kind = kACCF ∧ ∃ i, i < p.elems ∧ ∃ q ∈ [x i, a i, sum i], q / 2 ^ 23 % 256 = 255
       ∃ (t q : State) (st : BitVec 32), exec .accPacket s = .next t ∧ t = (q.windowStat k p.win st 0).doneTo p (c.chunksPoisoned [ch]) ∧ answered t p kDONE (fun _ => True) ∧
         (special → st = p.arg ||| 1) ∧ (¬special → st = p.arg) ∧
         (∀ i, i < p.elems → leNat ((q.cluster k).l2Bytes (ch.pa + 4 * i) 4) = sum i) ∧
         (∀ b, b < ch.pa ∨ ch.pa + 4 * p.elems ≤ b → (q.cluster k).l2Bytes b 1 = c.l2Bytes b 1)) ∧
     (∀ ch v i, let w := 8 * packetLength p
       let old := leNat (((now v [ch]).cleanChunks [ch]).l2Bytes ch.pa (packetLength p))
       let a := leNat (p.payload.take 8) % 2 ^ w
       let b := leNat ((p.payload.drop 8).take 8) % 2 ^ w
       (p.kind = kRAMO ∧ i = .ramoPacket ∨ p.kind = kRCAS ∧ i = .rcasPacket) → p.arg.toNat / 32 % 4 ≠ 1 →
       u.xlatRange k (e.base + p.off) (packetLength p) .write false false = (.ok [ch], v) → ch.off = 0 → ch.len = packetLength p →
       ∃ t : State, exec i s = .next t ∧ answered t p kATOMRET (fun r => r.payload = bytesLE 8 old) ∧
         (t.cluster k).l2Bytes ch.pa (packetLength p) = bytesLE (packetLength p)
           (if i = .rcasPacket then (if old = b then a else old) else ramoNew (p.arg.toNat / 2 ^ 8 % 16) w old a)) ∧
     (∀ ch v, let old := leNat (((now v [ch]).cleanChunks [ch]).l2Bytes ch.pa 8)
       let goal := leNat (((now v [ch]).cleanChunks [ch]).l2Bytes (ch.pa + 8) 4)
       p.kind = kARRIVE → u.xlatRange k (e.base + p.off) 16 .write false false = (.ok [ch], v) → ch.off = 0 → ch.len = 16 →
       ∃ t : State, exec .arrive s = .next t ∧ answered t p kATOMRET (fun r => r.payload = bytesLE 8 (old / 2 ^ 32)) ∧
         (t.cluster k).l2Bytes ch.pa 8 = bytesLE 8 (if goal ≤ old % 2 ^ 32 + 1 then (old / 2 ^ 32 + 1) % 2 ^ 32 * 2 ^ 32 else old / 2 ^ 32 * 2 ^ 32 + (old % 2 ^ 32 + 1) % 2 ^ 32)) ∧
     (p.kind = kMARKER → (p.arg.setWidth 8 : BitVec 8) = e.fgen → ∃ t : State, exec .marker s = .next t ∧ answered t p kDONE (fun _ => True) ∧
       (t.cluster k).selOf p.win = some { e with marks := e.marks ++ [(p.sdev, p.scl)] }) ∧
     (p.kind = kCOMPLETE → ∃ t : State, exec .complete s = .next t ∧ answered t p kDONE (fun _ => True) ∧
       (t.cluster k).selOf p.win = some { e with posted := e.posted.filter (· ≠ (p.sdev, p.scl)) }) ∧
     (p.kind = kLOCK → e.valid = true → e.holders = [] → e.waiters = [] → ∃ (t : State) (q : LockReq), exec .lock s = .next t ∧ answered t p kGRANT (fun _ => True) ∧
       (t.cluster k).selOf p.win = some { e with holders := [q] } ∧ q.dev = p.sdev ∧ q.cl = p.scl ∧ q.ctx = p.rtag / 256 ∧ q.ex = p.acq) ∧
     (∀ q, p.kind = kUNLOCK → e.holders = [q] → e.waiters = [] → q.dev = p.sdev → q.cl = p.scl → q.ctx = p.rtag / 256 →
       ∃ t : State, exec .unlock s = .next t ∧ answered t p kDONE (fun _ => True) ∧ (t.cluster k).selOf p.win = some { e with holders := [] }))) ∧
  ((∀ (s : State) (k : Nat) (p : Packet) (code : BitVec 16), inboxAt s k p → p.rpl = false → p.adm = false → p.ordered = false →
     (s.cluster k).verdict p = .refuse code → ∃ (t : State) (v : State), exec .packetAdmit s = .next t ∧
       ((∀ e, (s.cluster k).selOf p.win = some e → e.desc.getLsbD 134 = false) → v = withoutPacket s k) ∧
       (∀ e, (s.cluster k).selOf p.win = some e → e.desc.getLsbD 134 = true → v = (withoutPacket s k).windowStat k p.win 0 1) ∧
       clusterRecord v t k 0 2 4 code (BitVec.ofNat 64 p.off) (BitVec.ofNat 64 (p.win % 2 ^ 12 + 2 ^ 12 * (p.sdev % 2 ^ 11) + 2 ^ 23 * (p.scl % 2 ^ 6))) ∧
       (t.cluster k).mem = (v.cluster k).mem ∧ (t.cluster k).dirty = (v.cluster k).dirty ∧ (t.cluster k).sel = (s.cluster k).sel ∧
       (p.kind = kMARKER ∨ p.kind = kCOMPLETE → ∀ j, (t.cluster j).inbox = (v.cluster j).inbox)) ∧
   (∀ (s u : State) (k w rej : Nat) (stat : BitVec 32) (ch : Chunk), s.xlatRange k (countsAt (s.cluster k) w) 8 .write false false = (.ok [ch], u) →
     ch.off = 0 → ch.len = 8 →
     let old := leNat (((u.cluster k).writeBack (linesOf ch.pa 8)).l2Bytes ch.pa 8)
     leNat (((s.windowStat k w stat rej).cluster k).l2Bytes ch.pa 8) = (old % 2 ^ 32 ||| stat.toNat) + 2 ^ 32 * min (old / 2 ^ 32 + rej) (2 ^ 32 - 1)) ∧
   (∀ (s : State) (k : Nat) (p : Packet) (e : Sel), performable s k p → (s.cluster k).selOf p.win = some e →
     let tag : BitVec 8 := p.arg.setWidth 8
     let mine := fun (q : LockReq) => q.dev = p.sdev ∧ q.cl = p.scl ∧ q.ctx = p.rtag / 256
     (p.kind = kMARKER → tag = e.fgen + 1 → ∃ t : State, exec .marker s = .next t ∧ answered t p kDONE (fun _ => True) ∧
       (t.cluster k).selOf p.win = some { e with nextMarks := e.nextMarks ++ [(p.sdev, p.scl)] }) ∧
     (p.kind = kMARKER → tag ≠ e.fgen → tag ≠ e.fgen + 1 → ∃ t : State, exec .marker s = .next t ∧ (t.cluster k).sel = (s.cluster k).sel ∧
       clusterRecord s t k 0 2 4 cWINDOW (BitVec.ofNat 64 p.off) (BitVec.ofNat 64 (p.win % 2 ^ 12 + 2 ^ 12 * (p.sdev % 2 ^ 11) + 2 ^ 23 * (p.scl % 2 ^ 6)))) ∧
     (∀ h, p.kind = kLOCK → e.desc.getLsbD 134 = true → e.holders = [h] → e.waiters = [] → (h.ex = true ∨ p.acq = true →
         ∃ (t : State) (q : LockReq), exec .lock s = .next t ∧ (t.cluster k).selOf p.win = some { e with waiters := [q] } ∧ mine q ∧ q.ex = p.acq ∧ q.reply = p) ∧
       (h.ex = false → p.acq = false → ∃ (t : State) (q : LockReq), exec .lock s = .next t ∧ answered t p kGRANT (fun _ => True) ∧
         (t.cluster k).selOf p.win = some { e with holders := [h, q] } ∧ mine q)) ∧
     (∀ h q, p.kind = kUNLOCK → e.holders = [h] → mine h → e.waiters = [q] → q.reply.sdev = s.deviceNo →
       ∃ t : State, exec .unlock s = .next t ∧ answered t p kDONE (fun _ => True) ∧ answered t q.reply kGRANT (fun _ => True) ∧
         (t.cluster k).selOf p.win = some { e with holders := [q], waiters := [] })) ∧
   (∀ (s v : State) (k : Nat) (p : Packet) (ch : Chunk), performable s k p → p.kind = kJOIN → (s.cluster k).pushes = [] →
     (withoutPacket s k).xlatRange k p.off 64 .write false false = (.ok [ch], v) →
     leNat (((v.cluster k).writeBack (linesOf ch.pa 64)).l2Bytes (ch.pa + 16) 4) = 0 →
     ∃ t : State, exec .joinPacket s = .next t ∧ (t.cluster k).pushes = [] ∧ answered t p kDONE (fun _ => True) ∧ clusterRecord v t k 0 4 6 0 (BitVec.ofNat 64 p.off) 0) ∧
   (∀ (s : State) (k : Nat) (q : Join), s.arg.k = k → (s.cluster k).joinDue = some q →
     leNat (((s.cluster k).writeBack (linesOf q.pa 64)).l2Bytes (q.pa + 16) 4) = 0 →
     ∃ t : State, exec .joinDecrement s = .next t ∧ (t.cluster k).pushes = (s.cluster k).pushes ∧ clusterRecord s t k q.ctx 4 6 0 q.va 0) ∧
   (∀ (s v z : State) (k : Nat) (p : Packet) (e : Sel) (cs : List Chunk), performable s k p → (s.cluster k).selOf p.win = some e → e.fence = none →
     let w := v.modCluster k (fun c => c.countChunks 2 cs)
     (p.kind = kGETREQ → wholly s p → p.acq = true → (withoutPacket s k).xlatRange k (e.base + p.off) (4 * p.elems) .read false false = (.ok cs, v) →
       w.xlatRange k (e.base + p.off) (4 * p.elems) .read false false = (.ok cs, z) →
       ∃ t : State, exec .getreqPacket s = .next t ∧ answered t p kGETDATA (fun r => r.payload = (acquired (w.cluster k) cs).readChunksL2 cs)) ∧
     (∀ ch i, (p.kind = kRAMO ∧ i = .ramoPacket ∨ p.kind = kRCAS ∧ i = .rcasPacket) → p.arg.toNat / 2 ^ 5 % 4 = 1 →
       (withoutPacket s k).xlatRange k (e.base + p.off) (packetLength p) .write false false = (.ok cs, v) → cs = [ch] → ch.off = 0 → ch.len = packetLength p →
       let old := leNat (((acquired (w.cluster k) cs).writeBack (linesOf ch.pa ch.len)).l2Bytes ch.pa ch.len)
       ∃ t : State, exec i s = .next t ∧ answered t p kATOMRET (fun r => r.payload = bytesLE 8 old) ∧ ∀ r ∈ (t.cluster k).relSets, (linesOf ch.pa ch.len).contains r.tag = false)) ∧
   (∀ (s : State) (k : Nat) (m : Cmd) (r : Remote) (dev cl : Nat) (wid : BitVec 12) (sc : Nat), aboutCmd s k m → m.remote = some r → m.delivered = none →
     m.eng = .network → m.started = false → carriesRelease m.instr = some sc → r.peer = some (dev, cl, wid) →
     let held := (∃ h ∈ (s.cluster k).heldWrites, h.before m = true) ∨ (s.cluster k).joinsBefore m = true
     let earlier := ∃ q ∈ (s.cluster k).cmds, q.ctx = m.ctx ∧ q.id < m.id ∧ q.isPoll = false ∧
       ∃ g p, q.remote = some g ∧ g.done = false ∧ g.peer = some p ∧ scopeCovers sc (s.cluster k).device.toNat k (dev, cl) (p.1, p.2.1)
     (held ∨ earlier → exec .packetSend s = .next s) ∧
     (3 ≤ sc → s.maySend k m r = true → dev = s.deviceNo → ((s.cluster k).freePlace m.ctx).isSome = true → orderedOp m.instr = false →
       SMap.sorted 0 (s.cluster k).dirty = true → ∃ t : State, exec .packetSend s = .next t ∧ (t.cluster k).dirty = [] ∧ (t.cluster k).relSets = [] ∧ showsBytes t k (s.cluster k).byte)))

/-- The origin of a remote operation (17 R355, R358-R362, 20 R416-R418): its next packet leaves for its target and takes a request place; the last reply finishes it, a DONE or GETDATA, with its bytes in memory, or an ATOMRET with its value in the register that waits for it; a FAIL ends its Handle in ERROR and poisons that register; a GRANT gives the lock; an ENACK has its request sent again 256 clk later. -/
def Obligations.RemoteOperationsProgress : Prop :=
  (∀ (s : State) (k : Nat) (m : Cmd) (r : Remote) (dev cl : Nat) (wid : BitVec 12) (n : Nat) (i : Instr), aboutCmd s k m → m.remote = some r → m.delivered = none →
    (i = .packetSend ∧ m.isPoll = false ∧ gatedArrival m.instr = false ∨ i = .gbarDeferredArrival ∧ gatedArrival m.instr = true ∨
      i = .gbarWaitPoll ∧ m.isPoll = true ∧ m.phase = 0) →
    s.maySend k m r = true → r.peer = some (dev, cl, wid) → dev = s.deviceNo → (s.cluster k).freePlace m.ctx = some n → orderedOp m.instr = false →
    (m.isPoll = true → (∃ g sc a b, m.instr = .gbarWait g sc a b) ∨ ∃ g sc a h, m.instr = .gbar g sc a h) →
    ∃ (t : State) (p : Packet), exec i s = .next t ∧ p ∈ (t.cluster cl).inbox ∧ p.kind = packetKind m ∧ p.win = r.win ∧ p.wid = wid ∧ p.scl = k ∧ p.rtag = 256 * m.ctx + n % 256 ∧
      SMap.find (t.cluster k).places n = some { cmd := m.id, pkt := p, retry := none }) ∧
  (∀ (s : State) (k : Nat) (p : Packet) (pl : Place) (m : Cmd) (r : Remote), lastReply s k p pl m r →
    let x := s.context k m.ctx
    let handleEnds := fun (t : State) (st : HState) =>
      r.hnd ≠ 0 → (x.hnd r.hnd).left = 1 → (x.hnd r.hnd).errs = false → ((t.context k m.ctx).hnd r.hnd).st = st
    (p.kind = kDONE → p.pois = false → ∃ t : State, exec .done s = .next t ∧ finished t k m ∧ handleEnds t .remoteDone ∧ SMap.find (t.cluster k).places p.rtag = none) ∧
    (∀ a n, p.kind = kGETDATA → p.pois = false → localPieces m.data r.localVa.toNat ((pl.pkt.off + 2 ^ 40 - r.off) % 2 ^ 40) (4 * pl.pkt.elems) = [(a, n)] →
      n = 4 * pl.pkt.elems → ∃ t : State, exec .getdata s = .next t ∧ finished t k m ∧ handleEnds t .remoteDone ∧ (t.cluster k).l2Bytes a n = (padTo n p.payload).take n) ∧
    (∀ d, p.kind = kATOMRET → p.pois = false → r.dest = some d → d ≠ 0 → ∃ t : State, exec .atomret s = .next t ∧ finished t k m ∧ handleEnds t .remoteDone ∧
      (t.context k m.ctx).sreg d = BitVec.ofNat 64 (leNat (p.payload.take 8)) ∧ SMap.find (t.context k m.ctx).sWait d.toNat = none) ∧
    (p.kind = kFAIL → ∃ t : State, exec .fail s = .next t ∧ finished t k m ∧ handleEnds t .error ∧
      ∀ d, r.dest = some d → ∃ o, SMap.find (t.context k m.ctx).sBad d.toNat = some o ∧ o.pc = m.pc ∧ o.handle = r.hnd)) ∧
  (∀ (s : State) (k : Nat) (p : Packet) (pl : Place) (m : Cmd) (e : EF) (w : BitVec 12) (a : SReg) (ex : Bool), inboxAt s k p → p.kind = kGRANT →
    SMap.find (s.cluster k).places p.rtag = some pl → (s.cluster k).cmd pl.cmd = some m → m.instr = .wlock e w a ex →
    ∃ t : State, exec .grant s = .next t ∧ finished t k m ∧ (t.context k m.ctx).locks = (s.context k m.ctx).locks ++ [(w.toNat, (m.regs.headD 0).toNat % 4096)]) ∧
  (∀ (s : State) (k : Nat) (p : Packet) (pl : Place), inboxAt s k p → p.kind = kENACK → SMap.find (s.cluster k).places p.rtag = some pl → pl.pkt.ordered = false →
    ∃ t : State, exec .enack s = .next t ∧ SMap.find (t.cluster k).places p.rtag = some { pl with retry := some ((s.cluster k).clk + 256) }) ∧
  (∀ (s : State) (k : Nat) (pl : Place) (n : Nat), s.arg.k = k → SMap.find (s.cluster k).places s.arg.i = some pl → pl.retry = some n → n ≤ (s.cluster k).clk →
    pl.pkt.ordered = false → pl.pkt.ddev = s.deviceNo → ∃ t : State, exec .enackResend s = .next t ∧ pl.pkt ∈ (t.cluster pl.pkt.dcl).inbox ∧
      SMap.find (t.cluster k).places s.arg.i = some { pl with retry := none })

/-- A result that has come due is written (03 R60, R74, 06 R125, R126, R137, 07 R162, 08 R175, 21 R425): an s- or a-register, a predicate, the enabled lanes of a predicate pair or of a vector, or the entry of a Port claimed for it, with its poison mark; s0, p0 and p1 take nothing; nothing else of the Context changes. That a register which takes a poisoned result holds the data as read beside its mark is the model's choice (assumption 26). -/
def Obligations.ResultsLand : Prop :=
  ∀ (s : State) (k c : Nat) (f : Flight), s.arg.k = k → (s.cluster k).dueFlight = some (c, f) →
    ∃ t : State, exec (landingOf f) s = .next t ∧ onlyCluster s t k ∧
      (let x := s.context k c; let y := t.context k c
       y.flights = x.flights.erase f ∧ y.pc = x.pc ∧ y.st = x.st ∧ y.toks = x.toks ∧ y.hnds = x.hnds ∧ (∀ j, j ≠ c → t.context k j = s.context k j) ∧
       (t.cluster k).mem = (s.cluster k).mem ∧ (t.cluster k).clk = (s.cluster k).clk ∧
       match f.dest with
       | .s r => (∀ q, y.sreg q = if q = r ∧ r ≠ 0 then f.data.setWidth 64 else x.sreg q) ∧ (r ≠ 0 → SMap.find y.sBad r.toNat = f.poison) ∧
           y.a = x.a ∧ y.p = x.p ∧ y.v = x.v
       | .a r => (∀ q, y.areg q = if q = r then f.data.setWidth 64 else x.areg q) ∧ SMap.find y.aBad r.toNat = f.poison ∧ y.s = x.s ∧ y.p = x.p ∧ y.v = x.v
       | .p r => (∀ q, y.preg q = if q = r ∧ 2 ≤ r.toNat then f.data.setWidth 256 else x.preg q) ∧ (2 ≤ r.toNat → SMap.find y.pBad r.toNat = f.poison) ∧
           y.s = x.s ∧ y.a = x.a ∧ y.v = x.v
       | .pair e m => (evenPair e = true → ∀ q l, l < 256 → (y.preg q).getLsbD l =
             if m.getLsbD l = true ∧ q = e then f.data.getLsbD l else if m.getLsbD l = true ∧ q = e + 1 then !f.data.getLsbD l else (x.preg q).getLsbD l) ∧
           y.s = x.s ∧ y.a = x.a ∧ y.v = x.v
       | .vec n m => (∀ j l, l < 256 → (y.vec j).extractLsb' (32 * l) 32 =
             if j = n ∧ m.getLsbD l = true then f.data.extractLsb' (32 * l) 32 else (x.vec j).extractLsb' (32 * l) 32) ∧ y.s = x.s ∧ y.a = x.a ∧ y.p = x.p
       | .port n d => (y.port n).entries = (x.port n).entries.map (fun q =>
             if q.id = d then { q with ready := true, poison := f.poison.isSome, data := f.data } else q) ∧
           (∀ j, j ≠ n → y.port j = x.port j) ∧ y.s = x.s ∧ y.a = x.a ∧ y.p = x.p ∧ y.v = x.v)

/-- What stands before a core's next issue: a fetch that fails traps with ALIGN, PAGE or PERM (03 R57, R58), before it a trap that firmware delivered, and before both an error that an engine delivered, are taken (05 R104, 11 R256, 21 R427), a BLOCKED Context whose cause is gone becomes READY (05 R104, 08 R199), the READY Context with the earliest release time is switched in (05 R105), and an idle clk in which no Hem round aborts counts one clk (15 R324). That ADDR of a fetch trap is its first failing address is the model's choice (assumption 29), and so are the test of a release by an attempt without effect (51), that a delivered error stands before a trap that firmware delivered (42), and when the overhead of a switch-in is paid (66). Units of the core (07 R156, 08 R185, R186, 09 R236): a scale-latch write that is due takes place if its Context is in RUN; a tile whose count has passed becomes 32 entries of c13; the AB read path gives a clk to one generator, which claims an entry for its next row. That a generator is no longer active once its last row is requested is the model's choice (assumption 95). -/
def Obligations.CoreAndUnitEvents : Prop :=
  (∀ (s : State) (k : Nat), s.arg.k = k →
     (∀ c, (s.cluster k).runCtx = some c →
       ((s.context k c).trapPending = none → ((s.context k c).errors = [] ∨ (s.context k c).h = true) →
        ((s.context k c).pc.toNat % 4 ≠ 0 → exec .fetchFault s = .next (s.enterTrap k c
         { Trap.slotTrap cALIGN 7 (s.context k c).iter with src := 1, addr := (s.context k c).pc } false)) ∧
        (∀ va u, s.fetch k c = (.error (.page va), u) → exec .fetchFault s = .next (u.enterTrap k c
         { Trap.slotTrap cPAGE 7 (s.context k c).iter with src := 1, addr := BitVec.ofNat 64 va } false)) ∧
        (∀ va u, s.fetch k c = (.error (.perm va), u) → exec .fetchFault s = .next (u.enterTrap k c
         { Trap.slotTrap cPERM 7 (s.context k c).iter with src := 1, addr := BitVec.ofNat 64 va } false))) ∧
       (∀ tr, (s.context k c).trapPending = some tr → ((s.context k c).errors = [] ∨ (s.context k c).h = true) → exec .trapEntry s =
         .next ((s.modContext k c (fun x => { x with trapPending := none })).enterTrap k c { tr with iter := (s.context k c).iter } false)) ∧
       (∀ tr rest, (s.context k c).errors = tr :: rest → (s.context k c).h = false → exec .errorDelivery s =
         .next ((s.modContext k c (fun x => { x with errors := rest })).enterTrap k c { tr with iter := (s.context k c).iter } false))) ∧
     (∀ c i, s.arg.c = c → (s.context k c).st = .blocked → i = .blockRelease ∨ (i = .waitmReread ∧ (s.context k c).cause = some .memory) →
       (s.stillBlocks k c = true → exec i s = .next s) ∧
       (s.stillBlocks k c = false → ∃ t : State, exec i s = .next t ∧ onlyCluster s t k ∧ (t.context k c).st = .ready ∧ (t.context k c).release = (s.cluster k).clk ∧
         sameRegs (s.context k c) (t.context k c))) ∧
     (∀ n, (s.cluster k).runCtx = none → leastBy (s.cluster k) (fun x => decide (x.st = .ready)) (·.release) n →
       ∃ t : State, exec .switchIn s = .next t ∧ (t.context k n).st = .run ∧ (t.context k n).cause = none ∧ sameRegs (s.context k n) (t.context k n) ∧
         (t.cluster k).gap = 0 ∧ (t.cluster k).latch = 0x7F7F7F7F7F7F7F7F ∧ (s.context k n).notBefore ≤ (t.cluster k).clk ∧
         (s.cluster k).clk + (s.cluster k).gap ≤ (t.cluster k).clk) ∧
     (s.hemStops = false → k < 48 → ∃ t : State, exec .idleClk s = .next t ∧ onlyCluster s t k ∧ (t.cluster k).clk = (s.cluster k).clk + 1 ∧ (t.cluster k).ic = (s.cluster k).ic ∧
       ∀ c, c < 4 → sameRegs (s.context k c) (t.context k c) ∧ (t.context k c).st = (s.context k c).st)) ∧
  (∀ (s : State) (k : Nat), s.arg.k = k →
     (∀ c v m rest, (s.cluster k).latchFlights = (0, c, v, m) :: rest →
       ∃ t : State, exec .scaleLatchWrite s = .next t ∧ (t.cluster k).latchFlights = rest ∧
         (t.cluster k).latch = if (s.context k c).st = .run then v else (s.cluster k).latch) ∧
     (∀ q rest, s.arg.c < 4 → (s.context k s.arg.c).pleat.tiles = q :: rest → q.remain = 0 →
       ∃ t : State, exec .pleatReturn s = .next t ∧ (t.context k s.arg.c).pleat.tiles = rest ∧
         ((t.context k s.arg.c).port 13).entries.length = ((s.context k s.arg.c).port 13).entries.length + q.rows.length ∧
         (((t.context k s.arg.c).port 13).entries.drop ((s.context k s.arg.c).port 13).entries.length).map (·.data) = q.rows) ∧
     (∀ c n, (s.cluster k).agClk < (s.cluster k).clk → (s.cluster k).agBusy ≠ some (s.cluster k).agClk →
       (s.cluster k).requesters (s.cluster k).agClk = [16 * c + n] → n < 16 →
       ∃ (t : State) (f : Flight), exec .generatorRowRequest s = .next t ∧ (t.cluster k).agClk = (s.cluster k).agClk + 1 ∧ (t.cluster k).agLast = 16 * c + n ∧
         (let p := (s.context k c).port n; let q := (t.context k c).port n
          q.entries.length = p.entries.length + 1 ∧ q.gen.asked = p.gen.asked + 1 ∧ q.gen.active = decide (p.gen.asked + 1 < p.gen.total) ∧
          (t.context k c).flights = (s.context k c).flights ++ [f] ∧ f.dest = .port n p.nextId ∧
          f.data = BitVec.ofNat 8192 (leNat ((s.cluster k).bufBytes .ab (p.gen.row p.gen.asked) 1024)))))

/-- Firmware's answers and the die controller (05 R104, 19 R399, R400, 16 R334, 21 R428, R430): a DOUBLE Context is freed with its registers; a replayed fault makes its Context READY, a delivered one leaves it a trap; an access notice leaves its list; an evicted line leaves the L1D and memory shows the same bytes; a plain store on its way that is due enters the L1D (assumption 88); a corrected error adds one to its counter, an uncorrectable one poisons what it struck: sectors in HBM that the L2 slice does not hold, a 64-byte segment of a tile, a vector; a place that its store does not have (01 R18, R30, R31) strikes nothing. That an error is recorded when it strikes, that lines of the L2 slice are spared an error in HBM, and the marks of tiles and vectors, are the model's reading (assumption 40). -/
def Obligations.FirmwareAndErrorEvents : Prop :=
  ∀ (s : State) (k : Nat), s.arg.k = k →
    (s.arg.c < 4 → (s.context k s.arg.c).st = .double → ∃ t : State, exec .freeDoubleContext s = .next t ∧ (t.context k s.arg.c).st = .free ∧ (t.context k s.arg.c).live = false ∧
      sameRegs (s.context k s.arg.c) (t.context k s.arg.c)) ∧
    (∀ q c, (s.cluster k).faults.find? (fun f => f.id == some (s.arg.w.setWidth 16)) = some q → q.waiter = .ctx c → (s.context k c).st = .fault →
      (∃ t : State, exec .frctlReplay s = .next t ∧ (t.context k c).st = .ready ∧ (t.context k c).trapPending = (s.context k c).trapPending ∧
        sameRegs (s.context k c) (t.context k c)) ∧
      (∃ (t : State) (tr : Trap), exec .frctlDeliver s = .next t ∧ (t.context k c).st = .ready ∧ (t.context k c).trapPending = some tr ∧ tr.addr = q.va ∧
        tr.code = (if s.arg.v.toNat % 2 ^ 16 < 20 then s.arg.v.setWidth 16 else cILLEGAL) ∧ sameRegs (s.context k c) (t.context k c))) ∧
    (∀ q m, (s.cluster k).faults.find? (fun f => f.id == some (s.arg.w.setWidth 16)) = some q → q.waiter = .cmd m.id → m ∈ (s.cluster k).cmds →
      (∃ t : State, exec .frctlReplay s = .next t ∧ { m with fault := false, delivered := none } ∈ (t.cluster k).cmds) ∧
      (∃ t : State, exec .frctlDeliver s = .next t ∧ { m with fault := false, delivered := some (s.arg.v.setWidth 16) } ∈ (t.cluster k).cmds)) ∧
    (∀ q n m, (s.cluster k).faults.find? (fun f => f.id == some (s.arg.w.setWidth 16)) = some q → q.waiter = .chan n →
      ((s.cluster k).chan n).st = .firmware → ((s.cluster k).chan n).cmd = some m.id → m ∈ (s.cluster k).cmds →
      (∃ t : State, exec .frctlReplay s = .next t ∧ ((t.cluster k).chan n).st = .walk ∧ { m with delivered := none } ∈ (t.cluster k).cmds) ∧
      (∃ t : State, exec .frctlDeliver s = .next t ∧ ((t.cluster k).chan n).st = .walk ∧ { m with delivered := some (s.arg.v.setWidth 16) } ∈ (t.cluster k).cmds)) ∧
    (∀ r cl rest, (s.cluster k).acNotices = (r, cl) :: rest → ∃ t : State, exec .accessNotice s = .next t ∧ (t.cluster k).acNotices = rest) ∧
    (s.arg.flag = false → SMap.sorted 0 (s.cluster k).dirty = true → ∃ t : State, exec .releaseSetWriteback s = .next t ∧ showsBytes t k (s.cluster k).byte ∧
      (∀ p ∈ (t.cluster k).dirty, p.1 / 64 ≠ s.arg.i) ∧ (∀ r ∈ (t.cluster k).relSets, r.tag ≠ s.arg.i)) ∧
    (∀ h t0, s.arg.flag = true → (s.cluster k).heldWrites = [h] → h.late = some t0 → t0 ≤ (s.cluster k).clk → h.rmw = none → h.l2 = false →
      (s.cluster k).cmds = [] → SMap.sorted 0 (s.cluster k).dirty = true → ∃ t : State, exec .releaseSetWriteback s = .next t ∧ (t.cluster k).heldWrites = [] ∧
        showsBytes t k (fun a => match h.bytes.reverse.find? (fun q => q.1 == a) with | some q => q.2 | none => (s.cluster k).byte a)) ∧
    (s.arg.flag = false → k < 4 → s.arg.i < 15 → SMap.get 0 (s.die k).counts s.arg.i ≠ BitVec.allOnes 32 →
      ∃ t : State, exec .softError s = .next t ∧ SMap.get 0 (t.die k).counts s.arg.i = SMap.get 0 (s.die k).counts s.arg.i + 1) ∧
    (s.arg.flag = true → k < 48 → s.arg.i = 0 → s.arg.j < 2 ^ 34 → (SMap.find (s.cluster k).l2 (s.arg.j / 64)).isSome = false → (s.die (dieOf k)).wr - (s.die (dieOf k)).rd < 4096 →
      ∃ t : State, exec .softError s = .next t ∧ (t.cluster k).poisoned s.arg.j 1 = true ∧ (t.die (dieOf k)).wr = (s.die (dieOf k)).wr + 1) ∧
    (s.arg.flag = true → k < 48 → s.arg.i = 6 → s.arg.j < 2 ^ 23 → ∃ t : State, exec .softError s = .next t ∧
      (let x := (s.cluster k).tile (s.arg.j / 8192); let y := (t.cluster k).tile (s.arg.j / 8192); let g := s.arg.j % 8192 / 64
       y.marks.getLsbD g = true ∧ (∀ b, b < 65536 → b / 512 ≠ g → y.data.getLsbD b = x.data.getLsbD b) ∧ (s.arg.bytes = [] → y.data = x.data))) ∧
    (s.arg.flag = true → k < 48 → s.arg.i = 7 → s.arg.c < 4 → s.arg.j < 128 → ∃ t : State, exec .softError s = .next t ∧ SMap.get false (t.context k s.arg.c).vBad s.arg.j = true ∧
      (s.arg.bytes = [] → ∀ n, (t.context k s.arg.c).vec n = (s.context k s.arg.c).vec n)) ∧
    (s.arg.flag = true → (s.arg.i ≤ 3 ∨ s.arg.i = 9 → 2 ^ 34 ≤ s.arg.j) → (s.arg.i = 4 ∨ s.arg.i = 5 → 2 ^ 24 ≤ s.arg.j) → (s.arg.i = 6 → 2 ^ 23 ≤ s.arg.j) →
      (s.arg.i = 7 → 4 ≤ s.arg.c ∨ 128 ≤ s.arg.j) → (s.arg.i = 8 → 4 ≤ s.arg.c ∨ 1024 ≤ s.arg.j) → s.arg.i < 10 → exec .softError s = .next s)

/-- The Queue (05 R106, R115, 12 R277-R285): in each clk a refill moves one record from the ring to chip; then a pop starts the head record of the highest level on the FREE Context that has been free longest; ageing moves a head record that has waited its level's time one level up, its OPRIO kept; and a push appends the oldest waiting record to its level. A continuation that is accepted ends its task; a local join decrements its record, and at zero pushes it. An ageing time in µs passes at whatever steps the clock has stood (22 R438). That refills come before the other parts of a clk, and a continuation before its other pushes, is the model's reading (assumption 36); so are h = 0 from the start of a task on (assumption 27) and that a task knows whether its record was a leaf's (assumption 84). -/
def Obligations.QueueEvents : Prop :=
  ∀ (s : State) (k : Nat), s.arg.k = k →
    (∀ c j r rest, (s.cluster k).queueAt 1 = true →
      leastBy (s.cluster k) (fun x => decide (x.st = .free) && !x.parkReq && decide (x.freeAt ≤ (s.cluster k).qclk)) (·.freeAt) c → j < 8 →
      ((s.cluster k).level j).chip = r :: rest → (∀ n, j < n → n < 8 → ((s.cluster k).level n).size = 0) →
      ((∀ n, n < 4 → n ≠ c → (s.context k n).st ≠ .free) ∨
        (rest = [] ∧ ((s.cluster k).level j).len = 0 ∧ ∀ n, n < j → ((s.cluster k).level n).size = 0)) →
      ∃ t : State, exec .queuePop s = .next t ∧ onlyCluster s t k ∧ ((t.cluster k).level j).chip = rest ∧
        (let y := t.context k c
         y.st = .ready ∧ y.live = true ∧ y.h = false ∧ y.pc = recCode r ∧ y.areg 15 = recFrame r ∧ (∀ q, q ≠ 15 → y.areg q = 0) ∧ (∀ q, y.sreg q = 0) ∧
         (∀ q, 2 ≤ q.toNat → y.preg q = 0) ∧ y.v = (s.context k c).v ∧ y.toks = [] ∧ y.hnds = [] ∧ y.loops = [] ∧ y.mode = false ∧ y.rot = 0 ∧
         y.notBefore = (s.cluster k).qclk + 10 ∧ y.leaf = ((s.cluster k).level j).leafs.headD false ∧ y.tail = recTail r ∧ y.lvl = (List.range 8).map (recLvl r))) ∧
    (∀ r rest j, j < 7 → ((s.cluster k).level j).chip = r :: rest → ((s.cluster k).level j).len = 0 → (∀ n, n ≠ j → (s.cluster k).level n = QLevel.empty) →
      (s.cluster k).ageTime j ≠ 0 → recStamp r ≤ (s.cluster k).qclk →
      (s.cluster k).ageTime j * 126000 ≤ clockTime (match s.pstep.toNat with | 0 => 60 | 1 => 70 | 2 => 84 | _ => 105) (s.cluster k).steps (recStamp r) (s.cluster k).qclk →
      (s.cluster k).queueAt 2 = true →
      (s.cluster k).reserved (j + 1) = 0 →
      ∃ (t : State) (q : BitVec 512), exec .queueAgeing s = .next t ∧ ((t.cluster k).level (j + 1)).chip = [q] ∧ recPrio q = j + 1 ∧ recCode q = recCode r ∧ recOprio q = recOprio r) ∧
    (∀ p t0, (s.cluster k).queueAt 3 = true → (s.cluster k).pushes = [p] → (p.src = .spawn ∨ p.src = .join) → p.since = some t0 → t0 ≤ (s.cluster k).qclk → ((s.cluster k).level (recPrio p.rcd)).len = 0 →
      ((s.cluster k).level (recPrio p.rcd)).chip.length < 64 →
      ∃ (t : State) (q : BitVec 512), exec .queuePush s = .next t ∧ (t.cluster k).pushes = [] ∧
        ((t.cluster k).level (recPrio p.rcd)).chip = ((s.cluster k).level (recPrio p.rcd)).chip ++ [q] ∧ recPrio q = recPrio p.rcd ∧
        recOprio q = recPrio p.rcd ∧ recCode q = recCode p.rcd ∧ recStamp q = (s.cluster k).qclk % 2 ^ 64 ∧ (t.cluster k).qphase = 0 ∧ (s.cluster k).qclk < (t.cluster k).qclk) ∧
    (∀ j bs b u, j < 8 → (∀ n, n ≠ j → (s.cluster k).level n = QLevel.empty) → ((s.cluster k).level j).len ≠ 0 → ((s.cluster k).level j).chip.length < 64 →
      (s.cluster k).faults = [] → (s.cluster k).queueAt 0 = true → s.engineRead k ((s.cluster k).ringSlot j ((s.cluster k).level j).first) 64 4 = (.ok (bs, b), u) →
      ∃ t : State, exec .spillRingRefill s = .next t ∧ ((t.cluster k).level j).chip = ((s.cluster k).level j).chip ++ [recOfBytes bs] ∧
        ((t.cluster k).level j).len = ((s.cluster k).level j).len - 1) ∧
    (∀ r, (s.cluster k).queueAt 3 = true → (s.context k s.arg.c).freeAt ≤ (s.cluster k).qclk → (s.context k s.arg.c).st = .yield → (s.context k s.arg.c).cont = some r → (s.cluster k).reserved (recPrio r) = 0 →
      ((s.cluster k).level (recPrio r)).len = 0 → ((s.cluster k).level (recPrio r)).chip.length < 64 →
      ∃ (t : State) (q : BitVec 512), exec .continuationAccept s = .next t ∧ (t.context k s.arg.c).live = false ∧ (t.context k s.arg.c).cont = none ∧
        ((t.context k s.arg.c).st = .free ∨ (t.context k s.arg.c).st = .parked) ∧
        ((t.cluster k).level (recPrio r)).chip = ((s.cluster k).level (recPrio r)).chip ++ [q] ∧ recCode q = recCode r ∧ recFrame q = recFrame r) ∧
    (∀ q, (s.cluster k).joinDue = some q →
      let pa := q.pa
      let n := leNat (((s.cluster k).writeBack (linesOf pa 64)).l2Bytes (pa + 16) 4)
      ∃ t : State, exec .joinDecrement s = .next t ∧ (t.cluster k).joins = (s.cluster k).joins.erase q ∧
        (n ≠ 0 → leNat ((t.cluster k).l2Bytes (pa + 16) 4) = n - 1) ∧
        (n = 1 → ∃ p, (t.cluster k).pushes = (s.cluster k).pushes ++ [p] ∧ p.src = .join) ∧ (n ≠ 1 → (t.cluster k).pushes = (s.cluster k).pushes))

/-- Forwarding to a stack engine (18 R370-R374, R386): a stream's head that may be forwarded and whose descriptor is good, with its ranges NM-enabled, translated and writable where written, starts and keeps its descriptor, whether that was marked, and its pages; a bad descriptor, a range that is not NM-enabled, a read-only range and firmware's answer to a fault end it in their errors; a fence starts and finishes 16 clk later, and no sooner. That the pages are translated and the descriptor's mark is read at the forwarding is the model's choice (assumption 49), and so is that a command's parts are separate events (61). Commands of a stack engine (18 R377, R379, R381, R383, R385): a selection takes the active bank and its version at its first row, writes each row's winners with their weights and, while a winner's list has room, the row in its list, marked where the row, the table or the descriptor is; after its last row the counts, all in one write, the bank and the version, and it releases the bank. A bias command flips the banks, raises the version and leaves in the new active bank the values read, added to the old ones where it adds, with their marks. A lookup writes the pairs that it selects, unless they are given, and the weighted sums of their value rows, and after its last query the places beyond the table and their number. An addition adds rows to the rows of the table that their indexes name, one 32-byte sector after another, and ends with NF and RCNT. That one event is a row, a query or a number of sectors is the model's choice (assumption 61). Ranking (18 R379): of a list of keys, `k` winners at most, each once, in descending order, and every winner before every other index. -/
def Obligations.StackEngineEvents : Prop :=
  (∀ (s : State) (k : Nat) (m : Cmd), aboutCmd s k m →
     (m.eng = .stack → (s.cluster k).mayForward m = true →
       (∀ e, m.instr = .nmfence e → ∃ t : State, exec .nmForward s = .next t ∧ { m with started := true, notBefore := (s.cluster k).clk + 16 } ∈ (t.cluster k).cmds) ∧
       (isFence m.instr = false → ∀ code, m.delivered = some code → exec .nmForward s = .next (s.finish k m (nmError m (deliveredCode code) 4))) ∧
       (isFence m.instr = false → m.delivered = none → ∀ bs bad u₀, s.engineRead k (m.regs.headD 0).toNat 64 4 = (.ok (bs, bad), u₀) →
         let u := if bad then u₀.errUncorr k m.ctx 5 0 (u₀.paOf k (m.regs.headD 0).toNat) else u₀
         (nmJob m.instr (words8 bs) = none → exec .nmForward s = .next (u.finish k m (nmError m cNM 1))) ∧
         (∀ j l v, nmJob m.instr (words8 bs) = some j → State.nmXlat k (fun _ => .read) (j.ranges (m.regs.headD 0).toNat) u = (.ok l, v) →
           ((∃ p ∈ l, pteNM p.2.2.leaf = false) → exec .nmForward s = .next (v.finish k m (nmError m cNM 2))) ∧
           ((∀ p ∈ l, pteNM p.2.2.leaf = true) → (∃ p ∈ l, p.2.1 = true ∧ pteW p.2.2.leaf = false) → exec .nmForward s = .next (v.finish k m (nmError m cPERM 3))) ∧
           ((∀ p ∈ l, pteNM p.2.2.leaf = true ∧ (p.2.1 = true → pteW p.2.2.leaf = true)) → ∀ l' v',
             State.nmXlat k (fun wr => if wr then .write else .read) (j.ranges (m.regs.headD 0).toNat) v = (.ok l', v') → m ∈ (v'.cluster k).cmds →
             ∃ t : State, exec .nmForward s = .next t ∧ { m with started := true, data := words8 bs ++ pageWords l', bad := bad } ∈ (t.cluster k).cmds)))) ∧
     (∀ e, m.instr = .nmfence e → m.started = true →
       (m.notBefore ≤ (s.cluster k).clk → exec .nmfenceFinish s = .next (s.finish k m .normal)) ∧
       ((s.cluster k).clk < m.notBefore → exec .nmfenceFinish s = .next s))) ∧
  (∀ (s : State) (k : Nat) (m : Cmd) (job : NmJob), served s k m job →
     let g := s.engine (stackOf k)
     let ea := (m.regs.headD 0).toNat
     let holds := fun (t : State) (c : Cluster) => (t.cluster k).mem = c.mem ∧ (t.cluster k).poison = c.poison
     (∀ logit lstr e n rows capl sel cnt list nobias, job = .topk logit lstr e n rows capl sel cnt list nobias →
       (m.phase ≠ 0 → m.regs.length = e + 3 ∧ ∀ i, i < e → (m.regs.getD (3 + i) 0).toNat % 2 ^ 32 + 1 < 2 ^ 32) →
       let b := if m.phase = 0 then g.active else m.regs.getD 1 0 == 1
       let ver := if m.phase = 0 then g.version else (m.regs.getD 2 0).setWidth 32
       let count := fun (i : Nat) => if m.phase = 0 then 0 else (m.regs.getD (3 + i) 0).toNat
       let bad := ((s.cluster k).firstMark m (logit + m.pos * lstr) (4 * e)).isSome || (!nobias && (firstBad (g.bads b) e).isSome) || m.bad
       let ws := selectRow (elems32 ((s.cluster k).nmRead m (logit + m.pos * lstr) (4 * e)).1) (fun i => (SMap.get 0 (g.bank b) i).toNat) nobias n
       let v := ws.foldl (fun c p =>
         if count p.1 % 2 ^ 32 < capl then c.nmWrite m (list + 4 * capl * p.1 + 4 * (count p.1 % 2 ^ 32)) (bytesLE 4 m.pos) bad else c)
         ((s.cluster k).nmWrite m (sel + 8 * n * m.pos) ((ws.map (fun p => bytesLE 4 p.1 ++ bytesLE 4 p.2)).flatten) bad)
       let won := fun (i : Nat) => ws.any (fun p => p.1 == i)
       (m.pos + 1 < rows → ∃ (t : State) (q : Cmd), exec .nmtopkExec s = .next t ∧ holds t v ∧ q ∈ (t.cluster k).cmds ∧ q.id = m.id ∧ q.phase = 1 ∧ q.pos = m.pos + 1 ∧
         q.regs.getD 1 0 = BitVec.ofNat 64 (bnat b) ∧ q.regs.getD 2 0 = ver.setWidth 64 ∧
         (∀ i, i < e → ((q.regs.getD (3 + i) 0).toNat % 2 ^ 32 = (count i + bnat (won i)) % 2 ^ 32 ∧ ((q.regs.getD (3 + i) 0).getLsbD 32 = true ↔ (count i).testBit 32 = true ∨ (won i = true ∧ bad = true)))) ∧
         (t.engine (stackOf k)).readers b = g.readers b + (if m.phase = 0 then 1 else 0)) ∧
       (m.pos + 1 = rows → ∃ t : State, exec .nmtopkExec s = .next t ∧ finished t k m ∧
         (let word := fun (i : Nat) => bytesLE 4 ((count i + bnat (won i)) % 2 ^ 32)
          let marked := (List.range e).filter (fun i => (count i).testBit 32 || (won i && bad))
          let d := marked.foldl (fun c i => c.nmWrite m (cnt + 4 * i) (word i) true) (v.nmWrite m cnt (((List.range e).map word).flatten) false)
          holds t ((d.nmWrite m (ea + 0x38) [BitVec.ofNat 8 (bnat b)] false).nmWrite m (ea + 0x3C) (bytesLE 4 ver.toNat) false)) ∧
         (t.engine (stackOf k)).readers b = g.readers b - (if m.phase = 0 then 0 else 1))) ∧
     (∀ src e add, job = .bias src e add → ∃ t : State, exec .nmbiasCommit s = .next t ∧ finished t k m ∧
       (t.engine (stackOf k)).active = !g.active ∧ (t.engine (stackOf k)).version = g.version + 1 ∧ (t.engine (stackOf k)).bank g.active = g.bank g.active ∧
       holds t (((s.cluster k).nmWrite m (ea + 0x38) [BitVec.ofNat 8 (bnat (!g.active))] false).nmWrite m (ea + 0x3C) (bytesLE 4 (g.version + 1).toNat) false) ∧
       ∀ j, j < 4096 →
         let old := SMap.get 0 (g.bank g.active) j
         let v := (elems32 ((s.cluster k).nmRead m src (4 * e)).1).getD j 0
         SMap.get 0 ((t.engine (stackOf k)).bank (!g.active)) j =
           (if e ≤ j then old else if add then BitVec.ofNat 32 (add32 .rne old.toNat v) else BitVec.ofNat 32 v) ∧
         (SMap.get false ((t.engine (stackOf k)).bads (!g.active)) j = true ↔ if e ≤ j then SMap.get false (g.bads g.active) j = true
           else m.bad = true ∨ ((s.cluster k).nmRead m (src + 4 * j) 4).2 = true ∨ (add = true ∧ SMap.get false (g.bads g.active) j = true))) ∧
     (∀ qry key1 key2 val outv sel dh n c kw vd nq gath, job = .pk qry key1 key2 val outv sel dh n c kw vd nq gath →
       let cl := s.cluster k
       let q := m.pos
       let words := fun (va n : Nat) => elems32 (cl.nmRead m va n).1
       let pairs := if gath then (chunks 2 kw (words (sel + 8 * kw * q) (8 * kw))).map (fun p => (p.getD 0 0, p.getD 1 0))
         else lookupPairs ((words (qry + 8 * dh * q) (8 * dh)).take dh) ((words (qry + 8 * dh * q) (8 * dh)).drop dh)
           (chunks dh n (words key1 (4 * dh * n))) (chunks dh n (words key2 (4 * dh * n))) n c kw
       let marked := fun (va n : Nat) => (cl.firstMark m va n).isSome
       let bad := (if gath then marked (sel + 8 * kw * q) (8 * kw) else marked (qry + 8 * dh * q) (8 * dh) || marked key1 (4 * dh * n) || marked key2 (4 * dh * n)) || m.bad
       let used := pairs.filter (fun p => decide (p.1 < n * n) && decide (p.1 ≠ 0xFFFFFFFF))
       let past := fun (j : Nat) => match pairs[j]? with | some p => decide (p.1 ≠ 0xFFFFFFFF) && decide (n * n ≤ p.1) | none => false
       let v := (List.range (vd / 8)).foldl (fun d j => pkSector d m val (outv + 4 * vd * q) vd used bad j)
         (if gath then cl else cl.nmWrite m (sel + 8 * kw * q) ((pairs.map (fun p => bytesLE 4 p.1 ++ bytesLE 4 p.2)).flatten) bad)
       let places := (List.range kw).filter past
       let flags := places.foldl (fun a j => a ||| 2 ^ j) (m.regs.getD 1 0).toNat
       let number := min 65535 ((m.regs.getD 2 0).toNat + places.length)
       (q + 1 < nq → ∃ (t : State) (z : Cmd), exec .nmpkExec s = .next t ∧ holds t v ∧ z ∈ (t.cluster k).cmds ∧ z.id = m.id ∧ z.pos = q + 1 ∧
         z.regs.getD 1 0 = BitVec.ofNat 64 flags ∧ z.regs.getD 2 0 = BitVec.ofNat 64 number) ∧
       (q + 1 = nq → ∃ t : State, exec .nmpkExec s = .next t ∧ finished t k m ∧
         holds t (v.nmWrite m (ea + 0x38) (bytesLE 6 (flags + 2 ^ 32 * number)) ((gath && bad) || m.regs.getD 3 0 == 1)))) ∧
     (∀ src idx dst nrows nr vd, job = .add src idx dst nrows nr vd →
       let w := vd / 8
       let n := if s.arg.j = 0 ∨ nr * w ≤ m.pos + s.arg.j then nr * w - m.pos else s.arg.j
       let z := (List.range n).foldl (fun a i => addSector m src idx dst nrows w a (m.pos + i))
         { cl := s.cluster k, index := (m.regs.getD 3 0).toNat, indexBad := m.regs.getD 4 0 == 1, nf := m.regs.getD 1 0 == 1, rcnt := (m.regs.getD 2 0).toNat
           bad := m.regs.getD 5 0 == 1 || m.bad }
       (m.pos + n < nr * w → ∃ (t : State) (q : Cmd), exec .nmaddExec s = .next t ∧ holds t z.cl ∧ q ∈ (t.cluster k).cmds ∧ q.id = m.id ∧ q.phase = 1 ∧ q.pos = m.pos + n ∧
         q.regs.getD 3 0 = BitVec.ofNat 64 z.index) ∧
       (m.pos + n = nr * w → ∃ t : State, exec .nmaddExec s = .next t ∧ finished t k m ∧
         holds t ((z.cl.nmWrite m (ea + 0x38) [BitVec.ofNat 8 (bnat z.nf)] z.bad).nmWrite m (ea + 0x3C) (bytesLE 2 z.rcnt) z.bad)))) ∧
  (∀ (k : Nat) (l : List Ex),
     let r := topIndexes k (l.zipIdx.map (fun p => (p.2, p.1)))
     r.length = Nat.min k l.length ∧ r.Nodup ∧ (∀ i ∈ r, i < l.length) ∧ r.Pairwise (ranksBefore l) ∧
       ∀ i ∈ r, ∀ j, j < l.length → j ∉ r → ranksBefore l i j)

/-- Dispatch of experts (14 R305-R311): the command at the head of the Queue unit's queue reads its counts, then its table, writes the descriptors of the experts with rows (the state is then that of `State.writeDescriptors`) and adds its sums to the status entry, and then, in order and one in the push step of a clk, pushes a record for each expert with rows, going on once the Queue has taken it, and joins its parent for each without; a misaligned operand, a bad table and firmware's answer to a fault end it in error. That the parts are separate events, and a join takes a clk, is the model's choice (assumption 48). The status entry and the row counts of dispatch (14 R305, R308, R310): rows up to the capacity of the least bucket that holds them; the entry's totals grow by the command's sums. An expert's descriptor holds its number, bucket, rows, capacity, count and dropped rows (14 R309). -/
def Obligations.ExpertDispatch : Prop :=
  (∀ (s : State) (k : Nat) (m : Cmd) (g : Gdisp), aboutCmd s k m → m.gdisp = some g → (s.cluster k).queueHead m = true →
     let t := m.data.take 32
     let ns := (m.data.drop 32).map (·.toNat)
     (∀ code, m.delivered = some code → exec .gdispExec s =
       .next (s.finish k m (gdispError (deliveredCode code) 3 (if m.phase = 4 then m.pos else 0) (gdispAddr m g)))) ∧
     (m.delivered = none → m.started = false → (s.cluster k).mayStart m = false → exec .gdispExec s = .next s) ∧
     (m.delivered = none → m.started = false → (s.cluster k).mayStart m = true → ∀ a, gdispMisaligned g = some a → exec .gdispExec s = .next (s.finish k m (gdispError cILLEGAL 2 0 a))) ∧
     (m.delivered = none → ((s.cluster k).mayStart m = true ∨ m.started = true) → gdispMisaligned g = none →
       (∀ bs u, m.phase = 0 → s.queueRead k m.ctx g.counts (4 * g.experts) = (.ok bs, u) → m ∈ (u.cluster k).cmds → ∃ v : State, exec .gdispExec s = .next v ∧
         { m with started := true, phase := 1, data := (chunks 4 bs.length bs).map (fun b => BitVec.ofNat 64 (leNat b)) } ∈ (v.cluster k).cmds) ∧
       (∀ bs u, m.phase = 1 → s.queueRead k m.ctx g.table 256 = (.ok bs, u) → m ∈ (u.cluster k).cmds →
         (gusBad (bytesWords bs) = true → exec .gdispExec s = .next (u.finish k m (gdispError cILLEGAL 1 0 g.table))) ∧
         (gusBad (bytesWords bs) = false → ∃ v : State, exec .gdispExec s = .next v ∧ { m with phase := 2, data := bytesWords bs ++ m.data } ∈ (v.cluster k).cmds)) ∧
       (∀ u, m.phase = 2 → State.writeDescriptors k g t (ns.drop m.pos) m.pos s = (.ok (), u) →
         exec .gdispExec s = .next (u.modCluster k (fun c => c.setCmd { m with phase := 3, pos := 0 }))) ∧
       (∀ cs u, m.phase = 3 → s.xlatRange k g.status 24 .write false false = (.ok cs, u) →
         let c := (u.cluster k).cleanChunks cs
         exec .gdispExec s = .next (u.setCluster k ((c.writeChunks cs (bytesLE 24 (statusAdd (leNat (c.readChunksL2 cs)) t ns)) false).setCmd { m with phase := 4 }))) ∧
       (∀ n, m.phase = 4 → ns[m.pos]? = some n →
         let mine := (s.cluster k).pushes.any (fun p => p.src == .gdisp m.id)
         let next := { m with pos := m.pos + 1, notBefore := (s.cluster k).qclk + 1 }
         (mine = true ∨ (s.cluster k).queueAt 3 = false ∨ (s.cluster k).qclk < m.notBefore → exec .gdispExec s = .next s) ∧
         (mine = false → (s.cluster k).queueAt 3 = true → m.notBefore ≤ (s.cluster k).qclk →
           (expertRows t n ≠ 0 → exec .gdispExec s = .next (s.modCluster k (fun c =>
             { c with pushes := c.pushes ++ [{ src := .gdisp m.id, rcd := expertRecord g t m.pos n, since := some c.qclk }] }))) ∧
           (expertRows t n = 0 → g.parent = 0 → exec .gdispExec s = .next (s.modCluster k (fun c => c.setCmd next))) ∧
           (∀ ch u, expertRows t n = 0 → g.parent ≠ 0 → s.xlatRange k g.parent 64 .write false false = (.ok [ch], u) →
             let left := leNat (((u.cluster k).writeBack (linesOf ch.pa 64)).l2Bytes (ch.pa + 16) 4)
             ∃ v : State, exec .gdispExec s = .next v ∧ (left ≠ 0 → leNat ((v.cluster k).l2Bytes (ch.pa + 16) 4) = left - 1) ∧
               (left = 1 → ∃ p, (v.cluster k).pushes = (u.cluster k).pushes ++ [p] ∧ p.src = .join) ∧
               (left ≠ 1 → (v.cluster k).pushes = (u.cluster k).pushes) ∧ (m ∈ (u.cluster k).cmds → next ∈ (v.cluster k).cmds)))) ∧
       (m.phase = 4 → ns[m.pos]? = none → exec .gdispExec s = .next (s.finish k m .normal))) ∧
     (∀ p t0, (s.cluster k).queueAt 3 = true → (s.cluster k).pushes = [p] → p.src = .gdisp m.id → p.since = some t0 → t0 ≤ (s.cluster k).qclk →
       ((s.cluster k).level (recPrio p.rcd)).len = 0 → ((s.cluster k).level (recPrio p.rcd)).chip.length < 64 →
       ∃ t : State, exec .queuePush s = .next t ∧ (t.cluster k).pushes = [] ∧ { m with pos := m.pos + 1, notBefore := (s.cluster k).qclk + 1 } ∈ (t.cluster k).cmds)) ∧
  ((∀ (t : List Word) (n : Nat), gusBad t = false → n ≤ gusCap t (gusNB t) → 0 < n →
     expertRows t n = n ∧ n ≤ gusCap t (bucketOf t n) ∧ ∀ i, i < bucketOf t n → gusCap t i < n) ∧
   (∀ (t : List Word) (n : Nat), gusBad t = false → gusCap t (gusNB t) < n → expertRows t n = gusCap t (gusNB t)) ∧
   (∀ (old : Nat) (t : List Word) (ns : List Nat),
     let drop := fun (n : Nat) => n - expertRows t n
     let live := (ns.filter (fun n => expertRows t n != 0)).length
     let v := statusAdd old t ns
     field v 0 64 = (field old 0 64 + (ns.map drop).sum) % 2 ^ 64 ∧ field v 64 32 = (field old 64 32 + live) % 2 ^ 32 ∧
     field v 96 32 = (field old 96 32 + (ns.length - live)) % 2 ^ 32 ∧
     field v 128 32 = (field old 128 32 + (ns.filter (fun n => drop n != 0)).length) % 2 ^ 32 ∧ field v 160 32 = (field old 160 32 + 1) % 2 ^ 32) ∧
   (∀ (t : List Word) (e n : Nat), e < 4096 → n < 2 ^ 32 →
     let d := leNat (expertDescriptor t e n)
     field d 0 32 = e ∧ field d 32 32 = bucketOf t n ∧ field d 64 32 = expertRows t n ∧ field d 96 32 = gusCap t (bucketOf t n) ∧ field d 128 32 = n ∧
       field d 160 32 = n - expertRows t n ∧ field d 192 320 = 0))

/-- Hem (15 R315-R317): an arrival on a cluster outside the round ends in error; one with nothing left to drain is counted while the round has begun and has room and no earlier one is held, and held otherwise; a held one, the oldest first, is counted once the next round has begun and has room; the last one releases the round: every counted command finishes and HGEN advances by 1; a stop in a cluster of the round ends every command of its clusters that is counted or drains with the status STOPPED, and HGEN stays; a held arrival that the round has room for counts before that, and a round that it completes is released instead. That a held arrival whose cluster the next round leaves out ends in error is the model's choice (assumption 50), and when a round begins its reading (assumption 11). -/
def Obligations.HemEvents : Prop :=
  ∀ (s : State) (k : Nat) (m : Cmd),
    (aboutCmd s k m → m.isHem = true → m.phase = 0 → (s.cluster k).atHead m = true →
      ((s.cluster k).hemOn = false → exec .hemArrival s = .next (s.finish k m hemError)) ∧
      ((s.cluster k).hemOn = true → (s.cluster k).hemDrains m = false →
        let c := (s.cluster k).writeBackAll
        let n := ((c.hems 1 ++ c.hems 2).map (·.pos)).foldl Nat.max 0
        let u := s.setCluster k (c.setCmd { m with started := true, phase := if s.hemBegun = true ∧ (c.hems 1).length < c.hemNeed ∧ c.hems 2 = [] then 1 else 2, pos := n + 1 })
        (u.hemComplete = false → exec .hemArrival s = .next u) ∧
        (u.hemComplete = true → ∃ t : State, exec .hemArrival s = .next t ∧ t.hgen = s.hgen + 1 ∧ ∀ j q, j < 48 → q ∈ (u.cluster j).hems 1 → finished t j q))) ∧
    (aboutCmd s k m → m.isHem = true → m.phase = 2 → s.hemBegun = true → (s.cluster k).heldFirst m = true →
      ((s.cluster k).hemOn = false → exec .hemArrival s = .next (s.finish k m hemError)) ∧
      ((s.cluster k).hemOn = true → ((s.cluster k).hems 1).length < (s.cluster k).hemNeed →
        let u := s.setCluster k ((s.cluster k).setCmd { m with phase := 1 })
        (u.hemComplete = false → exec .hemArrival s = .next u) ∧
        (u.hemComplete = true → ∃ t : State, exec .hemArrival s = .next t ∧ t.hgen = s.hgen + 1 ∧ ∀ j q, j < 48 → q ∈ (u.cluster j).hems 1 → finished t j q))) ∧
    (s.hemBegun = true → s.hemComplete = false → (∃ q c, q < 48 ∧ c < 4 ∧ (s.cluster q).hemOn = true ∧ (s.context q c).stopf = true) →
      ((∀ j, j < 48 → (s.cluster j).hems 2 = []) →
        ∃ t : State, exec .hemRoundAbort s = .next t ∧ t.hgen = s.hgen ∧ ∀ j q, j < 48 → (s.cluster j).hemOn = true →
          q ∈ (s.cluster j).hems 1 ∨ (q ∈ (s.cluster j).hems 0 ∧ (s.cluster j).queueHead q = true ∧ q.startable = true) →
          finished t j q ∧ (q.tok ≠ 0 → ((s.context j q.ctx).tok q.tok).cmds.contains q.id = true → ((t.context j q.ctx).tok q.tok).stopped = true)) ∧
      (k < 48 → (∀ j, j < 48 → (s.cluster j).hems 2 = if j = k then [m] else []) → (s.cluster k).hemOn = true → ((s.cluster k).hems 1).length < (s.cluster k).hemNeed →
        let u := s.setCluster k ((s.cluster k).setCmd { m with phase := 1 })
        u.hemComplete = true → ∃ t : State, exec .hemRoundAbort s = .next t ∧ t.hgen = s.hgen + 1 ∧ ∀ j q, j < 48 → q ∈ (u.cluster j).hems 1 → finished t j q)) ∧
    (s.hemBegun = false ∨ s.hemComplete = true ∨ (∀ q c, q < 48 → c < 4 → (s.cluster q).hemOn = true → (s.context q c).stopf = false) → exec .hemRoundAbort s = .next s)

/-- Submission (13 R286, R287, R291, R292), by writes that the host port takes: the host's bytes enter the entries that are FREE and no others; a submitted entry whose record is good becomes SUBMITTED with its copy, one whose record has a bad field becomes FAULTED ILLEGAL and names the field; an entry that is not FREE stays. The life of a Kernel (13 R293-R296): admission takes free clusters, sets each one's Kernel, peer base and STOPF, resets what it does not hold, and lists the records to place; each record joins the pushes of its cluster, once a resumption has loaded what it saved there, and leaves that list; the entry is DONE once nothing is placed, saved or live; an end by the host or by firmware, with a code of the table, empties its clusters; a release frees an ended entry and keeps its table. -/
def Obligations.KernelEvents : Prop :=
  ((∀ (s : State), controlTaken s s.arg.bytes.length → ∃ t : State, exec .kernelTableWrite s = .next t ∧
     (∀ j, j < s.arg.bytes.length → s.arg.i + j < 65536 → (s.kernel ((s.arg.i + j) / 256)).st = .free →
       (t.kernel ((s.arg.i + j) / 256)).table.toNat / 2 ^ (8 * ((s.arg.i + j) % 256)) % 256 = (s.arg.bytes.getD j 0).toNat) ∧
     ∀ i, (s.kernel i).st ≠ .free → t.kernel i = s.kernel i) ∧
   (∀ (s : State) (i : Nat), controlTaken s 8 → s.stage = 3 → i < 256 → s.arg.w = BitVec.ofNat 64 i → let u : State := { s.acked with hostSeq := s.hostSeq + 1 }
     ((s.kernel i).st = .free → u.badField s.arg.k (s.kernel i).table = none → ∃ t : State, exec .ksubmit s = .next t ∧ (t.kernel i).st = .submitted ∧ (t.kernel i).rcd = (s.kernel i).table) ∧
     (∀ f, (s.kernel i).st = .free → u.badField s.arg.k (s.kernel i).table = some f → ∃ t : State, exec .ksubmit s = .next t ∧ (t.kernel i).st = .faulted ∧
       (t.kernel i).code = cILLEGAL ∧ (t.kernel i).badf = BitVec.ofNat 8 f) ∧
     ((s.kernel i).st ≠ .free → exec .ksubmit s = .next s.acked)) ∧
   (∀ (s : State), controlTaken s 8 → s.stage ≠ 3 → ∀ j ∈ [Instr.ksubmit, .kctlStop, .kctlResume, .kctlEnd, .kctlRelease], exec j s = .next s.acked)) ∧
  ((∀ (s : State), let i := s.arg.i
     let ks := s.kernelClusters s.arg.k (s.kernel i).rcd
     ((s.kernel i).st = .submitted → s.clustersFree i ks = true → ∃ t : State, exec .kernelAdmit s = .next t ∧ (t.kernel i).st = .running ∧ (t.kernel i).clusters = ks ∧
       (t.kernel i).place = s.placement s.arg.k (s.kernel i).rcd ∧ ∀ k ∈ ks, (t.cluster k).kernel = some i ∧
         (t.cluster k).peerbase = BitVec.ofNat 64 (field (kPeert (s.kernel i).rcd) 0 56) ∧ (t.cluster k).asid = keepBits s.arg.v 0 16 ∧
         (∀ c, c < 4 → (t.context k c).stopf = false) ∧
         ((s.kernel i).heldClusters = [] → (t.cluster k).tiles = [] ∧ (t.cluster k).wb = [] ∧ (t.cluster k).ab = [] ∧ (t.cluster k).nests = [])) ∧
     ((s.kernel i).st = .submitted → s.clustersFree i ks = false → exec .kernelAdmit s = .next s) ∧
     (∀ p, (s.kernel i).st = .running → s.arg.k ∉ (s.kernel i).loading → (s.kernel i).place.find? (fun p => p.1 == s.arg.k) = some p →
       exec .leafPlacementPush s = .next ((s.modCluster s.arg.k (fun c => c.enqueue .controller p.2 true)).modKernel i (fun e => { e with place := e.place.erase p }))) ∧
     (((s.kernel i).st = .running ∨ (s.kernel i).st = .stopping) → (s.kernel i).place = [] → (s.kernel i).saved = [] →
       (s.kernel i).drained = [] → (s.kernel i).loading = [] →
       ((∀ k ∈ (s.kernel i).clusters, (s.cluster k).liveCount = 0) → ∃ t : State, exec .kernelDone s = .next t ∧ (t.kernel i).st = .done ∧
         ∀ k ∈ (s.kernel i).clusters, (t.cluster k).kernel = none) ∧
       ((∃ k ∈ (s.kernel i).clusters, (s.cluster k).liveCount ≠ 0) → exec .kernelDone s = .next s)) ∧
     (((s.kernel i).st = .running ∨ (s.kernel i).st = .stopping) → ∃ t : State, exec .firmwareEndKernel s = .next t ∧ endedWith s t i (deliveredCode (s.arg.v.setWidth 16)))) ∧
   (∀ (s : State) (i : Nat),
     (kctlFor s i 2 → ((s.kernel i).st = .submitted ∨ (s.kernel i).st = .running ∨ (s.kernel i).st = .stopping ∨ (s.kernel i).st = .parked) →
       ∃ t : State, exec .kctlEnd s = .next t ∧ endedWith s t i cSTOPPED) ∧
     (kctlFor s i 3 → ((s.kernel i).st = .done ∨ (s.kernel i).st = .faulted) → ∃ t : State, exec .kctlRelease s = .next t ∧ t.kernel i = { KEntry.reset with table := (s.kernel i).table }) ∧
     (kctlFor s i 3 → (s.kernel i).st = .running → exec .kctlRelease s = .next s.acked)))

/-- Instance indices (13 R289): under PACK unit u gets its run of indices, and the runs deal every index once; under PAD each unit gets as many, and an index at or past the count is phantom. A unit of an empty run receives nothing, so nothing below it is created; below a phantom instance stand the same leaves as below another, each with TAIL. -/
def Obligations.InstancesOfALevel : Prop :=
  (∀ (l : KLevel) (U : Nat), 0 < U →
    (l.pad = false → ((List.range U).map (instances l U)).flatten = (List.range l.count).map (fun i => (i, false)) ∧
      ∀ u, u < U → let q := l.count / U
        let r := l.count % U
        instances l U u = (List.range (if r ≤ u then q else q + 1)).map (fun i => (u * q + Nat.min u r + i, false))) ∧
    (l.pad = true → let c := (l.count + U - 1) / U
      ((List.range U).map (instances l U)).flatten = (List.range (U * c)).map (fun i => (i, decide (l.count ≤ i))) ∧
      ∀ u, u < U → instances l U u = (List.range c).map (fun i => (u * c + i, decide (l.count ≤ u * c + i))))) ∧
  (∀ (l : KLevel) (rest : List KLevel) (S : List (Nat × Nat)) (idx : List Nat) (tail : Bool),
    leavesOf (l :: rest) S idx tail = ((unitsOf l.dom S).zipIdx.map (fun p =>
      ((instances l (unitsOf l.dom S).length p.2).map (fun i => leavesOf rest p.1 (idx ++ [i.1]) (tail || i.2))).flatten)).flatten) ∧
  (∀ (ls : List KLevel) (S : List (Nat × Nat)) (idx : List Nat),
    (leavesOf ls S idx true).all (·.tail) = true ∧
    (leavesOf ls S idx true).map (fun f => (f.at_, f.idx)) = (leavesOf ls S idx false).map (fun f => (f.at_, f.idx)))

/-- Stopping, parking and resuming (13 R297-R300): a stop sets STOPF in every Context of the Kernel and a park request on the FREE ones, and then looks at each Context: one whose block may wait on another party is parked at once, another blocked one when its time is over, and a parked one with nothing pending is saved; one that is in none of these states stays. The levels are emptied, and once every Context is free or saved and nothing more can come their records are saved and the entry is PARKED; a resumption runs the Kernel again unless its save area faults, and waits for its admission while another Kernel has one of its clusters. Firmware then resumes it in the same way. The 2 T_eng with slice operands, the PAGE fault of a resumption, its wait and the levels taken out as a whole are the model's choice (assumption 54), and so is it that `wexpose` and `wrevoke` wait on no other party (assumption 71). -/
def Obligations.StopsAndResumptions : Prop :=
  (∀ (s : State) (i : Nat),
    (kctlFor s i 0 → (s.kernel i).st = .submitted → ∃ t : State, exec .kctlStop s = .next t ∧ (t.kernel i).st = .parked ∧ (t.kernel i).held = false) ∧
    (kctlFor s i 0 → (s.kernel i).st = .running → ∃ u, stopBegun s u i ∧ exec .kctlStop s = .next (u.stopContexts i)) ∧
    (s.arg.i = i → (s.kernel i).st = .running → ∃ u, stopBegun s u i ∧ exec .preemptionStop s = .next (u.stopContexts i)) ∧
    s.stopContexts i = (s.kernel i).clusters.foldl (fun s k => (((s.stopContext i k 0).stopContext i k 1).stopContext i k 2).stopContext i k 3) s ∧
    (kctlFor s i 1 → (s.kernel i).st = .parked → resumes s.acked i (exec .kctlResume s)) ∧
    (s.arg.i = i → (s.kernel i).st = .parked → (s.kernel i).wanted = true → resumes s i (exec .kernelAdmit s)) ∧
    (s.arg.i = i → (s.kernel i).st = .parked → (s.kernel i).wanted = false → exec .kernelAdmit s = .next s)) ∧
  (∀ (s : State), exec .stopParkTimeout s = .next (s.stopContext s.arg.i s.arg.k s.arg.c)) ∧
  (∀ (s : State) (i k c : Nat),
    let e := s.kernel i
    let x := s.context k c
    let late := ∃ p, e.stopAt.find? (fun p => p.1 == k) = some p ∧ p.2 + 2 * tEng e.rcd ≤ (s.cluster k).clk
    let parks := x.st = .blocked ∧ (parksAtOnce (s.cluster k) x ∨ late)
    let free := x.live = true ∧ x.st = .parked ∧ pendingToks x = [] ∧ pendingHnds x = []
    (e.st ≠ .stopping ∨ k ∉ e.clusters ∨ (k, c) ∈ e.saved → s.stopContext i k c = s) ∧
    (e.st = .stopping → k ∈ e.clusters → (k, c) ∉ e.saved →
      (parks → s.stopContext i k c = (s.modCluster k (fun cl => cl.park c)).stopContext i k c ∧ ((s.modCluster k (fun cl => cl.park c)).context k c) = { x with st := .parked }) ∧
      (¬parks → ¬free → s.stopContext i k c = s) ∧
      (∀ u, free → s.engineWrite k (kSave e.rcd + imageBytes * c) 4 (ctxImage x) false = (.ok (), u) →
        let t := s.stopContext i k c
        (t.kernel i).saved = (u.kernel i).saved ++ [(k, c)] ∧ k ∈ (t.kernel i).heldClusters ∧ (t.cluster k).mem = (u.cluster k).mem))) ∧
  (∀ (s : State), let i := s.arg.i
    (∀ r u v, r = s.stopContexts i → u = (r.kernel i).clusters.foldl (fun s k => s.drainQueue i k) r → (u.kernel i).st = .stopping →
      (u.stopComplete i = false → exec .kernelParked s = .next u) ∧
      (u.stopComplete i = true → v = (u.kernel i).clusters.foldl (fun s k => s.saveQueue i k) (u.modKernel i (fun e => { e with leafs := [] })) →
        (v.kernel i).st = .stopping →
        ∃ t : State, exec .kernelParked s = .next t ∧ (t.kernel i).st = .parked ∧ (t.kernel i).held = !(v.kernel i).heldClusters.isEmpty)))

/-- The host port (00 R3, 16 R342, R343, 20 R419-R422). A request is taken on a connected queue pair when its sequence number is the one expected: one ahead gets a sequence NAK, one behind an acknowledgement, once its packet has one; a READ that comes again is executed again. A request without the key, of the wrong size or out of its range leaves the pair in error. A packet of an RDMA WRITE to an open aperture joins its write in the cluster's ingress buffer, where the write has its room from its first packet, and is acknowledged; without room the write waits in the staging buffer, and is dropped where that is full; no packet is acknowledged before it, or one before it on its pair, reaches the ingress buffer. Whole writes are applied in order at the L2 slice while no Context of the cluster is active, and those that waited then enter. A read takes the sequence numbers of its response, has the sets that its lines tag written back, and answers the bytes at the L2 slice, or of the control region. Sequence numbers, the room of a whole write and writes longer than the buffer are assumption 70, the NAKs and the silent wait assumption 87. Die controllers (01 R19, R27): an access within a slice of the own die and below its metadata area reads or writes at the L2 slice; one outside every slice or in a metadata area writes nothing, answers poisoned and is recorded; a controller accesses no slice of another die, and nothing before firmware runs (22 R432). -/
def Obligations.AccessesFromOutside : Prop :=
  (∀ (s : State), let k := s.arg.k
     let n := s.arg.bytes.length
     let o := s.arg.w.toNat
     let x := s.qpair s.arg.c
     let len := if s.arg.i = 0 then n else s.arg.i
     let ahead := (s.arg.j + 2 ^ 24 - x.psn) % 2 ^ 24
     let answers := fun (a : Output) => (Host.Outcome.next { s with outbox := s.outbox ++ [a] } : Out)
     let numbered := x.psn < 2 ^ 24 ∧ s.arg.j < 2 ^ 24
     (∀ i ∈ hostRequests, (i = .rload → s.arg.flag = false) →
       (s.hostUp = false → exec i s = .next s) ∧
       (s.hostUp = true → 64 ≤ s.arg.c → exec i s = answers Output.hostInvalid) ∧
       (s.hostUp = true → s.arg.c < 64 → x.on = false → exec i s = .next s) ∧
       (onPair s → numbered →
         (0 < ahead → ahead ≤ 2 ^ 23 → exec i s = answers (Output.hostNak s.arg.c x.psn)) ∧
         (2 ^ 23 < ahead → i ≠ .hostRdmaRead → ((∀ p ∈ x.held, p.1 ≠ s.arg.j) → exec i s = answers Output.hostAck) ∧
           ((∃ p ∈ x.held, p.1 = s.arg.j) → exec i s = .next s)))) ∧
     (∀ i ∈ controlWrites, (i = .rload → s.arg.flag = false) → inTurn s →
       (x.msg ≠ none → closesPair s (exec i s) Output.hostInvalid) ∧ (x.msg = none → x.held ≠ [] → exec i s = .next s) ∧
       (x.msg = none → x.held = [] → s.keyOk 0 = false → closesPair s (exec i s) Output.hostError)) ∧
     (s.acked.outbox = s.outbox ++ [Output.hostAck] ∧ (s.acked.qpair s.arg.c).psn = (x.psn + 1) % 2 ^ 24 ∧ { s.acked with qps := s.qps, outbox := s.outbox } = s) ∧
     (inTurn s →
       ((4096 < n ∨ (s.arg.flag = true ∧ x.msg = none) ∨ (s.arg.flag = false ∧ x.msg ≠ none)) → closesPair s (exec .hostRdmaWrite s) Output.hostInvalid) ∧
       (∀ m, s.arg.flag = true → x.msg = some m → m.left < n → closesPair s (exec .hostRdmaWrite s) Output.hostInvalid) ∧
       (n ≤ 4096 → s.arg.flag = false → x.msg = none →
         ((2 ^ 31 < len ∨ len < n) → closesPair s (exec .hostRdmaWrite s) Output.hostInvalid) ∧
         (len ≤ 2 ^ 31 → n ≤ len → (s.stage ≠ 3 ∨ s.apertureOk k o len = false ∨ s.keyOk (1 + k) = false) → closesPair s (exec .hostRdmaWrite s) Output.hostError)) ∧
       (n ≤ 4096 → ∀ m : HostMsg,
         ((s.arg.flag = true ∧ x.msg = some m ∧ n ≤ m.left) ∨
           (s.arg.flag = false ∧ x.msg = none ∧ s.stage = 3 ∧ len ≤ 2 ^ 31 ∧ n ≤ len ∧ s.apertureOk k o len = true ∧ s.keyOk (1 + k) = true ∧
             m = { k := k, pa := (s.aperture k).1.toNat % 2 ^ 34 + o, left := len, id := s.hostSeq + 1, each := decide (Config.ingressBytes < len) })) →
         let id := if m.each then s.hostSeq + 1 else m.id
         let full := if m.each then n else m.left
         let last := decide (m.left = n) || m.each
         let q := (s.cluster m.k).ingress
         let waits := s.stagingBuf.filter (fun p => p.1 == m.k)
         let room := q.any (fun w => w.msg == id) = true ∨ (waits = [] ∧ (s.cluster m.k).ingressUsed + full ≤ Config.ingressBytes)
         let goesOn := fun (t : State) => (t.qpair s.arg.c).psn = (x.psn + 1) % 2 ^ 24 ∧
           (t.qpair s.arg.c).msg = if m.left = n then none else some { m with pa := m.pa + n, left := m.left - n }
         (room → ∃ t : State, exec .hostRdmaWrite s = .next t ∧ packetJoined q (t.cluster m.k).ingress id m.pa full s.arg.bytes last ∧ t.stagingBuf = s.stagingBuf ∧ goesOn t ∧
           (x.held = [] → t.outbox = s.outbox ++ [Output.hostAck] ∧ (t.qpair s.arg.c).held = []) ∧
           (∀ e, x.held = [(e, false)] → e ≠ x.psn → t.outbox = s.outbox ∧ (t.qpair s.arg.c).held = [(e, false), (x.psn, true)])) ∧
         (¬room → s.stagingUsed + n ≤ Config.stagingBytes → ∃ t : State, exec .hostRdmaWrite s = .next t ∧
           packetJoined (waits.map (·.2)) ((t.stagingBuf.filter (fun p => p.1 == m.k)).map (·.2)) id m.pa full s.arg.bytes last ∧
           t.stagingBuf.filter (fun p => p.1 != m.k) = s.stagingBuf.filter (fun p => p.1 != m.k) ∧ t.outbox = s.outbox ∧ t.clusters = s.clusters ∧ goesOn t ∧
           (t.qpair s.arg.c).held = x.held ++ [(x.psn, false)]) ∧
         (¬room → Config.stagingBytes < s.stagingUsed + n → exec .hostRdmaWrite s = answers Output.hostDrop))) ∧
     ((∀ c, c < 4 → (s.context k c).st ≠ .run ∧ (s.context k c).st ≠ .ready ∧ (s.context k c).st ≠ .blocked) →
       let whole := (s.cluster k).ingress.filter (·.last)
       let rest := (s.cluster k).ingress.filter (fun g => !g.last)
       ∃ t : State, exec .hostIngressApply s = .next t ∧
         (t.cluster k).mem = (whole.foldl (fun c g => (c.writeL2 g.pa g.bytes false).count 2 g.pa g.bytes.length) (s.cluster k)).mem ∧
         (s.stagingBuf = [] → (t.cluster k).ingress = rest ∧ t.outbox = s.outbox) ∧
         (∀ g e, s.stagingBuf = [(k, g)] → (rest.map (·.len)).foldl (· + ·) 0 + g.len ≤ Config.ingressBytes → g.psns = [e] →
           t.stagingBuf = [] ∧ (t.cluster k).ingress = rest ++ [{ g with qp := 0, psns := [] }] ∧
           ((s.qpair g.qp).held = [(e, false)] → t.outbox = s.outbox ++ [Output.hostAck] ∧ (t.qpair g.qp).held = []) ∧
           (∀ f, (s.qpair g.qp).held = [(f, false), (e, false)] → f ≠ e → t.outbox = s.outbox ∧ (t.qpair g.qp).held = [(f, false), (e, true)]))) ∧
     ((∃ c, c < 4 ∧ ((s.context k c).st = .run ∨ (s.context k c).st = .ready ∨ (s.context k c).st = .blocked)) → exec .hostIngressApply s = .next s) ∧
     (inTurn s → (x.msg ≠ none → closesPair s (exec .hostRdmaRead s) Output.hostInvalid) ∧ (x.msg = none → x.held ≠ [] → exec .hostRdmaRead s = .next s)) ∧
     (∀ again : Bool, (again = false → inTurn s ∧ x.msg = none ∧ x.held = []) → (again = true → onPair s ∧ numbered ∧ 2 ^ 23 < ahead) →
       let region := if s.arg.flag then 0 else 1 + k
       let numbers := if again then 0 else Nat.max 1 ((s.arg.i + 4095) / 4096)
       (s.keyOk region = false → closesPair s (exec .hostRdmaRead s) Output.hostError) ∧
       (s.keyOk region = true → 2 ^ 31 < s.arg.i → closesPair s (exec .hostRdmaRead s) Output.hostInvalid) ∧
       (s.keyOk region = true → s.arg.i ≤ 2 ^ 31 →
         (s.arg.flag = false → s.apertureOk k o s.arg.i = false → closesPair s (exec .hostRdmaRead s) Output.hostError) ∧
         (s.arg.flag = false → s.apertureOk k o s.arg.i = true →
           let pa := (s.aperture k).1.toNat % 2 ^ 34 + o
           let c := (s.cluster k).flushSets (fun r => (linesOf pa s.arg.i).contains r.tag)
           ∃ t : State, exec .hostRdmaRead s = .next t ∧ t.outbox = s.outbox ++ [Output.hostData (c.l2Bytes pa s.arg.i) (c.poisoned pa s.arg.i)] ∧
             (t.qpair s.arg.c).psn = (x.psn + numbers) % 2 ^ 24 ∧ (t.cluster k).mem = c.mem ∧ (t.cluster k).dirty = c.dirty) ∧
         (s.arg.flag = true → ∃ t : State, exec .hostRdmaRead s = .next t ∧
           t.outbox = s.outbox ++ [Output.hostData ((List.range s.arg.i).map (fun j => s.controlByte (o + j))) false] ∧
           (t.qpair s.arg.c).psn = (x.psn + numbers) % 2 ^ 24)))) ∧
  (∀ (s : State), let pa := s.arg.w.toNat % 2 ^ 40
     let n := if s.arg.flag then s.arg.bytes.length else s.arg.i
     let k := pa / 2 ^ 34
     (4 ≤ s.arg.k ∨ s.firmware = false → exec .dieControllerAccess s = .next s) ∧
     (dieMayReach pa n = true → dieOf k ≠ s.arg.k → exec .dieControllerAccess s = .next s) ∧
     (s.arg.k < 4 → s.firmware = true → dieMayReach pa n = false → ∃ t : State, exec .dieControllerAccess s = .next t ∧ t.outbox = s.outbox ++ [Output.dieData [] true] ∧ t.clusters = s.clusters ∧
       ((s.die s.arg.k).wr - (s.die s.arg.k).rd < 4096 → (t.die s.arg.k).wr = (s.die s.arg.k).wr + 1)) ∧
     (s.arg.k < 4 → s.firmware = true → dieMayReach pa n = true → dieOf k = s.arg.k → s.arg.flag = true → exec .dieControllerAccess s = .next (s.modCluster k (fun c => c.writeL2 (pa % 2 ^ 34) s.arg.bytes false))) ∧
     (s.arg.k < 4 → s.firmware = true → dieMayReach pa n = true → dieOf k = s.arg.k → s.arg.flag = false → exec .dieControllerAccess s =
       .next { s with outbox := s.outbox ++ [Output.dieData ((s.cluster k).l2Bytes (pa % 2 ^ 34) n) ((s.cluster k).poisoned (pa % 2 ^ 34) n)] }))

/-- What the control region and the apertures hold (13 R291, R292, 20 R421, 22 R438, R440): the kernel table, KSTAT, PLIMIT and the telemetry block read in their places, KSUBMIT and KCTL read 0; an aperture entry takes a base in its own slice and limits of whole pages, from firmware that runs (22 R432), and refuses every other pair. What firmware writes through the die controllers (00 R8, 01 R33, 20 R410, R413, 21 R428, 22 R432, R436): DEVICE goes to every cluster, another control register to its own; a 1 written to a bit of a port's counts clears it; the route table takes its entry, and neither takes a number above 1,057; a memory region of the host gets its key; the error queue's base is firmware's, and its read index never passes its write index; a threshold is set and a counter cleared; a taken message leaves; STAGE goes from 2 to 3 once every register that reset leaves open is written and every fabric port enabled; MEAS2 is extended. A packet that was kept for want of a route tries again once a route is written (20 R418). Nothing of this happens while no firmware runs, but for the queue pairs of the host port, which the boot ROM connects too. The numbers of the register classes in the event and the refusal above 1,057 are the model's choice (assumption 59), the queue pairs as a class assumption 87, the kept packets assumption 44. -/
def Obligations.ControlRegionAndRegisters : Prop :=
  ((∀ (s : State),
     let word := fun (o n : Nat) => leNat ((List.range n).map (fun j => s.controlByte (o + j)))
     (∀ i, i < 256 → word (256 * i) 256 = (s.kernel i).table.toNat ∧ word (0x10000 + 8 * i) 8 = (s.kernel i).word.toNat) ∧
     word 0x10800 8 = 0 ∧ word 0x10808 8 = 0 ∧ word 0x10820 8 = s.plimitWord.toNat ∧ word 0x10840 8 = s.telemetry.toNat ∧ word 0x10810 8 = s.mstat.toNat ∧
     word 0x10900 48 = s.meas0.toNat ∧ word 0x10930 48 = s.meas1.toNat ∧ word 0x10960 48 = s.meas2.toNat ∧
     (∀ k, k < 48 → word (0x10A00 + 16 * k) 16 = s.apertureBits k)) ∧
   (∀ (s : State), let k := s.arg.k
     let base := s.arg.w.toNat % 2 ^ 40
     let size := s.arg.v.toNat % 2 ^ 34
     let good := k < 48 ∧ base / 2 ^ 34 = k ∧ base % 4096 = 0 ∧ size % 4096 = 0 ∧ base % 2 ^ 34 + size ≤ Config.metaBase
     (s.firmware = true → good → ∃ t : State, exec .apertureWrite s = .next t ∧ (t.aperture k).1.toNat = base ∧ (t.aperture k).2.toNat = size ∧ ∀ j, j ≠ k → t.aperture j = s.aperture j) ∧
     (s.firmware = false ∨ ¬good → exec .apertureWrite s = .next s))) ∧
  (∀ (s : State), let k := s.arg.k
     let i := s.arg.i
     let dashed := [0x05, 0x40, 0x41, 0x43, 0x44, 0x4B, 0x50, 0x51, 0x52, 0x53, 0x55]
     ∃ t : State, exec .registerWrite s = .next t ∧
       (s.firmware = false → s.arg.j ≠ 13 → t = s) ∧
       (s.arg.j = 13 → s.hostUp = true → i < 64 → t.qpair i = { on := s.arg.flag, psn := s.arg.w.toNat % 2 ^ 24, msg := none } ∧
         ∀ m, (s.qpair i).msg = some m → ∀ q, ∀ g ∈ (t.cluster q).ingress, g.msg = m.id → g.last = true) ∧
       (s.arg.j = 13 → s.hostUp = false ∨ 64 ≤ i → t = s) ∧
       (s.firmware = true →
       (s.arg.j = 0 → k < 48 → i = 0x05 → (s.arg.w.toNat ≤ 1057 → ∀ q, q < 48 → (t.cluster q).device = s.arg.w.setWidth 11) ∧ (1057 < s.arg.w.toNat → t = s)) ∧
       (s.arg.j = 0 → k < 48 → i ≠ 0x05 → (s.arg.c < 4 → t = (s.ctlWrite k s.arg.c i s.arg.w).modCluster k (·.wrote i)) ∧ (4 ≤ s.arg.c → t = s)) ∧
       (s.arg.j = 0 → k < 48 → s.arg.c < 4 → i ∈ dashed → (i = 0x05 → s.arg.w.toNat ≤ 1057) → i ∈ (t.cluster k).dashed) ∧
       (s.arg.j = 0 → 48 ≤ k → t = s) ∧
       (s.arg.j = 1 → k < 35 → (s.arg.w.toNat % 4 = 0 → (t.port k).st = .down) ∧ (s.arg.w.toNat % 4 = 1 → (s.port k).st = .down → (t.port k).st = .train) ∧
         (t.port k).crcerr = (s.port k).crcerr &&& ~~~s.arg.w.extractLsb' 16 16 ∧ (t.port k).naks = (s.port k).naks &&& ~~~s.arg.w.extractLsb' 32 16 ∧
         (t.port k).room = (s.port k).room &&& ~~~s.arg.w.extractLsb' 48 16) ∧
       (s.arg.j = 1 → 35 ≤ k → t = s) ∧
       ((s.arg.j = 4 ∨ s.arg.j = 5 ∨ s.arg.j = 6 ∨ (s.arg.j = 7 ∧ s.arg.flag = false) ∨ s.arg.j = 12) → 4 ≤ k → t = s) ∧
        (s.arg.j = 12 → k < 4 → (t.die k).base = s.arg.w) ∧
       (s.arg.j = 11 → SMap.get 0 t.keys i = s.arg.w.setWidth 32) ∧
       (s.arg.j = 2 → 1057 < i → t = s) ∧
       (s.arg.j = 2 → i ≤ 1057 → t.route i = s.arg.v ++ s.arg.w ∧
         ∀ p, s.stranded = [p] → t = { s with routes := SMap.put s.routes i (s.arg.v ++ s.arg.w), stranded := [] }.netSend p) ∧
       (s.arg.j = 4 → k < 4 → (t.die k).rd = Nat.min s.arg.w.toNat (s.die k).wr) ∧
       (s.arg.j = 5 → k < 4 → SMap.get 0 (t.die k).thresholds i = s.arg.w.setWidth 32) ∧
       (s.arg.j = 6 → k < 4 → SMap.get 0 (t.die k).counts i = 0) ∧
       (s.arg.j = 7 → s.arg.flag = true → t.mailbox = s.mailbox.drop 1) ∧
       (s.arg.j = 7 → s.arg.flag = false → k < 4 → (t.die k).mgmt = (s.die k).mgmt.drop 1) ∧
       (s.arg.j = 8 → t.pstep = s.arg.w.setWidth 2) ∧
       (s.arg.j = 9 → ((s.stage = 2 ∧ (∀ q, q < 48 → ∀ r ∈ dashed, r ∈ (s.cluster q).dashed) ∧ ∀ p, p < 35 → (s.port p).st ≠ .down) → t.stage = 3) ∧
         (¬(s.stage = 2 ∧ (∀ q, q < 48 → ∀ r ∈ dashed, r ∈ (s.cluster q).dashed) ∧ ∀ p, p < 35 → (s.port p).st ≠ .down) → t = s)) ∧
       (s.arg.j = 10 → t.meas2 = extendMeas s.meas2 s.arg.bytes)))

/-- Power-up and recovery (22 R432-R436, R438-R440): an accepted image starts firmware and extends the measurements; a refused one leads to recovery with its cause, where the staging area can be filled, except while a verification runs, which a write of 1 to RLOAD begins and which ends in its own event; a module reset before that leaves the flash as it was; the minimum version only rises, up to the running version; module reset and a thermal trip put every register at its reset value but keep flash and fuses and drop every connection of the host port, and a tripped module recovers below 95 °C. What a reset leaves of the model's own records, the signature checks on the keys, the first check that fails, and the trip as one event are the model's choice (assumptions 7, 22, 55, 56, 57). Power, telemetry and attestation (22 R437, R438, R440): the power limit takes 1,000 to 2,800 W; a step down adds one step up to 3; the telemetry block is renewed with what was measured and with the stage, the cause and the versions of that moment; a request of 36 bytes with code 1 is answered while the signing key has capacity, whose state has then advanced; another message waits in a mailbox buffer. A message without firmware or a buffer is told to come again (assumption 87); past the key's capacity reports are refused. -/
def Obligations.DeviceEvents : Prop :=
  ((∀ (s : State),
     (s.stage = 0 → s.tripped = false → ∃ t : State, exec .powerUp s = .next t ∧ t.hostUp = true ∧
       (if imageCause s.fsvn s.flash = 0 then t.stage = 2 ∧ t.failCause = 0 ∧ t.svn.toNat = imgSvn s.flash ∧ t.meas0 = extendMeas s.meas0 Config.romDigest ∧
         t.meas1 = extendMeas s.meas1 (imgHeader s.flash)
       else t.stage = 1 ∧ t.failCause.toNat = imageCause s.fsvn s.flash)) ∧
     (controlTaken s s.arg.bytes.length → s.stage = 1 → s.verifying = false → ∃ t : State, exec .stagingWrite s = .next t ∧ ∀ j, j < 2 ^ 26 → SMap.get 0 t.staging j = written (SMap.get 0 s.staging j) s.arg.w.toNat s.arg.bytes j) ∧
     (s.stage ≠ 1 ∨ s.verifying = true → controlTaken s s.arg.bytes.length → exec .stagingWrite s = .next s.acked) ∧
     (controlTaken s 8 → s.arg.flag = false → exec .rload s = .next (if s.stage = 1 ∧ s.arg.w = 1 then { s.acked with verifying := true } else s.acked)) ∧
     (s.arg.flag = true → s.stage ≠ 1 ∨ s.verifying = false → exec .rload s = .next s) ∧
     (s.arg.flag = true → s.stage = 1 → s.verifying = true →
       ∃ t : State, exec .rload s = .next t ∧ t.verifying = false ∧ (if imageCause s.fsvn s.stagedImage = 0 then t.flash = s.stagedImage ∧ t.stage = 2 ∧ t.svn.toNat = imgSvn s.stagedImage
         else t.flash = s.flash ∧ t.stage = 1 ∧ t.failCause.toNat = imageCause s.fsvn s.stagedImage)) ∧
     (let v := s.arg.w.toNat;
       (controlTaken s 8 → s.fsvn.toNat < v → v ≤ s.svn.toNat → ∃ t : State, exec .minsvn s = .next t ∧ t.fsvn.toNat = v) ∧
       (controlTaken s 8 → ¬(s.fsvn.toNat < v ∧ v ≤ s.svn.toNat) → exec .minsvn s = .next s.acked)) ∧
     (controlTaken s 8 → s.arg.w = 0x52535431 → ∃ t : State, exec .mreset s = .next t ∧ t.stage = 0 ∧ t.flash = s.flash ∧ t.fsvn = s.fsvn ∧ t.kernels = [] ∧ t.meas0 = 0 ∧ t.hostUp = false ∧ t.verifying = false ∧ (∀ c, (t.qpair c).on = false) ∧
       ∀ k, k < 48 → t.cluster k = { Cluster.reset with mem := (t.cluster k).mem }) ∧
     (controlTaken s 8 → s.arg.w ≠ 0x52535431 → exec .mreset s = .next s.acked) ∧
     (120 ≤ s.arg.i → ∃ t : State, exec .thermalTrip s = .next t ∧ t.tripped = true ∧ t.stage = 0 ∧ t.flash = s.flash ∧ t.hostUp = false) ∧
     (s.arg.i < 120 → exec .thermalTrip s = .next s) ∧
     (s.tripped = true → s.arg.i < 95 → exec .thermalRecover s = .next { s with tripped := false }) ∧
     (95 ≤ s.arg.i → exec .thermalRecover s = .next s)) ∧
   (∀ (f : BitVec 6) (l : List Byte),
     (imgNat l 0 4 ≠ 0x47504231 ∨ (l.drop 0x10).take 48 ≠ sha384 ((l.drop 4096).take (imgNat l 8 8)) ∨ imgSvn l < f.toNat ∨ 63 < imgSvn l) → imageCause f l ≠ 0)) ∧
  (∀ (s : State),
     (let v := s.arg.w.toNat % 2 ^ 12;
       (controlTaken s 8 → 1000 ≤ v → v ≤ 2800 → exec .plimit s = .next { s.acked with watts := BitVec.ofNat 12 v }) ∧
       (controlTaken s 8 → ¬(1000 ≤ v ∧ v ≤ 2800) → exec .plimit s = .next s.acked)) ∧
     (2800 < s.arg.i → ∃ t : State, exec .powerStepDown s = .next t ∧ t.pstep.toNat = Nat.min 3 (s.pstep.toNat + 1)) ∧
     (s.arg.i ≤ 2800 → exec .powerStepDown s = .next s) ∧
     (∃ t : State, exec .telemetryUpdate s = .next t ∧ t.power = BitVec.ofNat 12 s.arg.i ∧ t.tdie = BitVec.ofNat 8 s.arg.j ∧ t.thbm = BitVec.ofNat 8 s.arg.c ∧
       t.tstat.toNat = s.stage.toNat + 4 * s.failCause.toNat + 64 * s.fsvn.toNat + 4096 * s.svn.toNat) ∧
     (inTurn s → (s.qpair s.arg.c).msg ≠ none → closesPair s (exec .attestationRequest s) Output.hostInvalid) ∧
     (inTurn s → (s.qpair s.arg.c).msg = none → (s.qpair s.arg.c).held ≠ [] → exec .attestationRequest s = .next s) ∧
     (inTurn s → (s.qpair s.arg.c).msg = none → (s.qpair s.arg.c).held = [] →
       (4096 < s.arg.bytes.length → closesPair s (exec .attestationRequest s) Output.hostInvalid) ∧
       (s.arg.bytes.length ≤ 4096 → (s.stage.toNat < 2 ∨ 64 ≤ s.mailbox.length) → exec .attestationRequest s = .next { s with outbox := s.outbox ++ [.hostRnr] }) ∧
       (2 ≤ s.stage.toNat → s.mailbox.length < 64 →
         (s.arg.bytes.length = 36 → leNat (s.arg.bytes.take 4) = 1 → ∃ t : State, exec .attestationRequest s = .next t ∧
           (s.hss < Config.hssCapacity → t.hss = s.hss + 1 ∧ ∃ r : State, r.hss = s.hss + 1 ∧ { r with hss := s.hss } = s ∧
             t.outbox = s.outbox ++ [Output.hostAck, .report (r.report (s.arg.bytes.drop 4))]) ∧
           (Config.hssCapacity ≤ s.hss → t = s.acked)) ∧
         (s.arg.bytes.length ≤ 4096 → (s.arg.bytes.length ≠ 36 ∨ leNat (s.arg.bytes.take 4) ≠ 1) →
           exec .attestationRequest s = .next { s.acked with mailbox := s.mailbox ++ [s.arg.bytes] }))))

/-- The header beat (20 R404, R405): a packet sent with a sequence number is received with every field as sent, and its check is good, and it is malformed exactly if its kind is unknown or that of a link control packet, which a packet in sequence is not, or its destination does not exist. The collective tag and the acquire mark, which the header map does not place, travel beside it (assumption 18). That control packets have MODE relaxed and no other packet has their kinds is assumption 69. Packets on a fabric port (20 R407-R411): a port in TRAIN comes UP with the neighbour that a LINKID names; one that fails its check is counted and refused; on an UP port the next in sequence, with room for its class, is accepted, and one for a cluster of the own device joins that cluster's inbox; one out of sequence ahead is dropped, and one already accepted is acknowledged again; a malformed one, control packets included, is acted on no further and recorded (21 R428). The format of control packets is the model's choice (assumption 69). -/
def Obligations.PacketsOnTheLink : Prop :=
  (∀ (seq ackn : BitVec 16) (p : Packet), p.fits →
     let l := wire seq ackn p
     let h := leNat (l.take 32)
     wireGood l = true ∧ headerPacket h (l.drop 32) p.tag p.acq = { p with adm := false, part := 0, bad := false, no := 0 } ∧ h % 2 ^ 16 = seq.toNat ∧ h / 2 ^ 16 % 2 ^ 16 = ackn.toNat ∧
     (malformed h = true ↔ knownKind p.kind = false ∨ p.kind = kACK ∨ p.kind = kLINKID ∨ Config.maxDevice < p.ddev ∨ 47 < p.dcl)) ∧
  (∀ (s : State) (p : Packet) (seq ackn : BitVec 16), let n := s.arg.k
     let x := (portClock s n).port n
     let u := (portClock s n).ackReceived n ackn false
     (35 ≤ n → exec .linkPacketReceive s = .next s) ∧
     (n < 35 → (s.port n).st ≠ .up → (s.port n).st ≠ .train → exec .linkPacketReceive s = .next (portClock s n)) ∧
     (∀ dev, n < 35 → (s.port n).st = .train → dev < 2048 → s.arg.bytes = controlWire ackn false kLINKID dev →
       ∃ t : State, exec .linkPacketReceive s = .next t ∧ (t.port n).st = .up ∧ (t.port n).nbr = BitVec.ofNat 11 dev) ∧
     (n < 35 → (s.port n).st = .train → wireGood s.arg.bytes = false → exec .linkPacketReceive s = .next (portClock s n)) ∧
     (n < 35 → (s.port n).st = .up → wireGood s.arg.bytes = false → ∃ t : State, exec .linkPacketReceive s = .next t ∧ (t.port n).crcerr = sat16 x.crcerr ∧
       (t.port n).exp = x.exp ∧ ∀ k, (t.cluster k).inbox = (s.cluster k).inbox) ∧
     (∀ kind dev, n < 35 → (s.port n).st = .up → kind ≠ kACK → kind ≠ kLINKID → beats kind 1 = 0 → s.arg.bytes = controlWire ackn false kind dev →
       ∃ t : State, exec .linkPacketReceive s = .next t ∧ t.clusters = u.clusters ∧ (t.port n).exp = (u.port n).exp ∧ portRecord u t n 5) ∧
     (n < 35 → (s.port n).st = .up → p.fits → s.arg.bytes = wire seq ackn p → s.arg.w.setWidth 8 = p.tag → s.arg.flag = p.acq → let e := (u.port n).exp
       (seq = e → (u.port n).classUsed (p.hop + 4 * bnat p.rpl) + p.bytes ≤ 65536 →
         (knownKind p.kind = true → p.kind ≠ kACK → p.kind ≠ kLINKID → p.ddev ≤ Config.maxDevice → p.dcl ≤ 47 → p.ddev = u.deviceNo → p.kind ≠ kMGMT → ∃ t : State, exec .linkPacketReceive s = .next t ∧
           (t.cluster p.dcl).inbox = (u.cluster p.dcl).inbox ++ [{ p with adm := false, part := 0, bad := false, no := 0 }] ∧ (t.port n).exp = e + 1) ∧
         (knownKind p.kind = false ∨ p.kind = kACK ∨ p.kind = kLINKID ∨ Config.maxDevice < p.ddev ∨ 47 < p.dcl →
           ∃ t : State, exec .linkPacketReceive s = .next t ∧ (t.port n).exp = e + 1 ∧ t.clusters = u.clusters ∧ portRecord u t n 5)) ∧
       (seq = e → 65536 < (u.port n).classUsed (p.hop + 4 * bnat p.rpl) + p.bytes → ∃ t : State, exec .linkPacketReceive s = .next t ∧
         (t.port n).room = sat16 (u.port n).room ∧ (t.port n).exp = e) ∧
       (seq ≠ e → (seq - e).toNat ≤ 32767 → exec .linkPacketReceive s = .next u) ∧
       (32767 < (seq - e).toNat → ∃ t : State, exec .linkPacketReceive s = .next t ∧ t.outbox = u.outbox ++ [.ack n e false])))

/-- Acknowledgement, timers and the states of a port (20 R408-R410, 01 R27): an acknowledgement frees the replay entries behind it; a port acknowledges after 64 packets or 128 clk; it resends its replay buffer in order after 4,096 clk without progress, and fails after 32 such rounds; it trains when enabled and sends its own LINKID, comes UP with its neighbour's number, and goes DOWN when disabled; a management message reaches its die controller. Firmware that runs enables it (22 R432). The time from which a round counts, the numbers and the empty replay buffer at the start of training and the control packets are the model's choice (assumptions 85, 17, 69). Packets that firmware cancels (20 R418): those in places of a cluster to the device named end as failed with LINK_ERR, and so does a request of this module that a port holds, waiting, in its replay buffer or in transit, while its place still holds that request; no port sends one of them again. A request of another module that a port holds is answered FAIL with LINK_ERR, so that its origin ends it (assumption 44). That a cancelled packet's sequence number stays used is assumption 86. -/
def Obligations.PortAndLinkEvents : Prop :=
  (∀ (s : State), let n := s.arg.k
     let x := (portClock s n).port n
     (n < 35 → (s.port n).st = .up → ∃ t : State, exec .ack s = .next t ∧ (t.port n).lastAck = s.arg.w.setWidth 16 ∧
       ((s.port n).waiting = [] → (∀ i, (s.port i).input = []) →
         (t.port n).replay = (s.port n).replay.filter (fun l => !decide ((s.arg.w.setWidth 16 - l.seq).toNat ≤ 1024 ∧ s.arg.w.setWidth 16 ≠ l.seq)))) ∧
     ((s.port n).st ≠ .up → exec .ack s = .next s ∧ exec .ackTimer s = .next s ∧ exec .replayTimeout s = .next s ∧ exec .linkFail s = .next s) ∧
     ((s.port n).st = .up → (64 ≤ x.unacked ∨ (x.unacked ≠ 0 ∧ x.unackedSince + 128 ≤ x.time)) → ∃ t : State, exec .ackTimer s = .next t ∧
       t.outbox = s.outbox ++ [.ack n x.exp false] ∧ (t.port n).unacked = 0) ∧
     (x.unacked < 64 → (x.unacked = 0 ∨ x.time < x.unackedSince + 128) → exec .ackTimer s = .next s) ∧
     ((s.port n).st = .up → x.replay ≠ [] → x.ackTime + 4096 ≤ x.time → ∃ t : State, exec .replayTimeout s = .next t ∧
       t.outbox = s.outbox ++ x.replay.map (fun l => Output.link n x.exp l) ∧ (t.port n).rounds = x.rounds + 1 ∧ (t.port n).replay = x.replay) ∧
     (x.time < x.ackTime + 4096 → exec .replayTimeout s = .next s) ∧
     (n < 35 → (s.port n).st = .down → 2 ≤ s.stage.toNat → ∃ t : State, exec .portEnable s = .next t ∧ t.outbox = s.outbox ++ [.linkid n s.deviceNo] ∧ (t.port n).st = .train ∧ (t.port n).seq = 0 ∧ (t.port n).exp = 0) ∧
     (((s.port n).st ≠ .down ∨ s.stage.toNat < 2) → exec .portEnable s = .next s) ∧
     (n < 35 → (s.port n).st = .train → ∃ t : State, exec .linkid s = .next t ∧ (t.port n).st = .up ∧ (t.port n).nbr = BitVec.ofNat 11 s.arg.i) ∧
     ((s.port n).st = .up → 32 ≤ (s.port n).rounds → ∃ t : State, exec .linkFail s = .next t ∧ (t.port n).st = .failed) ∧
     ((s.port n).rounds < 32 → exec .linkFail s = .next s) ∧
     (35 ≤ n → exec .ack s = .next s ∧ exec .portEnable s = .next s ∧ exec .linkid s = .next s ∧ exec .portDisable s = .next s) ∧
     (n < 35 → ∃ t : State, exec .portDisable s = .next t ∧ (t.port n).st = .down ∧ (t.port n).replay = (s.port n).replay) ∧
     (4 ≤ n → exec .mgmt s = .next s) ∧
     (n < 4 → ∃ t : State, exec .mgmt s = .next t ∧ (t.die n).mgmt = (s.die n).mgmt ++ [s.arg.bytes])) ∧
  (∀ (s : State),
     let toIt := fun (p : Packet) => p.ddev == s.arg.i
     let held := fun (n : Nat) => (s.port n).waiting ++ (s.port n).replay.map (·.pkt) ++ (s.port n).input.map (·.2)
     let without := fun (x : FPort) (gone : Packet → Bool) => { x with
       waiting := x.waiting.filter (fun p => !gone p), replay := x.replay.filter (fun l => !gone l.pkt), input := x.input.filter (fun q => !gone q.2) }
     let u : State := { s with ports := s.ports.map (fun q => (q.1, without q.2 toIt)), stranded := s.stranded.filter (fun p => !toIt p) }
     let none_ := (∀ q ∈ s.ports, ∀ p ∈ q.2.waiting ++ q.2.replay.map (·.pkt) ++ q.2.input.map (·.2), toIt p = false ∨ p.rpl = true) ∧
       ∀ p ∈ s.stranded, toIt p = false ∨ p.rpl = true
     (∀ q n pl, s.arg.flag = true → none_ → q < 48 → (s.cluster q).places = [(n, pl)] → pl.pkt.ddev = s.arg.i → (∀ j, j < 48 → j ≠ q → (s.cluster j).places = []) →
       exec .cancelHeldPackets s = .next (u.cancelPlace q n)) ∧
     (s.arg.flag = true → none_ → (∀ j, j < 48 → ∀ p ∈ (s.cluster j).places, p.2.pkt.ddev ≠ s.arg.i) → exec .cancelHeldPackets s = .next u) ∧
     (s.arg.flag = false → let v := s.modPort s.arg.k (fun x => { x with waiting := [], replay := [], input := [] })
       (∀ p, held s.arg.k = [p] → p.rpl = false →
         (p.sdev = s.deviceNo → ((SMap.find (v.cluster p.scl).places p.rtag).any (fun pl => pl.pkt.no == p.no)) = true →
           exec .cancelHeldPackets s = .next (v.cancelPlace p.scl p.rtag)) ∧
         (p.sdev = s.deviceNo → ((SMap.find (v.cluster p.scl).places p.rtag).any (fun pl => pl.pkt.no == p.no)) = false → exec .cancelHeldPackets s = .next v) ∧
         (p.sdev ≠ s.deviceNo → exec .cancelHeldPackets s = .next (v.failReply p cLINK))) ∧
       ((∀ p ∈ held s.arg.k, p.rpl = true) → exec .cancelHeldPackets s = .next v)) ∧
     (∀ q n pl, (s.cluster q).places = [(n, pl)] → (s.cancelPlace q n) = (s.modCluster q (fun c => { c with places := [] })).requestFailed q pl cLINK))

/-- The frame of the scalar instructions with one destination (06, 03 R59): an issue of one that takes no trap leaves every register as it is until its result lands, moves on as the loop unit says, or waits for a Handle with nothing done, sends at most one result, which is for its own destination, keeps the results already on their way, and leaves every accumulator, Token, Handle, Port, special register and exception register of the Context, every byte of memory and all of every other cluster. -/
def Obligations.FrameOfScalarInstructions : Prop :=
  ∀ (s t : State) (k c : Nat) (i : Instr), s.issuing k c = true → slotOf i ≠ none → registerOnly s k c i = true → exec i s = .next t →
    (∃ tr b, t = s.enterTrap k c tr b) ∨
      (waitsFor s t k c .handle ∧ (t.context k c).flights = (s.context k c).flights ∧ (t.context k c).v = (s.context k c).v ∧ (t.context k c).loops = (s.context k c).loops ∧
        (∀ a, (t.cluster k).byte a = (s.cluster k).byte a) ∧ ∀ j, j ≠ k → t.cluster j = s.cluster j) ∨
      ((t.context k c).rest = (s.context k c).rest ∧
        (((t.context k c).loops = (s.context k c).loops ∧ (t.context k c).mode = (s.context k c).mode) ∨ afterBundle (s.context k c) (t.context k c) 12) ∧ (∀ a, (t.cluster k).byte a = (s.cluster k).byte a) ∧ (t.cluster k).mem = (s.cluster k).mem ∧
        (t.cluster k).tiles = (s.cluster k).tiles ∧ (t.cluster k).wb = (s.cluster k).wb ∧ (t.cluster k).ab = (s.cluster k).ab ∧ t.engines = s.engines ∧
        t.kernels = s.kernels ∧ t.ports = s.ports ∧ (∀ j, j ≠ k → t.cluster j = s.cluster j) ∧
        (t.context k c).flights.length ≤ (s.context k c).flights.length + 1 ∧
        (∀ f' ∈ (s.context k c).flights, ∃ f ∈ (t.context k c).flights, f.dest = f'.dest ∧ f.data = f'.data ∧ f.poison = f'.poison) ∧
        ∀ f ∈ (t.context k c).flights, (∃ f' ∈ (s.context k c).flights, f'.dest = f.dest ∧ f'.data = f.data) ∨
          (∃ g d a b lat h, arithmeticRow i = some (g, d, a, b, lat, h) ∧ f.dest = .s d) ∨ (∃ g d a b h, shiftRow i = some (g, d, a, b, h) ∧ f.dest = .s d) ∨
          (∃ g e as ps m ls, pairRow (s.context k c) i = some (g, e, as, ps, m) ∧ f.dest = .pair e ls) ∨
          (∃ g d as ps bs v, readRow s k c i = some (g, d, as, ps, bs, v) ∧ f.dest = .s d))

/-- One issue of a bundle (03 R57-R66, 05 R111, R112, R122): a bundle of idle words takes its ic, goes on to its next issue or past its bytes, where the loop unit's levels may end (`afterBundle`), counts as a bundle at its first issue, steps ROT and the stage predicates with RSTEP, leaves registers and memory, and without KEEP clears the sticky words of absent slots; one bundle past the limit of SMAX raises RUNAWAY; a bundle with fewer issues than the one that an `eret` returns to raises ILLEGAL, a reserved header bit too, both without a slot; an undecodable word raises ILLEGAL in its slot. That the header's ILLEGAL is named by SLOT 7, before any slot's, is the model's choice (assumption 30). The look-ahead nullifier (03 R77, R78): a bundle that can be skipped passes without an ic or a clk; the PC and the loop unit's levels stand as after its issue, and registers, memory and what is in flight stay; one past the limit of SMAX raises RUNAWAY. A bundle that cannot be skipped stays. -/
def Obligations.BundlesIssueOrPass : Prop :=
  (∀ (s : State) (k c : Nat) (b : Bundle), onTurn s k c → settledReleases s k →
     let x := s.context k c
     let traps := fun (code : BitVec 16) (slot : Nat) => exec (.bundleIssue b) s = .next (s.enterTrap k c (Trap.slotTrap code slot x.iter) false)
     (running s k c b.rep.toNat → idleBundle x b → ∃ t : State, exec (.bundleIssue b) s = .next t ∧
       let y := t.context k c
       (x.iter < b.rep.toNat → y.iter = x.iter + 1 ∧ y.pc = x.pc ∧ y.loops = x.loops ∧ y.mode = x.mode ∧
         y.bcount = (if x.iter = 0 ∧ x.h = false then x.bcount + 1 else x.bcount)) ∧
       (x.iter = b.rep.toNat → y.iter = 0 ∧ y.xferred = false ∧ afterBundle x y b.bytes) ∧ y.s = x.s ∧ y.a = x.a ∧ y.v = x.v ∧
       (b.rstep = false → y.p = x.p ∧ y.rot = x.rot) ∧ (b.rstep = true → y.p = x.rstep.p ∧ y.rot = x.rstep.rot) ∧
       (b.a = none → y.sticky.a = none) ∧ (b.v0 = none → y.sticky.v0 = none) ∧ (b.v1 = none → y.sticky.v1 = none) ∧ (b.e = none → y.sticky.e = none) ∧
       (t.cluster k).ic = (s.cluster k).ic + 1 ∧ (t.cluster k).clk = (s.cluster k).clk + 1 ∧ (t.cluster k).mem = (s.cluster k).mem ∧ (t.cluster k).dirty = (s.cluster k).dirty) ∧
     (b.rep.toNat < x.iter → traps cILLEGAL 7) ∧
     (x.iter = 0 → x.h = false → (s.cluster k).smax ≠ 0 → (s.cluster k).smax.toNat ≤ x.bcount.toNat → traps cRUNAWAY 7) ∧
     (running s k c b.rep.toNat → b.rsv ≠ 0 → traps cILLEGAL 7) ∧
     (∀ l r sl w f, running s k c b.rep.toNat → b.rsv = 0 → b.hwin = false → b.keep = false → (b.rep ≠ 0 → b.s = none) → b.words = l ++ (sl, w) :: r →
       (∀ p ∈ l, ∃ i, decodeWord p.1 p.2 = .ok i ∧ idleWord i = true ∧ x.readyP (guardOf i) = true) → decodeWord sl w = .error f →
       (∀ p ∈ r, ∃ g, decodeWord p.1 p.2 = .error g) → traps cILLEGAL (slotCode sl))) ∧
  (∀ (s : State) (k c : Nat) (b : Bundle), onTurn s k c →
     (skippable (s.cluster k) (s.context k c) b = false → exec (.bundleSkip b) s = .next s) ∧
     (skippable (s.cluster k) (s.context k c) b = true → runaway (s.cluster k) (s.context k c) = true →
       exec (.bundleSkip b) s = .next (s.enterTrap k c (Trap.slotTrap cRUNAWAY 7 0) false)) ∧
     (skippable (s.cluster k) (s.context k c) b = true → runaway (s.cluster k) (s.context k c) = false → ∃ t : State, exec (.bundleSkip b) s = .next t ∧
       let x := s.context k c
       let y := t.context k c
       afterBundle x y b.bytes ∧ y.iter = 0 ∧ y.s = x.s ∧ y.a = x.a ∧ y.v = x.v ∧ (b.rstep = false → y.p = x.p ∧ y.rot = x.rot) ∧
       y.flights = x.flights ∧ (t.cluster k).ic = (s.cluster k).ic ∧ (t.cluster k).clk = (s.cluster k).clk ∧
       (t.cluster k).mem = (s.cluster k).mem ∧ (t.cluster k).dirty = (s.cluster k).dirty ∧ ∀ j, j ≠ k → t.cluster j = s.cluster j))

/-- The slots of one issue (03 R59, R62-R64): the S and the A word of a bundle act together, on the values from before the issue, or neither does: while an operand is on its way a clk passes, with one word to wait the Context waits and the other sends nothing, and a trap of a later slot prevails over the wait. A word alone in its bundle, or re-issued from its sticky slot with KEEP, does what it does with its n, 0 at its first issue and one more at each, REP repeats included; an address steps with it, and n counts in an issue whose guard is off. That an operand still to arrive goes before another word's wait or trap is the model's choice (assumption 32), and so is the n of a bundle that an `eret` enters past its first issue (assumption 93). -/
def Obligations.BundleSlots : Prop :=
  ∀ (s : State) (k c : Nat) (b : Bundle), running s k c b.rep.toNat → settledReleases s k →
    let x := s.context k c
    (∀ w1 w2 i1 m q, b.words = [(.s, w1), (.a, w2)] → b.rsv = 0 → b.hwin = false → b.keep = false → b.rep = 0 →
      decodeWord .s w1 = .ok i1 → decodeWord .a w2 = .ok (.aadd m q) → x.on m.g = true →
      (∀ g d r1 r2 lat f, arithmeticRow i1 = some (g, d, r1, r2, lat, f) → x.on g = true → x.readyS r1 = true → x.readyS r2 = true → x.freeS d = true → d ≠ 0 →
        (x.readyA m.b = true → exec (.bundleIssue b) s = .next (s.bundleIssued k c b (s.does k c (fun x =>
          { x with flights := x.flights ++ [flightS d (f (x.sreg r1) (x.sreg r2)) lat] ++ [flightA q (steppedAddress x m 0) 1] })))) ∧
        (x.flying (.a m.b) = true → exec (.bundleIssue b) s = .next (s.modCluster k (fun cl => cl.idleClk 1)))) ∧
      (∀ g r1 ts loc hs, waitRow x i1 = some (g, r1, ts, loc, hs) → x.on g = true → x.readyS r1 = true → x.readyA m.b = true →
        ts.any (fun t => !tokenDone x t && !(x.tok t).cmds.isEmpty) = true →
        ∃ t : State, exec (.bundleIssue b) s = .next t ∧ waitsFor s t k c .token ∧ (t.context k c).flights = x.flights)) ∧
    (∀ w1 w2 i1 g r1 ts loc hs f, b.words = [(.s, w1), (.a, w2)] → b.rsv = 0 → b.hwin = false → b.keep = false → b.rep = 0 →
      decodeWord .s w1 = .ok i1 → waitRow x i1 = some (g, r1, ts, loc, hs) → x.on g = true → x.readyS r1 = true →
      ts.any (fun t => !tokenDone x t && !(x.tok t).cmds.isEmpty) = true → decodeWord .a w2 = .error f →
      exec (.bundleIssue b) s = .next (s.enterTrap k c (Trap.slotTrap cILLEGAL 1 x.iter) false)) ∧
    (∀ sl w n sticky i wk, issuesOnly x b sl w n sticky → decodeWord sl w = .ok i → decodeFault x sl i b.rep.toNat sticky = none →
      slotEffect i (issueOf s k c b (itemOf sl w n sticky) i) s.blank = .ok wk → wk.after = .stay → settledReleases wk.st k →
      exec (.bundleIssue b) s = .next (s.bundleIssued k c b wk) ∧
        stickyOf ((s.bundleIssued k c b wk).context k c) sl = if nonRepeatable sl i then none else some { word := w, n := n }) ∧
    (∀ w n sticky m q, issuesOnly x b .a w n sticky → decodeWord .a w = .ok (.aadd m q) → x.readyP m.g = true →
      (x.on m.g = true → x.readyA m.b = true → exec (.bundleIssue b) s = .next (s.bundleIssued k c b (s.resultA k c q (steppedAddress x m n.toNat)))) ∧
      (x.on m.g = false → exec (.bundleIssue b) s = .next (s.bundleIssued k c b s.blank)))

/-- Words that the manual writes out (03, 05, 06, 08-12, 14-19) decode to the instructions that it writes beside them. -/
def Obligations.DecodedWords : Prop :=
  let e := fun (kp ka : BitVec 6) => ({ g := 0, kp := kp, ka := ka, kb := 0, kc := 0 } : EF)
  decodeWord .s 0x0293_1C00_0000_0000 = .ok (.cmpi 0 6 7 .eq 0) ∧
  decodeWord .s 0x0400_180D_0000_0000 = .ok (.spawnLocal 0 6 5 true) ∧
  decodeWord .s 0x0410_1801_0000_0000 = .ok (.joinRecord 0 6) ∧
  decodeWord .a 0x0401_0100_0000_4000 = .ok (.pcfg 0 2 4 0 false) ∧
  decodeWord .a 0x0500_1800_0000_0000 = .ok (.tlbinv 0 3 0) ∧
  decodeWord .a 0x0523_8000_0000_0000 = .ok (.tlbinvAsid 0 7) ∧
  decodeWord .v0 0x4238_0104_3846_0000 = .ok (.vfma { slot := .v0, g := 4, d := 0x80, s1 := 0x10, s2 := 0x43, s3 := 0x84, ty := 6, rnd := 0, ftz := false, peek := false, need := 0, imm := 0 }) ∧
  decodeWord .s 0x0370_1001_0009_0020 = .ok (.loopSwp 0 4 1 9 0x20) ∧
  decodeWord .e 0x0080_4000_0460_0000 = .ok (.mxcfgLoad (e 1 0) 1 3 0) ∧
  decodeWord .e 0x0090_8100_0400_0000 = .ok (.mxgo (e 2 1) 1) ∧
  decodeWord .e 0x00B0_4000_0004_0280 = .ok (.mxtw (e 1 0) 1 false 5) ∧
  decodeWord .e 0x0190_4000_0348_0000 = .ok (.chset (e 1 0) 3 4 2) ∧
  decodeWord .e 0x0180_8100_0300_0000 = .ok (.chgo (e 2 1) 3) ∧
  decodeWord .e 0x03D1_4400_0800_3B00 = .ok (.gdisp (e 5 4) 8 3 5 true) ∧
  decodeWord .e 0x0391_8000_0400_0000 = .ok (.nmtopk (e 6 0) 4 0) ∧
  decodeWord .e 0x0402_4000_0000_0000 = .ok (.hem (e 9 0)) ∧
  decodeTableWord 96 (0x80000000 + 2 ^ 32 * 0x0293_1C00_0000_0000) = some (.cmpi 0 6 7 .eq 0)

/-- Decoding and encoding agree (03 R57, R67-R73, R80): the bytes of every bundle decode to that bundle, with whatever follows left over; those of a plain bundle that holds a well-formed slot instruction decode to that instruction; and words that decode to the same instruction in the same slot are the same word. -/
def Obligations.DecodingInvertsEncoding : Prop :=
  (∀ (b : Bundle) (r : List Byte), decodeBundle (b.encode ++ r) = some (b, r)) ∧
  (∀ (i : Instr) (sl : Slot) (w : Word) (r : List Byte), encode i = some (sl, w) → legal i = true → decode ((Bundle.single sl w).encode ++ r) = .ok (i, r)) ∧
  (∀ (sl : Slot) (w : Word) (i : Instr), decodeWord sl w = .ok i → encode i = some (sl, w) ∧ legal i = true)

/-- A step runs the decoded instruction: with nothing that stands before the issue, no trap or error waiting, and a bundle at the PC that is not skipped, the step is that bundle's instruction on the state after the fetch; a bundle that is skipped passes; a fetch that fails takes its trap. Which core moves, and what stands before its issue, is the model's choice (assumption 5). What else a step runs (22 R439): a machine event at the head of the agenda, with its numbers, if it names a part that the module has (01 R17), and, before one in which clk of a core pass, the abort of a Hem round that is due (15 R317); while a thermal trip holds the module in reset, none but its recovery; an error that waits and can be delivered, then a trap that waits, before any fetch. That a delivered error stands before a trap that firmware delivered is the model's choice (assumption 42). -/
def Obligations.StepRunsWhatIsNext : Prop :=
  (∀ (s u : State) (c : Nat), s.agenda = [] → s.tripped = false → s.cur < Config.clusters → s.urgent s.cur = none → (s.cluster s.cur).runCtx = some c →
     (s.context s.cur c).trapPending = none → ((s.context s.cur c).errors = [] ∨ (s.context s.cur c).h = true) →
     (∀ bs b r, s.fetch s.cur c = (.ok bs, u) → decodeBundle bs = some (b, r) →
       (∀ i, skippable (u.cluster s.cur) (u.context s.cur c) b = false → b.instr = .ok i → step s = exec i u) ∧
       (∀ x, skippable (u.cluster s.cur) (u.context s.cur c) b = false → b.instr = .error x → step s = exec (.bundleIssue b) u) ∧
       (skippable (u.cluster s.cur) (u.context s.cur c) b = true → step s = exec (.bundleSkip b) u)) ∧
     (∀ f, s.fetch s.cur c = (.error f, u) → step s = exec .fetchFault { s with arg := argOf s.cur })) ∧
  (∀ (s : State),
     (∀ i a r, s.agenda = .event i a :: r →
       let u : State := { s with agenda := r, arg := a }
       (isEvent i = true → namesPart i a = true → (s.tripped = false ∨ i = .thermalRecover) →
         step s = exec i (if i ∈ [.switchIn, .trapEntry, .errorDelivery, .fetchFault] then u.hemAbort else u)) ∧
       ((isEvent i = false ∨ namesPart i a = false ∨ (s.tripped = true ∧ i ≠ .thermalRecover)) → step s = .next u)) ∧
     (∀ i a, namesPart i a = true → a.k < 48) ∧
     (s.agenda = [] → s.tripped = true → step s = .next s) ∧
     (∀ c, s.agenda = [] → s.tripped = false → s.cur < Config.clusters → s.urgent s.cur = none → (s.cluster s.cur).runCtx = some c →
       ((s.context s.cur c).trapPending ≠ none → ((s.context s.cur c).errors = [] ∨ (s.context s.cur c).h = true) → step s = exec .trapEntry { s with arg := argOf s.cur }) ∧
       ((s.context s.cur c).errors ≠ [] → (s.context s.cur c).h = false →
         step s = exec .errorDelivery { s with arg := argOf s.cur })))

/-- The module after reset: values that the manual gives (05 R103, R107, 12 R278, 13 R291, R292, 15 R314, 19 R389, 20 R410, 22 R432, R436, R438): no Context runs, every Queue is empty and every kernel-table entry FREE, the control registers stand at their reset values, the ports are DOWN, the measurements are 0, and the boot stage is 0. That the memory lists nothing, and so reads 0, is the model's choice (assumption 3); so are HGEN 0, the kernel table's bytes, TLBs and L1D that hold nothing and the scale latch of 0x7F (assumption 1), and no cluster's dash registers are named here (assumption 2). -/
def Obligations.ResetState : Prop :=
  State.reset.stage = 0 ∧ State.reset.kernels = [] ∧ State.reset.hgen = 0 ∧ State.reset.meas0 = 0 ∧ State.reset.meas1 = 0 ∧ State.reset.meas2 = 0 ∧
  State.reset.watts = 2800 ∧ State.reset.pstep = 0 ∧ State.reset.telemetry = 0 ∧
  (∀ i, (State.reset.kernel i).st = .free) ∧
  (∀ k, k < 48 → let c := State.reset.cluster k
    c.levels = [] ∧ c.kernel = none ∧ c.runCtx = none ∧ c.tlb1 = [] ∧ c.dirty = [] ∧ c.mem = [] ∧ c.latch = 0x7F7F7F7F7F7F7F7F ∧ c.hemOn = false) ∧
  (∀ k c, k < 48 → c < 4 → (State.reset.context k c).st = .free ∧ (State.reset.context k c).h = false ∧
    let reads := fun (n : Nat) => ctlRead (State.reset.cluster k) (State.reset.context k c) k c 0 n
    reads 0x03 = BitVec.ofNat 64 c ∧ reads 0x04 = BitVec.ofNat 64 k ∧
    ∀ n ∈ [0x01, 0x02, 0x08, 0x09, 0x0A, 0x0B, 0x0C, 0x0D, 0x0E, 0x0F, 0x10, 0x11, 0x12, 0x13, 0x14, 0x15, 0x20, 0x21, 0x22, 0x23, 0x24, 0x25, 0x26, 0x27, 0x28,
      0x29, 0x2A, 0x42, 0x45, 0x46, 0x47, 0x48, 0x49, 0x4A, 0x4C, 0x4D, 0x4E, 0x4F, 0x54, 0x58, 0x59, 0x5A], reads n = 0) ∧
  (∀ n, n < 35 → (State.reset.port n).st = .down) ∧ State.reset.memoriesCanonical

/-- Every step keeps every memory, WB and AB in its canonical form, where addresses strictly rise and no byte that an unlisted address reads as is listed, and keeps the dirty bytes of every L1D in the order of their addresses. `TrapEntryEffect`, `ScalarLoads`, `ScalarStores`, `VectorStores`, `LocalAtomics`, `TlbInvalidation` and `FirmwareAndErrorEvents` take that order as a hypothesis. -/
def Obligations.StepsKeepMemoryCanonical : Prop :=
  ∀ (s t : State), s.memoriesCanonical → step s = .next t → t.memoriesCanonical

/-- The minimum version never falls (22 R433, R434), whatever the module does: no instruction, no packet and no host access lowers it, and module reset and a thermal trip keep it. -/
def Obligations.MinimumVersionNeverFalls : Prop :=
  ∀ (s t : State), step s = .next t → s.fsvn.toNat ≤ t.fsvn.toNat
end

