-- ==== Sys2Proof/Laws/Map.lean ====
section
/-! SUPPORT. Keyed lists: what a read after a write, a removal or a canonical write gives, and that these keep the canonical form. -/

namespace Sys2Proof



variable {α : Type}

@[simp] theorem SMap.get_put_same (d : α) (m : SMap α) (k : Nat) (v : α) : SMap.get d (SMap.put m k v) k = v := by
  induction m with
  | nil => simp [SMap.put, SMap.get]
  | cons p t ih =>
    obtain ⟨k', v'⟩ := p
    simp only [SMap.put]
    split
    · simp [SMap.get]
    · split
      · simp [SMap.get]
      · rename_i h1 h2
        simp [SMap.get, h2, ih]

theorem SMap.get_put_ne (d : α) (m : SMap α) {k j : Nat} (v : α) (h : j ≠ k) : SMap.get d (SMap.put m k v) j = SMap.get d m j := by
  induction m with
  | nil => simp [SMap.put, SMap.get, h]
  | cons p t ih =>
    obtain ⟨k', v'⟩ := p
    simp only [SMap.put]
    split
    · simp [SMap.get, h]
    · split
      · rename_i h2
        subst h2
        simp [SMap.get, h]
      · simp only [SMap.get, ih]

theorem SMap.get_put (d : α) (m : SMap α) (k j : Nat) (v : α) :
    SMap.get d (SMap.put m k v) j = if j = k then v else SMap.get d m j := by
  split
  · next h => subst h; simp
  · next h => exact SMap.get_put_ne d m v h

@[simp] theorem SMap.put_put (m : SMap α) (k : Nat) (v w : α) : SMap.put (SMap.put m k v) k w = SMap.put m k w := by
  induction m with
  | nil => simp [SMap.put]
  | cons p t ih =>
    obtain ⟨k', v'⟩ := p
    by_cases h1 : k < k'
    · simp [SMap.put, h1]
    · by_cases h2 : k = k'
      · simp [SMap.put, h2]
      · simp [SMap.put, h1, h2, ih]

theorem SMap.find_put (m : SMap α) (k j : Nat) (v : α) :
    Machine.SMap.find (SMap.put m k v) j = if j = k then some v else Machine.SMap.find m j := by
  induction m with
  | nil => simp [SMap.put, Machine.SMap.find]
  | cons p t ih =>
    obtain ⟨k', v'⟩ := p
    by_cases h1 : k < k'
    · simp [SMap.put, h1, Machine.SMap.find]
    · by_cases h2 : k = k'
      · subst h2
        simp only [SMap.put, lt_self_iff_false, if_false, if_true, Machine.SMap.find]
        split <;> rfl
      · simp only [SMap.put, h1, h2, if_false, Machine.SMap.find, ih]
        split
        · next h => subst h; rw [if_neg (Ne.symm h2)]
        · rfl

theorem SMap.find_del (m : SMap α) (k j : Nat) : Machine.SMap.find (SMap.del m k) j = if j = k then none else Machine.SMap.find m j := by
  induction m with
  | nil => simp [SMap.del, Machine.SMap.find]
  | cons p t ih =>
    obtain ⟨k', v'⟩ := p
    by_cases h2 : k = k'
    · subst h2
      simp only [SMap.del, if_true, ih, Machine.SMap.find]
      split <;> rfl
    · simp only [SMap.del, h2, if_false, Machine.SMap.find, ih]
      split
      · next h => subst h; rw [if_neg (Ne.symm h2)]
      · rfl

theorem SMap.get_eq_find (d : α) (m : SMap α) (k : Nat) : SMap.get d m k = (Machine.SMap.find m k).getD d := by
  induction m with
  | nil => rfl
  | cons p t ih =>
    obtain ⟨k', v'⟩ := p
    simp only [SMap.get, Machine.SMap.find]
    split <;> simp [ih]

theorem SMap.get_del (d : α) (m : SMap α) (k j : Nat) : SMap.get d (SMap.del m k) j = if j = k then d else SMap.get d m j := by
  simp only [SMap.get_eq_find, SMap.find_del]
  split <;> rfl

theorem SMap.get_set [DecidableEq α] (d : α) (m : SMap α) (k j : Nat) (v : α) :
    SMap.get d (SMap.set d m k v) j = if j = k then v else SMap.get d m j := by
  simp only [SMap.set]
  split
  · next h => rw [SMap.get_del, h]
  · exact SMap.get_put d m k j v

/-! The canonical form. -/

theorem SMap.sorted_mono {lo lo' : Nat} {m : SMap α} (h : lo' ≤ lo) (hs : SMap.sorted lo m = true) : SMap.sorted lo' m = true := by
  cases m with
  | nil => rfl
  | cons p t =>
    simp only [SMap.sorted, Bool.and_eq_true, decide_eq_true_eq] at hs ⊢
    exact ⟨le_trans h hs.1, hs.2⟩

theorem SMap.sorted_put {lo k : Nat} {m : SMap α} {v : α} (hk : lo ≤ k) (hs : SMap.sorted lo m = true) :
    SMap.sorted lo (SMap.put m k v) = true := by
  induction m generalizing lo with
  | nil => simp [SMap.put, SMap.sorted, hk]
  | cons p t ih =>
    obtain ⟨k', v'⟩ := p
    simp only [SMap.sorted, Bool.and_eq_true, decide_eq_true_eq] at hs
    simp only [SMap.put]
    split
    · next h => simp [SMap.sorted, hk, h, hs.2]
    · split
      · next h => subst h; simp [SMap.sorted, hs.1, hs.2]
      · next h1 h2 =>
        simp only [SMap.sorted, Bool.and_eq_true, decide_eq_true_eq]
        exact ⟨hs.1, ih (by omega) hs.2⟩

theorem SMap.sorted_del {lo k : Nat} {m : SMap α} (hs : SMap.sorted lo m = true) : SMap.sorted lo (SMap.del m k) = true := by
  induction m generalizing lo with
  | nil => rfl
  | cons p t ih =>
    obtain ⟨k', v'⟩ := p
    simp only [SMap.sorted, Bool.and_eq_true, decide_eq_true_eq] at hs
    simp only [SMap.del]
    split
    · exact SMap.sorted_mono (by omega) (ih hs.2)
    · simp only [SMap.sorted, Bool.and_eq_true, decide_eq_true_eq]
      exact ⟨hs.1, ih hs.2⟩

theorem SMap.sorted_filter {lo : Nat} {m : SMap α} (f : Nat × α → Bool) (hs : SMap.sorted lo m = true) :
    SMap.sorted lo (m.filter f) = true := by
  induction m generalizing lo with
  | nil => rfl
  | cons p t ih =>
    obtain ⟨k', v'⟩ := p
    simp only [SMap.sorted, Bool.and_eq_true, decide_eq_true_eq] at hs
    simp only [List.filter_cons]
    split
    · simp only [SMap.sorted, Bool.and_eq_true, decide_eq_true_eq]
      exact ⟨hs.1, ih hs.2⟩
    · exact SMap.sorted_mono (by omega) (ih hs.2)

variable [DecidableEq α]

theorem SMap.lean_put {d : α} {m : SMap α} {k : Nat} {v : α} (hv : v ≠ d) (h : SMap.lean d m = true) :
    SMap.lean d (SMap.put m k v) = true := by
  induction m with
  | nil => simp [SMap.put, SMap.lean, hv]
  | cons p t ih =>
    obtain ⟨k', v'⟩ := p
    simp only [SMap.lean, Bool.and_eq_true, decide_eq_true_eq] at h
    simp only [SMap.put]
    split
    · simp [SMap.lean, hv, h.1, h.2]
    · split
      · simp [SMap.lean, hv, h.2]
      · simp [SMap.lean, h.1, ih h.2]

theorem SMap.lean_del {d : α} {m : SMap α} {k : Nat} (h : SMap.lean d m = true) : SMap.lean d (SMap.del m k) = true := by
  induction m with
  | nil => rfl
  | cons p t ih =>
    obtain ⟨k', v'⟩ := p
    simp only [SMap.lean, Bool.and_eq_true, decide_eq_true_eq] at h
    simp only [SMap.del]
    split
    · exact ih h.2
    · simp [SMap.lean, h.1, ih h.2]

/-- A canonical write keeps the canonical form. -/
theorem SMap.wf_set {d : α} {m : SMap α} {k : Nat} {v : α} (h : SMap.wf d m = true) : SMap.wf d (SMap.set d m k v) = true := by
  simp only [SMap.wf, Bool.and_eq_true] at h ⊢
  simp only [SMap.set]
  split
  · exact ⟨SMap.sorted_del h.1, SMap.lean_del h.2⟩
  · next hv => exact ⟨SMap.sorted_put (Nat.zero_le _) h.1, SMap.lean_put hv h.2⟩

/-- So do any number of them. -/
theorem SMap.wf_foldl_set {β : Type} {d : α} (key : β → Nat) (val : β → α) (l : List β) {m : SMap α} (h : SMap.wf d m = true) :
    SMap.wf d (l.foldl (fun m p => SMap.set d m (key p) (val p)) m) = true := by
  induction l generalizing m with
  | nil => exact h
  | cons p t ih => exact ih (SMap.wf_set h)

end Sys2Proof
end

