-- ==== Sys2Proof/Laws/Memory.lean ====
section
/-! SUPPORT. Memory: every operation on a slice keeps its canonical form, what a read after a write gives, and what writing back leaves. -/

namespace Sys2Proof.Machine

/-! The list that backs a slice. -/

theorem memPut_wf (bs : List Byte) {m : List Host.Cell} {pa : Nat} (h : Memory.wf m = true) : Memory.wf (memPut m pa bs) = true := by
  induction bs generalizing m pa with
  | nil => exact h
  | cons b t ih => exact ih (SMap.wf_set h)

/-- A read after a run of bytes has been written. -/
theorem memPut_get (bs : List Byte) (m : List Host.Cell) (pa j : Nat) :
    SMap.get 0 (memPut m pa bs) j = if pa ≤ j ∧ j < pa + bs.length then bs.getD (j - pa) 0 else SMap.get 0 m j := by
  induction bs generalizing m pa with
  | nil => simp [memPut]
  | cons b t ih =>
    simp only [memPut, ih, SMap.get_set, List.length_cons]
    by_cases h1 : j = pa
    · subst h1
      simp
    · by_cases h2 : pa + 1 ≤ j ∧ j < pa + 1 + t.length
      · have h3 : pa ≤ j ∧ j < pa + (t.length + 1) := by omega
        rw [if_pos h2, if_pos h3]
        have h4 : j - pa = (j - (pa + 1)) + 1 := by omega
        rw [h4, List.getD_cons_succ]
      · have h3 : ¬(pa ≤ j ∧ j < pa + (t.length + 1)) := by omega
        rw [if_neg h2, if_neg h3, if_neg h1]

theorem memPut_get_outside {bs : List Byte} {m : List Host.Cell} {pa j : Nat} (h : j < pa ∨ pa + bs.length ≤ j) :
    SMap.get 0 (memPut m pa bs) j = SMap.get 0 m j := by
  rw [memPut_get, if_neg (by omega)]

theorem foldl_set_wf (l : List (Nat × Byte)) {m : List Host.Cell} (h : Memory.wf m = true) :
    Memory.wf (l.foldl (fun m p => SMap.set 0 m p.1 p.2) m) = true := by
  induction l generalizing m with
  | nil => exact h
  | cons p t ih => exact ih (SMap.wf_set h)

/-- A fold that keeps a property from the start keeps it to the end. -/
theorem foldl_keeps {α β : Type} {P : α → Prop} {f : α → β → α} (l : List β) (hf : ∀ a b, P a → P (f a b)) {a : α} (h : P a) : P (l.foldl f a) := by
  induction l generalizing a with
  | nil => exact h
  | cons b t ih => exact ih (hf a b h)

/-! Operations of a cluster. -/

variable {c : Cluster}

@[simp] theorem fillL2_mem (lines : List Nat) (owed : Bool) : (c.fillL2 lines owed).mem = c.mem := rfl
@[simp] theorem fillL2_dirty (lines : List Nat) (owed : Bool) : (c.fillL2 lines owed).dirty = c.dirty := rfl
theorem writeBack_wf (lines : List Nat) (h : Memory.wf c.mem = true) : Memory.wf (c.writeBack lines).mem = true :=
  foldl_set_wf _ h
theorem flushSets_wf (p : RelSet → Bool) (h : Memory.wf c.mem = true) : Memory.wf (c.flushSets p).mem = true :=
  writeBack_wf _ h
theorem evict_mem (lines : List Nat) : (c.evict lines).mem = ((c.flushSets (fun r => lines.contains r.tag)).writeBack lines).mem := rfl
theorem evict_wf (lines : List Nat) (h : Memory.wf c.mem = true) : Memory.wf (c.evict lines).mem = true := by
  rw [evict_mem]
  exact writeBack_wf lines (flushSets_wf _ h)
theorem fillLine_wf (line : Nat) (h : Memory.wf c.mem = true) : Memory.wf (c.fillLine line).mem = true := by
  unfold Cluster.fillLine
  split
  · exact h
  · simp only
    split
    · exact h
    · exact evict_wf _ h
theorem fillL1_wf (lines : List Nat) (h : Memory.wf c.mem = true) : Memory.wf (c.fillL1 lines).mem = true :=
  foldl_keeps (P := fun (c : Cluster) => Memory.wf c.mem = true) _ (fun _ _ => fillLine_wf _) h
theorem writeBackAll_wf (h : Memory.wf c.mem = true) : Memory.wf c.writeBackAll.mem = true :=
  foldl_set_wf _ h
theorem writeL2_wf (pa : Nat) (bs : List Byte) (bad : Bool) (h : Memory.wf c.mem = true) : Memory.wf (c.writeL2 pa bs bad).mem = true :=
  memPut_wf _ (writeBack_wf _ h)
theorem updateL2_wf (pa : Nat) (bs : List Byte) (bad : Bool) (h : Memory.wf c.mem = true) : Memory.wf (c.updateL2 pa bs bad).mem = true :=
  writeL2_wf pa bs bad h
theorem toHbm_wf (lines : List Nat) (h : Memory.wf c.mem = true) : Memory.wf (c.toHbm lines).mem = true :=
  writeBack_wf _ h
theorem writeHbm_wf (pa : Nat) (bs : List Byte) (bad : Bool) (h : Memory.wf c.mem = true) : Memory.wf (c.writeHbm pa bs bad).mem = true :=
  memPut_wf _ (toHbm_wf _ h)
theorem storeL1_wf (bs : List (Nat × Byte)) (h : Memory.wf c.mem = true) : Memory.wf (c.storeL1 bs).mem = true :=
  fillL1_wf _ h
theorem ownRead_wf (pa n : Nat) (h : Memory.wf c.mem = true) : Memory.wf (c.ownRead pa n).2.mem = true :=
  writeBack_wf _ h
theorem storeL2_wf (bs : List (Nat × Byte)) (h : Memory.wf c.mem = true) : Memory.wf (c.storeL2 bs).mem = true :=
  foldl_set_wf _ (writeBack_wf _ h)
theorem storeCore_wf (bs : List (Nat × Byte)) (h : Memory.wf c.mem = true) : Memory.wf (c.storeCore bs).mem = true := by
  unfold Cluster.storeCore
  simp only
  split
  · exact storeL1_wf _ h
  · exact storeL1_wf _ (storeL2_wf _ h)
theorem rmw_wf (i : Instr) (pa n : Nat) (v w : Word) (h : Memory.wf c.mem = true) : Memory.wf (c.rmw i pa n v w).2.2.mem = true :=
  memPut_wf _ (writeBack_wf _ h)
theorem countLine_wf (cls line : Nat) (h : Memory.wf c.mem = true) : Memory.wf (c.countLine cls line).mem = true :=
  memPut_wf _ h
theorem count_wf (cls pa n : Nat) (h : Memory.wf c.mem = true) : Memory.wf (c.count cls pa n).mem = true := by
  unfold Cluster.count
  split
  · exact foldl_keeps (P := fun (c : Cluster) => Memory.wf c.mem = true) _ (fun _ _ => countLine_wf _ _) h
  · exact h
theorem formSet_wf (x tag : Nat) (h : Memory.wf c.mem = true) : Memory.wf (c.formSet x tag).mem = true := by
  unfold Cluster.formSet
  split
  · split
    · exact writeBack_wf _ h
    · exact h
  · exact h
theorem releaseStore_wf (x pa : Nat) (wide l2 : Bool) (bs : List (Nat × Byte)) (h : Memory.wf c.mem = true) :
    Memory.wf (c.releaseStore x pa wide l2 bs).mem = true := by
  unfold Cluster.releaseStore
  split
  · simp only
    split
    · exact formSet_wf _ _ (storeL2_wf _ h)
    · exact storeL2_wf _ h
  · split
    · exact storeCore_wf _ (formSet_wf x (pa / 64) h)
    · exact storeCore_wf _ h
@[simp] theorem writeBuf_mem (u : Buf) (o : Nat) (bs : List Byte) (bad : Bool) : (c.writeBuf u o bs bad).mem = c.mem := by cases u <;> rfl

/-- The list that a reset leaves is canonical. -/
theorem memFrom_wf (l : List Byte) (k : Nat) : Memory.wf (memFrom l k) = true :=
  foldl_keeps (P := fun m => Memory.wf m = true) _ (fun _ _ h => by split <;> first | exact SMap.wf_set h | exact h) (by decide)
theorem reset_mem_wf : Memory.wf Cluster.reset.mem = true := by decide

/-! Reads. -/

/-- After a write at the L2 slice, its bytes read there as written. -/
theorem writeL2_get (pa : Nat) (bs : List Byte) (bad : Bool) (j : Nat) :
    (c.writeL2 pa bs bad).l2Byte j = if pa ≤ j ∧ j < pa + bs.length then bs.getD (j - pa) 0 else (c.writeBack (linesOf pa bs.length)).l2Byte j :=
  memPut_get bs _ pa j

/-! What the core sees, whatever the L1D holds. -/

/-- A look-up among the entries whose key passes a test. -/
theorem SMap.find_filter {α : Type} (f : Nat → Bool) (m : SMap α) (a : Nat) :
    SMap.find (m.filter (fun p => f p.1)) a = if f a then SMap.find m a else none := by
  induction m with
  | nil => simp [SMap.find]
  | cons p t ih =>
    obtain ⟨k, v⟩ := p
    by_cases ha : a = k
    · subst ha
      cases hk : f a <;> simp_all [SMap.find]
    · cases hk : f k <;> simp_all [SMap.find]
theorem SMap.find_below {α : Type} {lo a : Nat} {m : SMap α} (h : Sys2Proof.SMap.sorted lo m = true) (ha : a < lo) : SMap.find m a = none := by
  induction m generalizing lo with
  | nil => rfl
  | cons p t ih =>
    obtain ⟨k, v⟩ := p
    simp only [Sys2Proof.SMap.sorted, Bool.and_eq_true, decide_eq_true_eq] at h
    simp only [SMap.find]
    rw [if_neg (by omega)]
    exact ih h.2 (by omega)
/-- Rising entries written over a map: each gives its own value. -/
theorem foldl_set_get {lo : Nat} {l : SMap Byte} (h : Sys2Proof.SMap.sorted lo l = true) (m : List Host.Cell) (a : Nat) :
    SMap.get 0 (l.foldl (fun m p => SMap.set 0 m p.1 p.2) m) a = (SMap.find l a).getD (SMap.get 0 m a) := by
  induction l generalizing lo m with
  | nil => rfl
  | cons p t ih =>
    obtain ⟨k, v⟩ := p
    simp only [Sys2Proof.SMap.sorted, Bool.and_eq_true, decide_eq_true_eq] at h
    simp only [List.foldl_cons, ih h.2, SMap.get_set, SMap.find]
    by_cases ha : a = k
    · subst ha
      simp [SMap.find_below h.2 (Nat.lt_succ_self _)]
    · simp [ha]
/-- Writing lines back changes no byte that the core sees. -/
theorem writeBack_byte (lines : List Nat) (h : Sys2Proof.SMap.sorted 0 c.dirty = true) (a : Nat) : (c.writeBack lines).byte a = c.byte a := by
  have hs := Sys2Proof.SMap.sorted_filter (fun p => lines.contains (p.1 / 64)) h
  simp only [Cluster.byte, Cluster.l2Byte, Cluster.writeBack, fillL2_dirty, fillL2_mem, foldl_set_get hs,
    SMap.find_filter (fun k => lines.contains (k / 64)), SMap.find_filter (fun k => !lines.contains (k / 64))]
  by_cases hl : lines.contains (a / 64) = true
  · simp only [hl, Bool.not_true, Bool.false_eq_true, if_false, if_true]
    cases SMap.find c.dirty a <;> rfl
  · simp only [hl, Bool.not_false, if_true, Bool.false_eq_true, if_false]
    rfl
/-- Nor does an eviction. -/
theorem evict_byte (lines : List Nat) (h : Sys2Proof.SMap.sorted 0 c.dirty = true) (a : Nat) : (c.evict lines).byte a = c.byte a := by
  have h1 := writeBack_byte (c := c) (((c.relSets.filter (fun r => lines.contains r.tag)).map (fun r => r.tag :: r.lines)).flatten) h a
  have h2 : Sys2Proof.SMap.sorted 0 (c.flushSets (fun r => lines.contains r.tag)).dirty = true := Sys2Proof.SMap.sorted_filter _ h
  exact (writeBack_byte lines h2 a).trans h1

end Sys2Proof.Machine
end

