-- ==== Sys2Proof/Laws/State.lean ====
section
/-! SUPPORT. What each update of the state leaves as it was, field by field, and what a part reads after it has been written. -/

set_option Elab.async false
namespace Sys2Proof.Machine

/-! Parts after they are written. -/

@[simp] theorem cluster_setCluster (s : State) (k j : Nat) (c : Cluster) :
    (s.setCluster k c).cluster j = if j = k then c else s.cluster j := SMap.get_put _ _ _ _ _
theorem cluster_modCluster (s : State) (k j : Nat) (f : Cluster → Cluster) :
    (s.modCluster k f).cluster j = if j = k then f (s.cluster k) else s.cluster j := cluster_setCluster _ _ _ _
@[simp] theorem cluster_modCluster_same (s : State) (k : Nat) (f : Cluster → Cluster) :
    (s.modCluster k f).cluster k = f (s.cluster k) := by simp [cluster_modCluster]
@[simp] theorem context_setContext (c : Cluster) (i j : Nat) (x : Context) :
    (c.setContext i x).context j = if j = i then x else c.context j := SMap.get_put _ _ _ _ _
theorem context_modContext (c : Cluster) (i j : Nat) (f : Context → Context) :
    (c.modContext i f).context j = if j = i then f (c.context i) else c.context j := context_setContext _ _ _ _
@[simp] theorem context_modContext_same (c : Cluster) (i : Nat) (f : Context → Context) :
    (c.modContext i f).context i = f (c.context i) := by simp [context_modContext]
@[simp] theorem context_eq (s : State) (k i : Nat) : (s.cluster k).context i = s.context k i := rfl
@[simp] theorem state_modContext_same (s : State) (k i : Nat) (f : Context → Context) :
    (s.modContext k i f).context k i = f (s.context k i) := by
  simp only [State.modContext, State.context, cluster_modCluster_same, context_modContext_same]
@[simp] theorem context_setCluster (s : State) (k j i : Nat) (c : Cluster) :
    (s.setCluster k c).context j i = if j = k then c.context i else s.context j i := by
  simp only [State.context, cluster_setCluster]
  split <;> rfl
@[simp] theorem setCluster_setCluster (s : State) (k : Nat) (c d : Cluster) : (s.setCluster k c).setCluster k d = s.setCluster k d := by
  simp [State.setCluster]
@[simp] theorem setContext_setContext (c : Cluster) (i : Nat) (x y : Context) : (c.setContext i x).setContext i y = c.setContext i y := by
  simp [Cluster.setContext]
theorem modCluster_modCluster (s : State) (k : Nat) (f g : Cluster → Cluster) :
    (s.modCluster k f).modCluster k g = s.modCluster k (fun c => g (f c)) := by
  simp only [State.modCluster, cluster_setCluster, if_true, setCluster_setCluster]
theorem modContext_modContext (c : Cluster) (i : Nat) (f g : Context → Context) :
    (c.modContext i f).modContext i g = c.modContext i (fun x => g (f x)) := by
  simp only [Cluster.modContext, context_setContext, if_true, setContext_setContext]
theorem state_modContext_modContext (s : State) (k i : Nat) (f g : Context → Context) :
    (s.modContext k i f).modContext k i g = s.modContext k i (fun x => g (f x)) := by
  simp only [State.modContext, modCluster_modCluster, modContext_modContext]

/-! Contexts under the passing of time. -/

theorem context_pass (c : Cluster) (n m i : Nat) : (c.pass n m).context i = (c.context i).pass n m := by
  have h : ∀ l : SMap Context, SMap.get Context.reset (l.map (fun p => (p.1, p.2.pass n m))) i = (SMap.get Context.reset l i).pass n m := by
    intro l
    induction l with
    | nil => rfl
    | cons p t ih =>
      obtain ⟨k, v⟩ := p
      simp only [List.map_cons, SMap.get, ih]
      split <;> rfl
  exact h c.ctx
theorem context_passIc (c : Cluster) (i : Nat) : c.passIc.context i = ((c.context i).pass 1 1).countIssue := by
  have h : ∀ l : SMap Context, SMap.get Context.reset (l.map (fun p => (p.1, p.2.countIssue))) i = (SMap.get Context.reset l i).countIssue := by
    intro l
    induction l with
    | nil => rfl
    | cons p t ih =>
      obtain ⟨k, v⟩ := p
      simp only [List.map_cons, SMap.get, ih]
      split <;> rfl
  exact (h (c.pass 1 1).ctx).trans (congrArg Context.countIssue (context_pass c 1 1 i))
theorem context_passClk (c : Cluster) (n i : Nat) : (c.passClk n).context i = (c.context i).pass n (if c.running then 0 else n) :=
  context_pass c n _ i

/-! Fields that an update leaves. -/

@[simp] theorem setCluster_engines (s : State) (k : Nat) (c : Cluster) : (s.setCluster k c).engines = s.engines := rfl
@[simp] theorem setCluster_dies (s : State) (k : Nat) (c : Cluster) : (s.setCluster k c).dies = s.dies := rfl
@[simp] theorem setCluster_ports (s : State) (k : Nat) (c : Cluster) : (s.setCluster k c).ports = s.ports := rfl
@[simp] theorem setCluster_routes (s : State) (k : Nat) (c : Cluster) : (s.setCluster k c).routes = s.routes := rfl
@[simp] theorem setCluster_kernels (s : State) (k : Nat) (c : Cluster) : (s.setCluster k c).kernels = s.kernels := rfl
@[simp] theorem setCluster_apertures (s : State) (k : Nat) (c : Cluster) : (s.setCluster k c).apertures = s.apertures := rfl
@[simp] theorem setCluster_hgen (s : State) (k : Nat) (c : Cluster) : (s.setCluster k c).hgen = s.hgen := rfl
@[simp] theorem setCluster_hemAt (s : State) (k : Nat) (c : Cluster) : (s.setCluster k c).hemAt = s.hemAt := rfl
@[simp] theorem setCluster_mstat (s : State) (k : Nat) (c : Cluster) : (s.setCluster k c).mstat = s.mstat := rfl
@[simp] theorem setCluster_watts (s : State) (k : Nat) (c : Cluster) : (s.setCluster k c).watts = s.watts := rfl
@[simp] theorem setCluster_pstep (s : State) (k : Nat) (c : Cluster) : (s.setCluster k c).pstep = s.pstep := rfl
@[simp] theorem setCluster_power (s : State) (k : Nat) (c : Cluster) : (s.setCluster k c).power = s.power := rfl
@[simp] theorem setCluster_tdie (s : State) (k : Nat) (c : Cluster) : (s.setCluster k c).tdie = s.tdie := rfl
@[simp] theorem setCluster_thbm (s : State) (k : Nat) (c : Cluster) : (s.setCluster k c).thbm = s.thbm := rfl
@[simp] theorem setCluster_stage (s : State) (k : Nat) (c : Cluster) : (s.setCluster k c).stage = s.stage := rfl
@[simp] theorem setCluster_failCause (s : State) (k : Nat) (c : Cluster) : (s.setCluster k c).failCause = s.failCause := rfl
@[simp] theorem setCluster_fsvn (s : State) (k : Nat) (c : Cluster) : (s.setCluster k c).fsvn = s.fsvn := rfl
@[simp] theorem setCluster_svn (s : State) (k : Nat) (c : Cluster) : (s.setCluster k c).svn = s.svn := rfl
@[simp] theorem setCluster_meas0 (s : State) (k : Nat) (c : Cluster) : (s.setCluster k c).meas0 = s.meas0 := rfl
@[simp] theorem setCluster_meas1 (s : State) (k : Nat) (c : Cluster) : (s.setCluster k c).meas1 = s.meas1 := rfl
@[simp] theorem setCluster_meas2 (s : State) (k : Nat) (c : Cluster) : (s.setCluster k c).meas2 = s.meas2 := rfl
@[simp] theorem setCluster_staging (s : State) (k : Nat) (c : Cluster) : (s.setCluster k c).staging = s.staging := rfl
@[simp] theorem setCluster_flash (s : State) (k : Nat) (c : Cluster) : (s.setCluster k c).flash = s.flash := rfl
@[simp] theorem setCluster_mailbox (s : State) (k : Nat) (c : Cluster) : (s.setCluster k c).mailbox = s.mailbox := rfl
@[simp] theorem setCluster_hss (s : State) (k : Nat) (c : Cluster) : (s.setCluster k c).hss = s.hss := rfl
@[simp] theorem setCluster_stagingBuf (s : State) (k : Nat) (c : Cluster) : (s.setCluster k c).stagingBuf = s.stagingBuf := rfl
@[simp] theorem setCluster_hostSeq (s : State) (k : Nat) (c : Cluster) : (s.setCluster k c).hostSeq = s.hostSeq := rfl
@[simp] theorem setCluster_tripped (s : State) (k : Nat) (c : Cluster) : (s.setCluster k c).tripped = s.tripped := rfl
@[simp] theorem setCluster_outbox (s : State) (k : Nat) (c : Cluster) : (s.setCluster k c).outbox = s.outbox := rfl
@[simp] theorem setCluster_agenda (s : State) (k : Nat) (c : Cluster) : (s.setCluster k c).agenda = s.agenda := rfl
@[simp] theorem setCluster_arg (s : State) (k : Nat) (c : Cluster) : (s.setCluster k c).arg = s.arg := rfl
@[simp] theorem setCluster_cur (s : State) (k : Nat) (c : Cluster) : (s.setCluster k c).cur = s.cur := rfl
@[simp] theorem setCluster_free (s : State) (k : Nat) (c : Cluster) : (s.setCluster k c).free = s.free := rfl
@[simp] theorem setCluster_lags (s : State) (k : Nat) (c : Cluster) : (s.setCluster k c).lags = s.lags := rfl
@[simp] theorem setCluster_qps (s : State) (k : Nat) (c : Cluster) : (s.setCluster k c).qps = s.qps := rfl
@[simp] theorem setCluster_keys (s : State) (k : Nat) (c : Cluster) : (s.setCluster k c).keys = s.keys := rfl
@[simp] theorem setCluster_images (s : State) (k : Nat) (c : Cluster) : (s.setCluster k c).images = s.images := rfl
@[simp] theorem setCluster_tstat (s : State) (k : Nat) (c : Cluster) : (s.setCluster k c).tstat = s.tstat := rfl
@[simp] theorem setCluster_hostUp (s : State) (k : Nat) (c : Cluster) : (s.setCluster k c).hostUp = s.hostUp := rfl
@[simp] theorem setCluster_stranded (s : State) (k : Nat) (c : Cluster) : (s.setCluster k c).stranded = s.stranded := rfl
@[simp] theorem setCluster_storeLags (s : State) (k : Nat) (c : Cluster) : (s.setCluster k c).storeLags = s.storeLags := rfl
@[simp] theorem setCluster_verifying (s : State) (k : Nat) (c : Cluster) : (s.setCluster k c).verifying = s.verifying := rfl
@[simp] theorem setContext_clk (c : Cluster) (i : Nat) (x : Context) : (c.setContext i x).clk = c.clk := rfl
@[simp] theorem setContext_ic (c : Cluster) (i : Nat) (x : Context) : (c.setContext i x).ic = c.ic := rfl
@[simp] theorem setContext_gap (c : Cluster) (i : Nat) (x : Context) : (c.setContext i x).gap = c.gap := rfl
@[simp] theorem setContext_mem (c : Cluster) (i : Nat) (x : Context) : (c.setContext i x).mem = c.mem := rfl
@[simp] theorem setContext_dirty (c : Cluster) (i : Nat) (x : Context) : (c.setContext i x).dirty = c.dirty := rfl
@[simp] theorem setContext_poison (c : Cluster) (i : Nat) (x : Context) : (c.setContext i x).poison = c.poison := rfl
@[simp] theorem setContext_relSets (c : Cluster) (i : Nat) (x : Context) : (c.setContext i x).relSets = c.relSets := rfl
@[simp] theorem setContext_heldWrites (c : Cluster) (i : Nat) (x : Context) : (c.setContext i x).heldWrites = c.heldWrites := rfl
@[simp] theorem setContext_wb (c : Cluster) (i : Nat) (x : Context) : (c.setContext i x).wb = c.wb := rfl
@[simp] theorem setContext_ab (c : Cluster) (i : Nat) (x : Context) : (c.setContext i x).ab = c.ab := rfl
@[simp] theorem setContext_wbPoison (c : Cluster) (i : Nat) (x : Context) : (c.setContext i x).wbPoison = c.wbPoison := rfl
@[simp] theorem setContext_abPoison (c : Cluster) (i : Nat) (x : Context) : (c.setContext i x).abPoison = c.abPoison := rfl
@[simp] theorem setContext_tiles (c : Cluster) (i : Nat) (x : Context) : (c.setContext i x).tiles = c.tiles := rfl
@[simp] theorem setContext_nests (c : Cluster) (i : Nat) (x : Context) : (c.setContext i x).nests = c.nests := rfl
@[simp] theorem setContext_chans (c : Cluster) (i : Nat) (x : Context) : (c.setContext i x).chans = c.chans := rfl
@[simp] theorem setContext_levels (c : Cluster) (i : Nat) (x : Context) : (c.setContext i x).levels = c.levels := rfl
@[simp] theorem setContext_pushes (c : Cluster) (i : Nat) (x : Context) : (c.setContext i x).pushes = c.pushes := rfl
@[simp] theorem setContext_joins (c : Cluster) (i : Nat) (x : Context) : (c.setContext i x).joins = c.joins := rfl
@[simp] theorem setContext_cmds (c : Cluster) (i : Nat) (x : Context) : (c.setContext i x).cmds = c.cmds := rfl
@[simp] theorem setContext_nextCmd (c : Cluster) (i : Nat) (x : Context) : (c.setContext i x).nextCmd = c.nextCmd := rfl
@[simp] theorem setContext_places (c : Cluster) (i : Nat) (x : Context) : (c.setContext i x).places = c.places := rfl
@[simp] theorem setContext_sel (c : Cluster) (i : Nat) (x : Context) : (c.setContext i x).sel = c.sel := rfl
@[simp] theorem setContext_notices (c : Cluster) (i : Nat) (x : Context) : (c.setContext i x).notices = c.notices := rfl
@[simp] theorem setContext_inbox (c : Cluster) (i : Nat) (x : Context) : (c.setContext i x).inbox = c.inbox := rfl
@[simp] theorem setContext_tlb1 (c : Cluster) (i : Nat) (x : Context) : (c.setContext i x).tlb1 = c.tlb1 := rfl
@[simp] theorem setContext_tlb2 (c : Cluster) (i : Nat) (x : Context) : (c.setContext i x).tlb2 = c.tlb2 := rfl
@[simp] theorem setContext_ptrs (c : Cluster) (i : Nat) (x : Context) : (c.setContext i x).ptrs = c.ptrs := rfl
@[simp] theorem setContext_faults (c : Cluster) (i : Nat) (x : Context) : (c.setContext i x).faults = c.faults := rfl
@[simp] theorem setContext_acNotices (c : Cluster) (i : Nat) (x : Context) : (c.setContext i x).acNotices = c.acNotices := rfl
@[simp] theorem setContext_ingress (c : Cluster) (i : Nat) (x : Context) : (c.setContext i x).ingress = c.ingress := rfl
@[simp] theorem setContext_latch (c : Cluster) (i : Nat) (x : Context) : (c.setContext i x).latch = c.latch := rfl
@[simp] theorem setContext_latchFlights (c : Cluster) (i : Nat) (x : Context) : (c.setContext i x).latchFlights = c.latchFlights := rfl
@[simp] theorem setContext_agLast (c : Cluster) (i : Nat) (x : Context) : (c.setContext i x).agLast = c.agLast := rfl
@[simp] theorem setContext_agClk (c : Cluster) (i : Nat) (x : Context) : (c.setContext i x).agClk = c.agClk := rfl
@[simp] theorem setContext_agBusy (c : Cluster) (i : Nat) (x : Context) : (c.setContext i x).agBusy = c.agBusy := rfl
@[simp] theorem setContext_hemcfgRound (c : Cluster) (i : Nat) (x : Context) : (c.setContext i x).hemcfgRound = c.hemcfgRound := rfl
@[simp] theorem setContext_tvec (c : Cluster) (i : Nat) (x : Context) : (c.setContext i x).tvec = c.tvec := rfl
@[simp] theorem setContext_trecBase (c : Cluster) (i : Nat) (x : Context) : (c.setContext i x).trecBase = c.trecBase := rfl
@[simp] theorem setContext_lmax (c : Cluster) (i : Nat) (x : Context) : (c.setContext i x).lmax = c.lmax := rfl
@[simp] theorem setContext_smax (c : Cluster) (i : Nat) (x : Context) : (c.setContext i x).smax = c.smax := rfl
@[simp] theorem setContext_asid (c : Cluster) (i : Nat) (x : Context) : (c.setContext i x).asid = c.asid := rfl
@[simp] theorem setContext_ptbase (c : Cluster) (i : Nat) (x : Context) : (c.setContext i x).ptbase = c.ptbase := rfl
@[simp] theorem setContext_frbase (c : Cluster) (i : Nat) (x : Context) : (c.setContext i x).frbase = c.frbase := rfl
@[simp] theorem setContext_frWr (c : Cluster) (i : Nat) (x : Context) : (c.setContext i x).frWr = c.frWr := rfl
@[simp] theorem setContext_frRd (c : Cluster) (i : Nat) (x : Context) : (c.setContext i x).frRd = c.frRd := rfl
@[simp] theorem setContext_basteDrop (c : Cluster) (i : Nat) (x : Context) : (c.setContext i x).basteDrop = c.basteDrop := rfl
@[simp] theorem setContext_acbase (c : Cluster) (i : Nat) (x : Context) : (c.setContext i x).acbase = c.acbase := rfl
@[simp] theorem setContext_acthr (c : Cluster) (i : Nat) (x : Context) : (c.setContext i x).acthr = c.acthr := rfl
@[simp] theorem setContext_agelo (c : Cluster) (i : Nat) (x : Context) : (c.setContext i x).agelo = c.agelo := rfl
@[simp] theorem setContext_agehi (c : Cluster) (i : Nat) (x : Context) : (c.setContext i x).agehi = c.agehi := rfl
@[simp] theorem setContext_qrbase (c : Cluster) (i : Nat) (x : Context) : (c.setContext i x).qrbase = c.qrbase := rfl
@[simp] theorem setContext_qrsize (c : Cluster) (i : Nat) (x : Context) : (c.setContext i x).qrsize = c.qrsize := rfl
@[simp] theorem setContext_ordbase (c : Cluster) (i : Nat) (x : Context) : (c.setContext i x).ordbase = c.ordbase := rfl
@[simp] theorem setContext_l1Whole (c : Cluster) (i : Nat) (x : Context) : (c.setContext i x).l1Whole = c.l1Whole := rfl
@[simp] theorem setContext_nextReq (c : Cluster) (i : Nat) (x : Context) : (c.setContext i x).nextReq = c.nextReq := rfl
@[simp] theorem setContext_dashed (c : Cluster) (i : Nat) (x : Context) : (c.setContext i x).dashed = c.dashed := rfl
@[simp] theorem setContext_winbase (c : Cluster) (i : Nat) (x : Context) : (c.setContext i x).winbase = c.winbase := rfl
@[simp] theorem setContext_peerbase (c : Cluster) (i : Nat) (x : Context) : (c.setContext i x).peerbase = c.peerbase := rfl
@[simp] theorem setContext_hemcfg (c : Cluster) (i : Nat) (x : Context) : (c.setContext i x).hemcfg = c.hemcfg := rfl
@[simp] theorem setContext_device (c : Cluster) (i : Nat) (x : Context) : (c.setContext i x).device = c.device := rfl
@[simp] theorem setContext_kernel (c : Cluster) (i : Nat) (x : Context) : (c.setContext i x).kernel = c.kernel := rfl
@[simp] theorem setContext_l1 (c : Cluster) (i : Nat) (x : Context) : (c.setContext i x).l1 = c.l1 := rfl
@[simp] theorem setContext_l2 (c : Cluster) (i : Nat) (x : Context) : (c.setContext i x).l2 = c.l2 := rfl
@[simp] theorem setContext_blocks (c : Cluster) (i : Nat) (x : Context) : (c.setContext i x).blocks = c.blocks := rfl
@[simp] theorem setContext_qclk (c : Cluster) (i : Nat) (x : Context) : (c.setContext i x).qclk = c.qclk := rfl
@[simp] theorem setContext_qphase (c : Cluster) (i : Nat) (x : Context) : (c.setContext i x).qphase = c.qphase := rfl
@[simp] theorem setContext_steps (c : Cluster) (i : Nat) (x : Context) : (c.setContext i x).steps = c.steps := rfl
@[simp] theorem setContext_l1Bad (c : Cluster) (i : Nat) (x : Context) : (c.setContext i x).l1Bad = c.l1Bad := rfl
@[simp] theorem setContext_revoked (c : Cluster) (i : Nat) (x : Context) : (c.setContext i x).revoked = c.revoked := rfl
@[simp] theorem pass_ic (c : Cluster) (n m : Nat) : (c.pass n m).ic = c.ic := rfl
@[simp] theorem pass_gap (c : Cluster) (n m : Nat) : (c.pass n m).gap = c.gap := rfl
@[simp] theorem pass_mem (c : Cluster) (n m : Nat) : (c.pass n m).mem = c.mem := rfl
@[simp] theorem pass_dirty (c : Cluster) (n m : Nat) : (c.pass n m).dirty = c.dirty := rfl
@[simp] theorem pass_poison (c : Cluster) (n m : Nat) : (c.pass n m).poison = c.poison := rfl
@[simp] theorem pass_relSets (c : Cluster) (n m : Nat) : (c.pass n m).relSets = c.relSets := rfl
@[simp] theorem pass_heldWrites (c : Cluster) (n m : Nat) : (c.pass n m).heldWrites = c.heldWrites := rfl
@[simp] theorem pass_wb (c : Cluster) (n m : Nat) : (c.pass n m).wb = c.wb := rfl
@[simp] theorem pass_ab (c : Cluster) (n m : Nat) : (c.pass n m).ab = c.ab := rfl
@[simp] theorem pass_wbPoison (c : Cluster) (n m : Nat) : (c.pass n m).wbPoison = c.wbPoison := rfl
@[simp] theorem pass_abPoison (c : Cluster) (n m : Nat) : (c.pass n m).abPoison = c.abPoison := rfl
@[simp] theorem pass_tiles (c : Cluster) (n m : Nat) : (c.pass n m).tiles = c.tiles := rfl
@[simp] theorem pass_nests (c : Cluster) (n m : Nat) : (c.pass n m).nests = c.nests := rfl
@[simp] theorem pass_chans (c : Cluster) (n m : Nat) : (c.pass n m).chans = c.chans := rfl
@[simp] theorem pass_levels (c : Cluster) (n m : Nat) : (c.pass n m).levels = c.levels := rfl
@[simp] theorem pass_pushes (c : Cluster) (n m : Nat) : (c.pass n m).pushes = c.pushes := rfl
@[simp] theorem pass_joins (c : Cluster) (n m : Nat) : (c.pass n m).joins = c.joins := rfl
@[simp] theorem pass_cmds (c : Cluster) (n m : Nat) : (c.pass n m).cmds = c.cmds := rfl
@[simp] theorem pass_nextCmd (c : Cluster) (n m : Nat) : (c.pass n m).nextCmd = c.nextCmd := rfl
@[simp] theorem pass_places (c : Cluster) (n m : Nat) : (c.pass n m).places = c.places := rfl
@[simp] theorem pass_sel (c : Cluster) (n m : Nat) : (c.pass n m).sel = c.sel := rfl
@[simp] theorem pass_notices (c : Cluster) (n m : Nat) : (c.pass n m).notices = c.notices := rfl
@[simp] theorem pass_inbox (c : Cluster) (n m : Nat) : (c.pass n m).inbox = c.inbox := rfl
@[simp] theorem pass_tlb1 (c : Cluster) (n m : Nat) : (c.pass n m).tlb1 = c.tlb1 := rfl
@[simp] theorem pass_tlb2 (c : Cluster) (n m : Nat) : (c.pass n m).tlb2 = c.tlb2 := rfl
@[simp] theorem pass_ptrs (c : Cluster) (n m : Nat) : (c.pass n m).ptrs = c.ptrs := rfl
@[simp] theorem pass_faults (c : Cluster) (n m : Nat) : (c.pass n m).faults = c.faults := rfl
@[simp] theorem pass_acNotices (c : Cluster) (n m : Nat) : (c.pass n m).acNotices = c.acNotices := rfl
@[simp] theorem pass_ingress (c : Cluster) (n m : Nat) : (c.pass n m).ingress = c.ingress := rfl
@[simp] theorem pass_latch (c : Cluster) (n m : Nat) : (c.pass n m).latch = c.latch := rfl
@[simp] theorem pass_agLast (c : Cluster) (n m : Nat) : (c.pass n m).agLast = c.agLast := rfl
@[simp] theorem pass_agBusy (c : Cluster) (n m : Nat) : (c.pass n m).agBusy = c.agBusy := rfl
@[simp] theorem pass_hemcfgRound (c : Cluster) (n m : Nat) : (c.pass n m).hemcfgRound = c.hemcfgRound := rfl
@[simp] theorem pass_tvec (c : Cluster) (n m : Nat) : (c.pass n m).tvec = c.tvec := rfl
@[simp] theorem pass_trecBase (c : Cluster) (n m : Nat) : (c.pass n m).trecBase = c.trecBase := rfl
@[simp] theorem pass_lmax (c : Cluster) (n m : Nat) : (c.pass n m).lmax = c.lmax := rfl
@[simp] theorem pass_smax (c : Cluster) (n m : Nat) : (c.pass n m).smax = c.smax := rfl
@[simp] theorem pass_asid (c : Cluster) (n m : Nat) : (c.pass n m).asid = c.asid := rfl
@[simp] theorem pass_ptbase (c : Cluster) (n m : Nat) : (c.pass n m).ptbase = c.ptbase := rfl
@[simp] theorem pass_frbase (c : Cluster) (n m : Nat) : (c.pass n m).frbase = c.frbase := rfl
@[simp] theorem pass_frWr (c : Cluster) (n m : Nat) : (c.pass n m).frWr = c.frWr := rfl
@[simp] theorem pass_frRd (c : Cluster) (n m : Nat) : (c.pass n m).frRd = c.frRd := rfl
@[simp] theorem pass_basteDrop (c : Cluster) (n m : Nat) : (c.pass n m).basteDrop = c.basteDrop := rfl
@[simp] theorem pass_acbase (c : Cluster) (n m : Nat) : (c.pass n m).acbase = c.acbase := rfl
@[simp] theorem pass_acthr (c : Cluster) (n m : Nat) : (c.pass n m).acthr = c.acthr := rfl
@[simp] theorem pass_agelo (c : Cluster) (n m : Nat) : (c.pass n m).agelo = c.agelo := rfl
@[simp] theorem pass_agehi (c : Cluster) (n m : Nat) : (c.pass n m).agehi = c.agehi := rfl
@[simp] theorem pass_qrbase (c : Cluster) (n m : Nat) : (c.pass n m).qrbase = c.qrbase := rfl
@[simp] theorem pass_qrsize (c : Cluster) (n m : Nat) : (c.pass n m).qrsize = c.qrsize := rfl
@[simp] theorem pass_ordbase (c : Cluster) (n m : Nat) : (c.pass n m).ordbase = c.ordbase := rfl
@[simp] theorem pass_winbase (c : Cluster) (n m : Nat) : (c.pass n m).winbase = c.winbase := rfl
@[simp] theorem pass_peerbase (c : Cluster) (n m : Nat) : (c.pass n m).peerbase = c.peerbase := rfl
@[simp] theorem pass_hemcfg (c : Cluster) (n m : Nat) : (c.pass n m).hemcfg = c.hemcfg := rfl
@[simp] theorem pass_device (c : Cluster) (n m : Nat) : (c.pass n m).device = c.device := rfl
@[simp] theorem pass_kernel (c : Cluster) (n m : Nat) : (c.pass n m).kernel = c.kernel := rfl
@[simp] theorem pass_l1 (c : Cluster) (n m : Nat) : (c.pass n m).l1 = c.l1 := rfl
@[simp] theorem pass_l2 (c : Cluster) (n m : Nat) : (c.pass n m).l2 = c.l2 := rfl
@[simp] theorem pass_blocks (c : Cluster) (n m : Nat) : (c.pass n m).blocks = c.blocks := rfl
@[simp] theorem pass_qclk (c : Cluster) (n m : Nat) : (c.pass n m).qclk = c.qclk := rfl
@[simp] theorem pass_qphase (c : Cluster) (n m : Nat) : (c.pass n m).qphase = c.qphase := rfl
@[simp] theorem pass_steps (c : Cluster) (n m : Nat) : (c.pass n m).steps = c.steps := rfl
@[simp] theorem pass_l1Bad (c : Cluster) (n m : Nat) : (c.pass n m).l1Bad = c.l1Bad := rfl
@[simp] theorem pass_revoked (c : Cluster) (n m : Nat) : (c.pass n m).revoked = c.revoked := rfl
@[simp] theorem pass_l1Whole (c : Cluster) (n m : Nat) : (c.pass n m).l1Whole = c.l1Whole := rfl
@[simp] theorem pass_nextReq (c : Cluster) (n m : Nat) : (c.pass n m).nextReq = c.nextReq := rfl
@[simp] theorem pass_dashed (c : Cluster) (n m : Nat) : (c.pass n m).dashed = c.dashed := rfl
@[simp] theorem ctxPass_st (x : Context) (n m : Nat) : (x.pass n m).st = x.st := rfl
@[simp] theorem ctxPass_h (x : Context) (n m : Nat) : (x.pass n m).h = x.h := rfl
@[simp] theorem ctxPass_cause (x : Context) (n m : Nat) : (x.pass n m).cause = x.cause := rfl
@[simp] theorem ctxPass_causeEng (x : Context) (n m : Nat) : (x.pass n m).causeEng = x.causeEng := rfl
@[simp] theorem ctxPass_parkReq (x : Context) (n m : Nat) : (x.pass n m).parkReq = x.parkReq := rfl
@[simp] theorem ctxPass_inFault (x : Context) (n m : Nat) : (x.pass n m).inFault = x.inFault := rfl
@[simp] theorem ctxPass_live (x : Context) (n m : Nat) : (x.pass n m).live = x.live := rfl
@[simp] theorem ctxPass_release (x : Context) (n m : Nat) : (x.pass n m).release = x.release := rfl
@[simp] theorem ctxPass_freeAt (x : Context) (n m : Nat) : (x.pass n m).freeAt = x.freeAt := rfl
@[simp] theorem ctxPass_notBefore (x : Context) (n m : Nat) : (x.pass n m).notBefore = x.notBefore := rfl
@[simp] theorem ctxPass_pc (x : Context) (n m : Nat) : (x.pass n m).pc = x.pc := rfl
@[simp] theorem ctxPass_rot (x : Context) (n m : Nat) : (x.pass n m).rot = x.rot := rfl
@[simp] theorem ctxPass_mode (x : Context) (n m : Nat) : (x.pass n m).mode = x.mode := rfl
@[simp] theorem ctxPass_feed (x : Context) (n m : Nat) : (x.pass n m).feed = x.feed := rfl
@[simp] theorem ctxPass_lvl (x : Context) (n m : Nat) : (x.pass n m).lvl = x.lvl := rfl
@[simp] theorem ctxPass_tail (x : Context) (n m : Nat) : (x.pass n m).tail = x.tail := rfl
@[simp] theorem ctxPass_seed (x : Context) (n m : Nat) : (x.pass n m).seed = x.seed := rfl
@[simp] theorem ctxPass_srcount (x : Context) (n m : Nat) : (x.pass n m).srcount = x.srcount := rfl
@[simp] theorem ctxPass_lsig (x : Context) (n m : Nat) : (x.pass n m).lsig = x.lsig := rfl
@[simp] theorem ctxPass_herr (x : Context) (n m : Nat) : (x.pass n m).herr = x.herr := rfl
@[simp] theorem ctxPass_terr (x : Context) (n m : Nat) : (x.pass n m).terr = x.terr := rfl
@[simp] theorem ctxPass_bcount (x : Context) (n m : Nat) : (x.pass n m).bcount = x.bcount := rfl
@[simp] theorem ctxPass_idle (x : Context) (n m : Nat) : (x.pass n m).idle = x.idle := rfl
@[simp] theorem ctxPass_stopf (x : Context) (n m : Nat) : (x.pass n m).stopf = x.stopf := rfl
@[simp] theorem ctxPass_splim (x : Context) (n m : Nat) : (x.pass n m).splim = x.splim := rfl
@[simp] theorem ctxPass_epc (x : Context) (n m : Nat) : (x.pass n m).epc = x.epc := rfl
@[simp] theorem ctxPass_estat (x : Context) (n m : Nat) : (x.pass n m).estat = x.estat := rfl
@[simp] theorem ctxPass_tscr (x : Context) (n m : Nat) : (x.pass n m).tscr = x.tscr := rfl
@[simp] theorem ctxPass_prec (x : Context) (n m : Nat) : (x.pass n m).prec = x.prec := rfl
@[simp] theorem ctxPass_ppeer (x : Context) (n m : Nat) : (x.pass n m).ppeer = x.ppeer := rfl
@[simp] theorem ctxPass_oprio (x : Context) (n m : Nat) : (x.pass n m).oprio = x.oprio := rfl
@[simp] theorem ctxPass_s (x : Context) (n m : Nat) : (x.pass n m).s = x.s := rfl
@[simp] theorem ctxPass_a (x : Context) (n m : Nat) : (x.pass n m).a = x.a := rfl
@[simp] theorem ctxPass_p (x : Context) (n m : Nat) : (x.pass n m).p = x.p := rfl
@[simp] theorem ctxPass_sBad (x : Context) (n m : Nat) : (x.pass n m).sBad = x.sBad := rfl
@[simp] theorem ctxPass_aBad (x : Context) (n m : Nat) : (x.pass n m).aBad = x.aBad := rfl
@[simp] theorem ctxPass_pBad (x : Context) (n m : Nat) : (x.pass n m).pBad = x.pBad := rfl
@[simp] theorem ctxPass_sWait (x : Context) (n m : Nat) : (x.pass n m).sWait = x.sWait := rfl
@[simp] theorem ctxPass_v (x : Context) (n m : Nat) : (x.pass n m).v = x.v := rfl
@[simp] theorem ctxPass_qpos (x : Context) (n m : Nat) : (x.pass n m).qpos = x.qpos := rfl
@[simp] theorem ctxPass_loops (x : Context) (n m : Nat) : (x.pass n m).loops = x.loops := rfl
@[simp] theorem ctxPass_sticky (x : Context) (n m : Nat) : (x.pass n m).sticky = x.sticky := rfl
@[simp] theorem ctxPass_iter (x : Context) (n m : Nat) : (x.pass n m).iter = x.iter := rfl
@[simp] theorem ctxPass_skipS (x : Context) (n m : Nat) : (x.pass n m).skipS = x.skipS := rfl
@[simp] theorem ctxPass_cont (x : Context) (n m : Nat) : (x.pass n m).cont = x.cont := rfl
@[simp] theorem ctxPass_acqAt (x : Context) (n m : Nat) : (x.pass n m).acqAt = x.acqAt := rfl
@[simp] theorem ctxPass_loadAt (x : Context) (n m : Nat) : (x.pass n m).loadAt = x.loadAt := rfl
@[simp] theorem ctxPass_awaits (x : Context) (n m : Nat) : (x.pass n m).awaits = x.awaits := rfl
@[simp] theorem ctxPass_saved (x : Context) (n m : Nat) : (x.pass n m).saved = x.saved := rfl
@[simp] theorem ctxPass_trec (x : Context) (n m : Nat) : (x.pass n m).trec = x.trec := rfl
@[simp] theorem ctxPass_rseq (x : Context) (n m : Nat) : (x.pass n m).rseq = x.rseq := rfl
@[simp] theorem ctxPass_errors (x : Context) (n m : Nat) : (x.pass n m).errors = x.errors := rfl
@[simp] theorem ctxPass_trapPending (x : Context) (n m : Nat) : (x.pass n m).trapPending = x.trapPending := rfl
@[simp] theorem ctxPass_predWrites (x : Context) (n m : Nat) : (x.pass n m).predWrites = x.predWrites := rfl
@[simp] theorem ctxPass_lastXfer (x : Context) (n m : Nat) : (x.pass n m).lastXfer = x.lastXfer := rfl
@[simp] theorem ctxPass_lastStage (x : Context) (n m : Nat) : (x.pass n m).lastStage = x.lastStage := rfl
@[simp] theorem ctxPass_ports (x : Context) (n m : Nat) : (x.pass n m).ports = x.ports := rfl
@[simp] theorem ctxPass_drain (x : Context) (n m : Nat) : (x.pass n m).drain = x.drain := rfl
@[simp] theorem ctxPass_toks (x : Context) (n m : Nat) : (x.pass n m).toks = x.toks := rfl
@[simp] theorem ctxPass_hnds (x : Context) (n m : Nat) : (x.pass n m).hnds = x.hnds := rfl
@[simp] theorem ctxPass_starts (x : Context) (n m : Nat) : (x.pass n m).starts = x.starts := rfl
@[simp] theorem ctxPass_locks (x : Context) (n m : Nat) : (x.pass n m).locks = x.locks := rfl
@[simp] theorem ctxPass_tickets (x : Context) (n m : Nat) : (x.pass n m).tickets = x.tickets := rfl
@[simp] theorem ctxPass_epochs (x : Context) (n m : Nat) : (x.pass n m).epochs = x.epochs := rfl
@[simp] theorem ctxPass_vBad (x : Context) (n m : Nat) : (x.pass n m).vBad = x.vBad := rfl
@[simp] theorem ctxPass_xferred (x : Context) (n m : Nat) : (x.pass n m).xferred = x.xferred := rfl
@[simp] theorem ctxPass_unparked (x : Context) (n m : Nat) : (x.pass n m).unparked = x.unparked := rfl
@[simp] theorem ctxPass_leaf (x : Context) (n m : Nat) : (x.pass n m).leaf = x.leaf := rfl
@[simp] theorem ctxCount_st (x : Context) : x.countIssue.st = x.st := rfl
@[simp] theorem ctxCount_h (x : Context) : x.countIssue.h = x.h := rfl
@[simp] theorem ctxCount_cause (x : Context) : x.countIssue.cause = x.cause := rfl
@[simp] theorem ctxCount_causeEng (x : Context) : x.countIssue.causeEng = x.causeEng := rfl
@[simp] theorem ctxCount_parkReq (x : Context) : x.countIssue.parkReq = x.parkReq := rfl
@[simp] theorem ctxCount_inFault (x : Context) : x.countIssue.inFault = x.inFault := rfl
@[simp] theorem ctxCount_live (x : Context) : x.countIssue.live = x.live := rfl
@[simp] theorem ctxCount_release (x : Context) : x.countIssue.release = x.release := rfl
@[simp] theorem ctxCount_freeAt (x : Context) : x.countIssue.freeAt = x.freeAt := rfl
@[simp] theorem ctxCount_notBefore (x : Context) : x.countIssue.notBefore = x.notBefore := rfl
@[simp] theorem ctxCount_pc (x : Context) : x.countIssue.pc = x.pc := rfl
@[simp] theorem ctxCount_rot (x : Context) : x.countIssue.rot = x.rot := rfl
@[simp] theorem ctxCount_mode (x : Context) : x.countIssue.mode = x.mode := rfl
@[simp] theorem ctxCount_feed (x : Context) : x.countIssue.feed = x.feed := rfl
@[simp] theorem ctxCount_lvl (x : Context) : x.countIssue.lvl = x.lvl := rfl
@[simp] theorem ctxCount_tail (x : Context) : x.countIssue.tail = x.tail := rfl
@[simp] theorem ctxCount_seed (x : Context) : x.countIssue.seed = x.seed := rfl
@[simp] theorem ctxCount_srcount (x : Context) : x.countIssue.srcount = x.srcount := rfl
@[simp] theorem ctxCount_lsig (x : Context) : x.countIssue.lsig = x.lsig := rfl
@[simp] theorem ctxCount_herr (x : Context) : x.countIssue.herr = x.herr := rfl
@[simp] theorem ctxCount_terr (x : Context) : x.countIssue.terr = x.terr := rfl
@[simp] theorem ctxCount_bcount (x : Context) : x.countIssue.bcount = x.bcount := rfl
@[simp] theorem ctxCount_idle (x : Context) : x.countIssue.idle = x.idle := rfl
@[simp] theorem ctxCount_stopf (x : Context) : x.countIssue.stopf = x.stopf := rfl
@[simp] theorem ctxCount_splim (x : Context) : x.countIssue.splim = x.splim := rfl
@[simp] theorem ctxCount_epc (x : Context) : x.countIssue.epc = x.epc := rfl
@[simp] theorem ctxCount_estat (x : Context) : x.countIssue.estat = x.estat := rfl
@[simp] theorem ctxCount_tscr (x : Context) : x.countIssue.tscr = x.tscr := rfl
@[simp] theorem ctxCount_prec (x : Context) : x.countIssue.prec = x.prec := rfl
@[simp] theorem ctxCount_ppeer (x : Context) : x.countIssue.ppeer = x.ppeer := rfl
@[simp] theorem ctxCount_oprio (x : Context) : x.countIssue.oprio = x.oprio := rfl
@[simp] theorem ctxCount_s (x : Context) : x.countIssue.s = x.s := rfl
@[simp] theorem ctxCount_a (x : Context) : x.countIssue.a = x.a := rfl
@[simp] theorem ctxCount_p (x : Context) : x.countIssue.p = x.p := rfl
@[simp] theorem ctxCount_sBad (x : Context) : x.countIssue.sBad = x.sBad := rfl
@[simp] theorem ctxCount_aBad (x : Context) : x.countIssue.aBad = x.aBad := rfl
@[simp] theorem ctxCount_pBad (x : Context) : x.countIssue.pBad = x.pBad := rfl
@[simp] theorem ctxCount_sWait (x : Context) : x.countIssue.sWait = x.sWait := rfl
@[simp] theorem ctxCount_v (x : Context) : x.countIssue.v = x.v := rfl
@[simp] theorem ctxCount_qpos (x : Context) : x.countIssue.qpos = x.qpos := rfl
@[simp] theorem ctxCount_loops (x : Context) : x.countIssue.loops = x.loops := rfl
@[simp] theorem ctxCount_sticky (x : Context) : x.countIssue.sticky = x.sticky := rfl
@[simp] theorem ctxCount_iter (x : Context) : x.countIssue.iter = x.iter := rfl
@[simp] theorem ctxCount_skipS (x : Context) : x.countIssue.skipS = x.skipS := rfl
@[simp] theorem ctxCount_cont (x : Context) : x.countIssue.cont = x.cont := rfl
@[simp] theorem ctxCount_acqAt (x : Context) : x.countIssue.acqAt = x.acqAt := rfl
@[simp] theorem ctxCount_loadAt (x : Context) : x.countIssue.loadAt = x.loadAt := rfl
@[simp] theorem ctxCount_awaits (x : Context) : x.countIssue.awaits = x.awaits := rfl
@[simp] theorem ctxCount_saved (x : Context) : x.countIssue.saved = x.saved := rfl
@[simp] theorem ctxCount_trec (x : Context) : x.countIssue.trec = x.trec := rfl
@[simp] theorem ctxCount_rseq (x : Context) : x.countIssue.rseq = x.rseq := rfl
@[simp] theorem ctxCount_errors (x : Context) : x.countIssue.errors = x.errors := rfl
@[simp] theorem ctxCount_trapPending (x : Context) : x.countIssue.trapPending = x.trapPending := rfl
@[simp] theorem ctxCount_predWrites (x : Context) : x.countIssue.predWrites = x.predWrites := rfl
@[simp] theorem ctxCount_lastXfer (x : Context) : x.countIssue.lastXfer = x.lastXfer := rfl
@[simp] theorem ctxCount_lastStage (x : Context) : x.countIssue.lastStage = x.lastStage := rfl
@[simp] theorem ctxCount_ports (x : Context) : x.countIssue.ports = x.ports := rfl
@[simp] theorem ctxCount_drain (x : Context) : x.countIssue.drain = x.drain := rfl
@[simp] theorem ctxCount_toks (x : Context) : x.countIssue.toks = x.toks := rfl
@[simp] theorem ctxCount_hnds (x : Context) : x.countIssue.hnds = x.hnds := rfl
@[simp] theorem ctxCount_starts (x : Context) : x.countIssue.starts = x.starts := rfl
@[simp] theorem ctxCount_locks (x : Context) : x.countIssue.locks = x.locks := rfl
@[simp] theorem ctxCount_tickets (x : Context) : x.countIssue.tickets = x.tickets := rfl
@[simp] theorem ctxCount_epochs (x : Context) : x.countIssue.epochs = x.epochs := rfl
@[simp] theorem ctxCount_pleat (x : Context) : x.countIssue.pleat = x.pleat := rfl
@[simp] theorem ctxCount_leaf (x : Context) : x.countIssue.leaf = x.leaf := rfl
@[simp] theorem ctxCount_unparked (x : Context) : x.countIssue.unparked = x.unparked := rfl
@[simp] theorem ctxCount_vBad (x : Context) : x.countIssue.vBad = x.vBad := rfl
@[simp] theorem ctxCount_xferred (x : Context) : x.countIssue.xferred = x.xferred := rfl

end Sys2Proof.Machine
end

