-- ==== Sys2Proof/Laws/Command.lean ====
section
/-! SUPPORT. Shared operations: what the end of a command, a command's new record and trap entry can do. -/

namespace Sys2Proof.Machine

variable {c : Cluster} {m : Cmd} {f : Finish}

/-! Commands. -/

/-- A command's new record stands where the old one stood. -/
theorem mem_setCmd {q : Cmd} (h : q ∈ c.cmds) (hid : q.id = m.id) : m ∈ (c.setCmd m).cmds :=
  List.mem_map.2 ⟨q, h, by simp [hid]⟩
theorem mem_setCmd_other {q : Cmd} (h : q ∈ c.cmds) (hid : q.id ≠ m.id) : q ∈ (c.setCmd m).cmds :=
  List.mem_map.2 ⟨q, h, by simp [hid]⟩
@[simp] theorem setCmd_mem (c : Cluster) (m : Cmd) : (c.setCmd m).mem = c.mem := rfl
@[simp] theorem setCmd_context (c : Cluster) (m : Cmd) (i : Nat) : (c.setCmd m).context i = c.context i := rfl

/-- What the end of a command changes: the commands, its Context, and nothing else of its cluster. -/
theorem finish_eq (c : Cluster) (m : Cmd) (f : Finish) : ∃ xs, c.finish m f =
    { c with ctx := xs, cmds := (c.cmds.filter (fun q => q.id ≠ m.id)).map (fun q =>
      if q.waits.contains m.id then { q with waits := q.waits.filter (· ≠ m.id), inh := q.inh.or f.code? } else q) } := by
  unfold Cluster.finish
  simp only [Cluster.modContext, Cluster.setContext]
  split
  · split <;> exact ⟨_, rfl⟩
  · exact ⟨_, rfl⟩
/-- A command that has ended stands in its cluster no longer. -/
theorem finish_gone {q : Cmd} (h : q ∈ (c.finish m f).cmds) : q.id ≠ m.id := by
  obtain ⟨xs, he⟩ := finish_eq c m f
  rw [he] at h
  obtain ⟨r, hr, rfl⟩ := List.mem_map.1 h
  have hne : r.id ≠ m.id := by simpa using (List.mem_filter.1 hr).2
  split <;> exact hne
@[simp] theorem finish_mem (c : Cluster) (m : Cmd) (f : Finish) : (c.finish m f).mem = c.mem := by
  obtain ⟨_, he⟩ := finish_eq c m f
  rw [he]
@[simp] theorem finish_dirty (c : Cluster) (m : Cmd) (f : Finish) : (c.finish m f).dirty = c.dirty := by
  obtain ⟨_, he⟩ := finish_eq c m f
  rw [he]
@[simp] theorem finish_tiles (c : Cluster) (m : Cmd) (f : Finish) : (c.finish m f).tiles = c.tiles := by
  obtain ⟨_, he⟩ := finish_eq c m f
  rw [he]
@[simp] theorem finish_nests (c : Cluster) (m : Cmd) (f : Finish) : (c.finish m f).nests = c.nests := by
  obtain ⟨_, he⟩ := finish_eq c m f
  rw [he]
@[simp] theorem finish_chans (c : Cluster) (m : Cmd) (f : Finish) : (c.finish m f).chans = c.chans := by
  obtain ⟨_, he⟩ := finish_eq c m f
  rw [he]
@[simp] theorem finish_inbox (c : Cluster) (m : Cmd) (f : Finish) : (c.finish m f).inbox = c.inbox := by
  obtain ⟨_, he⟩ := finish_eq c m f
  rw [he]
@[simp] theorem finish_clk (c : Cluster) (m : Cmd) (f : Finish) : (c.finish m f).clk = c.clk := by
  obtain ⟨_, he⟩ := finish_eq c m f
  rw [he]

/-! Trap entry. -/

variable {s : State} {k i : Nat} {t : Trap} {b : Bool}

/-- Trap entry outside a handler changes the cluster of the Context alone. -/
theorem enterTrap_other (h : (s.context k i).h = false) {j : Nat} (hj : j ≠ k) : (s.enterTrap k i t b).cluster j = s.cluster j := by
  simp [State.enterTrap, h, State.cluster, State.setCluster, SMap.get_put, hj]
theorem enterTrap_kernels (h : (s.context k i).h = false) : (s.enterTrap k i t b).kernels = s.kernels := by
  simp [State.enterTrap, h]
theorem enterTrap_arg (h : (s.context k i).h = false) : (s.enterTrap k i t b).arg = s.arg := by
  simp [State.enterTrap, h]

end Sys2Proof.Machine
end

