-- ==== Sys2Proof/Laws/Host.lean ====
section
/-! SUPPORT. What a request of the host can do to the state: an answer touches nothing but the outbox, a taken request its queue pair besides, a refused one may close its pair, and a write to the control region acts or is refused. -/

set_option Elab.async false
namespace Sys2Proof.Machine

/-! An answer, field by field. -/

@[simp] theorem answered_outbox (s : State) (os : List Output) : (s.answered os).outbox = s.outbox ++ os := rfl
@[simp] theorem answered_clusters (s : State) (os : List Output) : (s.answered os).clusters = s.clusters := rfl
@[simp] theorem answered_kernels (s : State) (os : List Output) : (s.answered os).kernels = s.kernels := rfl
@[simp] theorem answered_qps (s : State) (os : List Output) : (s.answered os).qps = s.qps := rfl
@[simp] theorem answered_fsvn (s : State) (os : List Output) : (s.answered os).fsvn = s.fsvn := rfl
@[simp] theorem answered_arg (s : State) (os : List Output) : (s.answered os).arg = s.arg := rfl
@[simp] theorem answered_stage (s : State) (os : List Output) : (s.answered os).stage = s.stage := rfl

/-! A request that is taken. -/

@[simp] theorem taken_outbox (s : State) (n : Nat) (os : List Output) : (s.taken n os).outbox = s.outbox ++ os := rfl
@[simp] theorem taken_clusters (s : State) (n : Nat) (os : List Output) : (s.taken n os).clusters = s.clusters := rfl
@[simp] theorem taken_kernels (s : State) (n : Nat) (os : List Output) : (s.taken n os).kernels = s.kernels := rfl
@[simp] theorem taken_fsvn (s : State) (n : Nat) (os : List Output) : (s.taken n os).fsvn = s.fsvn := rfl
@[simp] theorem taken_arg (s : State) (n : Nat) (os : List Output) : (s.taken n os).arg = s.arg := rfl
@[simp] theorem taken_stage (s : State) (n : Nat) (os : List Output) : (s.taken n os).stage = s.stage := rfl
@[simp] theorem taken_qpair (s : State) (n : Nat) (os : List Output) :
    (s.taken n os).qpair s.arg.c = { s.qpair s.arg.c with psn := ((s.qpair s.arg.c).psn + n) % 2 ^ 24 } :=
  (SMap.get_put _ _ _ _ _).trans (if_pos rfl)

/-! A request that is refused: the answer, and where it closes its pair, that pair and its unfinished write. -/

@[simp] theorem reconnect_outbox (s : State) (q : Nat) (x : QPair) : (s.reconnect q x).outbox = s.outbox := rfl
@[simp] theorem reconnect_kernels (s : State) (q : Nat) (x : QPair) : (s.reconnect q x).kernels = s.kernels := rfl
@[simp] theorem reconnect_fsvn (s : State) (q : Nat) (x : QPair) : (s.reconnect q x).fsvn = s.fsvn := rfl
@[simp] theorem reconnect_arg (s : State) (q : Nat) (x : QPair) : (s.reconnect q x).arg = s.arg := rfl
@[simp] theorem reconnect_stage (s : State) (q : Nat) (x : QPair) : (s.reconnect q x).stage = s.stage := rfl
@[simp] theorem reconnect_verifying (s : State) (q : Nat) (x : QPair) : (s.reconnect q x).verifying = s.verifying := rfl
@[simp] theorem reconnect_qpair (s : State) (q : Nat) (x : QPair) : (s.reconnect q x).qpair q = x :=
  (SMap.get_put _ _ _ _ _).trans (if_pos rfl)
@[simp] theorem refused_outbox (s : State) (os : List Output) : (s.refused os).outbox = s.outbox ++ os := by
  unfold State.refused; split <;> rfl
@[simp] theorem refused_kernels (s : State) (os : List Output) : (s.refused os).kernels = s.kernels := by
  unfold State.refused; split <;> rfl
@[simp] theorem refused_fsvn (s : State) (os : List Output) : (s.refused os).fsvn = s.fsvn := by
  unfold State.refused; split <;> rfl
@[simp] theorem refused_stage (s : State) (os : List Output) : (s.refused os).stage = s.stage := by
  unfold State.refused; split <;> rfl
/-- A refusal whose answer closes nothing is that answer alone. -/
theorem refused_of_open {s : State} {os : List Output} (h : os.any Output.closes = false) : s.refused os = s.answered os := by
  simp [State.refused, h]

/-! Packets that reach an ingress buffer: the pair they belong to, and acknowledgements. -/

theorem entered_nil (s : State) (q : Nat) : s.entered q [] = s := rfl
@[simp] theorem entered_clusters (s : State) (q : Nat) (l : List Nat) : (s.entered q l).clusters = s.clusters := by
  unfold State.entered; split <;> rfl
@[simp] theorem entered_kernels (s : State) (q : Nat) (l : List Nat) : (s.entered q l).kernels = s.kernels := by
  unfold State.entered; split <;> rfl
@[simp] theorem entered_fsvn (s : State) (q : Nat) (l : List Nat) : (s.entered q l).fsvn = s.fsvn := by
  unfold State.entered; split <;> rfl
@[simp] theorem entered_stage (s : State) (q : Nat) (l : List Nat) : (s.entered q l).stage = s.stage := by
  unfold State.entered; split <;> rfl
/-- Nothing but acknowledgements leaves, and none where no packet arrived. -/
theorem entered_outbox (s : State) (q : Nat) (l : List Nat) : ∃ n, (s.entered q l).outbox = s.outbox ++ List.replicate n .hostAck ∧ (l = [] → n = 0) := by
  unfold State.entered
  split
  · exact ⟨0, by simp, fun _ => rfl⟩
  · rename_i h
    exact ⟨_, rfl, fun e => absurd (by simp [e]) h⟩

/-- A write to the control region acts on the state that has acknowledged it, or is refused and does nothing else. -/
theorem controlWrite_cases (s : State) (n : Nat) (act : State → State) :
    s.controlWrite n act = act s.acked ∨ ∃ os, s.controlWrite n act = s.refused os := by
  unfold State.controlWrite
  split
  · exact .inr ⟨_, rfl⟩
  · split
    · exact .inr ⟨_, rfl⟩
    · exact .inl rfl

/-- A write in its turn, without a message in progress, with region 0's key and within the path MTU acts. -/
theorem controlWrite_of_taken {s : State} {n : Nat} (act : State → State) (ho : s.outOfTurn = none)
    (hm : (s.qpair s.arg.c).msg = none) (hh : (s.qpair s.arg.c).held = []) (hk : s.keyOk 0 = true) (hn : n ≤ Config.mtu) :
    s.controlWrite n act = act s.acked := by
  simp [State.controlWrite, State.refusal, ho, hm, hh, hk, Nat.not_lt.mpr hn]

/-- A request is in its turn exactly on a connected pair of a port that is up, with the number expected. -/
theorem outOfTurn_eq_none {s : State} :
    s.outOfTurn = none ↔ s.hostUp = true ∧ s.arg.c < Config.queuePairs ∧ (s.qpair s.arg.c).on = true ∧ s.arg.j = (s.qpair s.arg.c).psn := by
  rw [← Nat.not_le]
  simp only [State.outOfTurn]
  split <;> [skip; split <;> [skip; split <;> [skip; split <;> [skip; split <;> [skip; split]]]]] <;> simp_all

end Sys2Proof.Machine
end

