-- ==== Sys2Proof/Laws/Issue.lean ====
section
/-! SUPPORT. One issue of a plain bundle: what it answers, said once for every slot instruction. -/

set_option Elab.async false
namespace Sys2Proof.Machine

theorem issuing_iff {s : State} {k c : Nat} : s.issuing k c = true ↔
    s.cur = k ∧ k < Config.clusters ∧ (s.cluster k).runCtx = some c ∧ (s.context k c).iter = 0 ∧ (s.context k c).skipS = false
      ∧ runaway (s.cluster k) (s.context k c) = false := by
  simp [State.issuing, and_assoc]

/-- An issue by the Context in RUN always answers a next state. -/
theorem issuePlain_eq {s : State} {k c : Nat} (i : Instr) (e : Effect) (h : s.issuing k c = true) :
    issuePlain i e s = .next (issueBy s k c plainHeader [plainItem i e (s.context k c)]) := by
  obtain ⟨rfl, hk, hr, -⟩ := issuing_iff.mp h
  simp only [issuePlain, issue, hr, if_neg (Nat.not_le.mpr hk)]

theorem attempt_plain {s : State} {k c : Nat} (i : Instr) (e : Effect) (h : s.issuing k c = true) :
    issueResult s k c plainHeader [plainItem i e (s.context k c)] =
      runItems s k c plainHeader (Item.uses (s.context k c) (plainItem i e (s.context k c)))
        [plainItem i e (s.context k c)] none s.blank := by
  obtain ⟨-, -, -, hi, hs, hw⟩ := issuing_iff.mp h
  simp [issueResult, attempt, plainHeader, hi, hs, hw, State.blank]

theorem runItems_one (s : State) (k c : Nat) (hd : Header) (u : List PUse) (it : Item) (w : Work) :
    runItems s k c hd u [it] none w = it.run s k c hd u w := by
  simp only [runItems]
  cases it.run s k c hd u w <;> rfl

/-- The slot acts: the issue takes place. -/
theorem issuePlain_ok {s : State} {k c : Nat} {i : Instr} {w : Work} (h : s.issuing k c = true) (hl : legal i = true)
    (hd : decodeFault (s.context k c) ((slotOf i).getD .s) i 0 false = none)
    (he : slotEffect i (s.slotView k c i) s.blank = .ok w) :
    issuePlain i (slotEffect i) s = .next (s.issued k c i w) := by
  have hs := (issuing_iff.mp h).2.2.2.2.1
  have hi := (issuing_iff.mp h).2.2.2.1
  rw [issuePlain_eq i _ h, issueBy, attempt_plain i _ h, runItems_one]
  have : (plainItem i (slotEffect i) (s.context k c)).run s k c plainHeader
      (Item.uses (s.context k c) (plainItem i (slotEffect i) (s.context k c))) s.blank = .ok w := by
    simp only [Item.run, plainItem, hl, if_true] at he ⊢
    simp only [plainHeader, hd]
    rw [← he]
    simp [State.slotView, plainItem, hl, hi]
  rw [this]
  simp [State.issued, hs]

/-- The slot stops: so does the issue. -/
theorem issuePlain_stop {s : State} {k c : Nat} {i : Instr} {e : Stop} (h : s.issuing k c = true) (hl : legal i = true)
    (hd : decodeFault (s.context k c) ((slotOf i).getD .s) i 0 false = none)
    (he : slotEffect i (s.slotView k c i) s.blank = .error e) :
    issuePlain i (slotEffect i) s = .next (stopIssue s k c e) := by
  have hi := (issuing_iff.mp h).2.2.2.1
  rw [issuePlain_eq i _ h, issueBy, attempt_plain i _ h, runItems_one]
  have : (plainItem i (slotEffect i) (s.context k c)).run s k c plainHeader
      (Item.uses (s.context k c) (plainItem i (slotEffect i) (s.context k c))) s.blank = .error e := by
    simp only [Item.run, plainItem, hl, if_true] at he ⊢
    simp only [plainHeader, hd]
    rw [← he]
    simp [State.slotView, plainItem, hl, hi]
  rw [this]

/-- Decode finds a fault: the issue traps. -/
theorem issuePlain_fault {s : State} {k c : Nat} {i : Instr} {code : BitVec 16} (h : s.issuing k c = true) (hl : legal i = true)
    (hd : decodeFault (s.context k c) ((slotOf i).getD .s) i 0 false = some code) :
    issuePlain i (slotEffect i) s = .next (s.enterTrap k c (Trap.slotTrap code (slotNumber i) 0) false) := by
  have hi := (issuing_iff.mp h).2.2.2.1
  rw [issuePlain_eq i _ h, issueBy, attempt_plain i _ h, runItems_one]
  have : (plainItem i (slotEffect i) (s.context k c)).run s k c plainHeader
      (Item.uses (s.context k c) (plainItem i (slotEffect i) (s.context k c))) s.blank
        = .error (.trap (Trap.slotTrap code (slotNumber i) 0) false) := by
    simp only [Item.run, plainItem, hl, if_true]
    simp only [plainHeader, hd, hi, slotNumber]
  rw [this]
  rfl

/-- A word whose operand fields are reserved is ILLEGAL (03 R80). -/
theorem issuePlain_illegal {s : State} {k c : Nat} {i : Instr} (h : s.issuing k c = true) (hl : legal i = false) :
    issuePlain i (slotEffect i) s = .next (s.enterTrap k c (Trap.slotTrap cILLEGAL (slotNumber i) 0) false) := by
  have hi := (issuing_iff.mp h).2.2.2.1
  rw [issuePlain_eq i _ h, issueBy, attempt_plain i _ h, runItems_one]
  have : (plainItem i (slotEffect i) (s.context k c)).run s k c plainHeader
      (Item.uses (s.context k c) (plainItem i (slotEffect i) (s.context k c))) s.blank
        = .error (.trap (Trap.slotTrap cILLEGAL (slotNumber i) 0) false) := by
    simp [Item.run, plainItem, hl, hi, slotNumber]
  rw [this]
  rfl

/-! Every slot instruction is the issue of a plain bundle that holds it; `park` settles what it released behind its issue. -/

theorem exec_slot (i : Instr) (s : State) (h : (slotOf i).isSome = true) (hp : ∀ g a r, i ≠ .park g a r := by nofun) :
    exec i s = issuePlain i (slotEffect i) s := by
  match i with
  | .nop _ => rfl
  | .li _ _ _ => rfl
  | .lih _ _ _ _ => rfl
  | .mov _ _ _ => rfl
  | .add _ _ _ _ => rfl
  | .addi _ _ _ _ => rfl
  | .sub _ _ _ _ => rfl
  | .mul _ _ _ _ => rfl
  | .mulh _ _ _ _ => rfl
  | .mulhn _ _ _ _ => rfl
  | .div _ _ _ _ => rfl
  | .divn _ _ _ _ => rfl
  | .rem _ _ _ _ => rfl
  | .remn _ _ _ _ => rfl
  | .and _ _ _ _ => rfl
  | .andi _ _ _ _ => rfl
  | .or _ _ _ _ => rfl
  | .ori _ _ _ _ => rfl
  | .xor _ _ _ _ => rfl
  | .xori _ _ _ _ => rfl
  | .shl _ _ _ _ => rfl
  | .shli _ _ _ _ => rfl
  | .shr _ _ _ _ => rfl
  | .shri _ _ _ _ => rfl
  | .sar _ _ _ _ => rfl
  | .sari _ _ _ _ => rfl
  | .min _ _ _ _ => rfl
  | .minn _ _ _ _ => rfl
  | .max _ _ _ _ => rfl
  | .maxn _ _ _ _ => rfl
  | .clz _ _ _ => rfl
  | .ctz _ _ _ => rfl
  | .popc _ _ _ => rfl
  | .bfx _ _ _ _ _ _ => rfl
  | .bfi _ _ _ _ _ _ => rfl
  | .adds _ _ _ _ _ => rfl
  | .sel _ _ _ _ _ => rfl
  | .cmp _ _ _ _ _ => rfl
  | .cmpi _ _ _ _ _ => rfl
  | .pand _ _ _ _ => rfl
  | .por _ _ _ _ => rfl
  | .pxor _ _ _ _ => rfl
  | .pandn _ _ _ _ => rfl
  | .psetImm _ _ _ _ => rfl
  | .psetReg _ _ _ => rfl
  | .pcnt _ _ _ => rfl
  | .br _ _ _ => rfl
  | .brx _ _ _ => rfl
  | .call _ _ _ => rfl
  | .callx _ _ _ => rfl
  | .ret _ _ => rfl
  | .loop _ _ _ _ => rfl
  | .loopi _ _ _ _ => rfl
  | .loopSwp _ _ _ _ _ => rfl
  | .endt _ => rfl
  | .yield _ _ => rfl
  | .mfs _ _ _ => rfl
  | .mts _ _ _ => rfl
  | .trap _ _ => rfl
  | .sys _ _ => rfl
  | .eret _ => rfl
  | .rdtr _ _ _ => rfl
  | .ctxsave _ _ _ _ => rfl
  | .ctxload _ _ _ _ => rfl
  | .park g a r => exact absurd rfl (hp g a r)
  | .ptest _ _ _ => rfl
  | .spawnLocal _ _ _ _ => rfl
  | .spawnRemote _ _ _ _ _ _ => rfl
  | .joinParent _ _ => rfl
  | .joinRecord _ _ => rfl
  | .twaitImm _ _ _ _ _ => rfl
  | .twaitReg _ _ => rfl
  | .ttestPred _ _ _ _ _ _ => rfl
  | .ttestPredReg _ _ _ => rfl
  | .ttestScalar _ _ _ => rfl
  | .hwaitImm _ _ _ _ _ _ => rfl
  | .hwaitReg _ _ _ => rfl
  | .htestPred _ _ _ _ _ _ _ => rfl
  | .htestPredReg _ _ _ _ => rfl
  | .htestScalar _ _ _ => rfl
  | .htestOff _ _ _ => rfl
  | .gbar _ _ _ _ => rfl
  | .gbarArrive _ _ _ _ _ _ => rfl
  | .gbarWait _ _ _ _ => rfl
  | .nopA _ => rfl
  | .ld _ _ => rfl
  | .ldn _ _ => rfl
  | .st _ _ => rfl
  | .ldv _ _ => rfl
  | .stv _ _ => rfl
  | .ldg _ _ => rfl
  | .sts _ _ => rfl
  | .ldb _ _ _ => rfl
  | .stb _ _ _ => rfl
  | .baste _ => rfl
  | .aadd _ _ => rfl
  | .amov _ _ _ => rfl
  | .ali _ _ _ => rfl
  | .alih _ _ _ _ => rfl
  | .aofs _ _ _ _ => rfl
  | .sofa _ _ _ _ _ _ => rfl
  | .amoCas _ => rfl
  | .amoSwap _ => rfl
  | .amoAdd _ => rfl
  | .amoFadd _ => rfl
  | .amoMin _ => rfl
  | .amoMax _ => rfl
  | .amoAnd _ => rfl
  | .amoOr _ => rfl
  | .amoXor _ => rfl
  | .fence _ _ _ => rfl
  | .waitm _ _ _ _ _ _ _ _ => rfl
  | .pcfg _ _ _ _ _ => rfl
  | .padv _ _ _ => rfl
  | .pwaitFill _ _ _ => rfl
  | .pwaitFree _ _ _ => rfl
  | .pquery _ _ _ => rfl
  | .agset _ _ _ _ => rfl
  | .agsetDetach _ _ => rfl
  | .tlbinv _ _ _ => rfl
  | .tlbinvAll _ => rfl
  | .tlbinvAsid _ _ => rfl
  | .vadd _ => rfl
  | .vsub _ => rfl
  | .vmul _ => rfl
  | .vmulh _ => rfl
  | .vmad _ => rfl
  | .vmin _ => rfl
  | .vmax _ => rfl
  | .vabs _ => rfl
  | .vneg _ => rfl
  | .vand _ => rfl
  | .vor _ => rfl
  | .vxor _ => rfl
  | .vnot _ => rfl
  | .vshl _ => rfl
  | .vshr _ => rfl
  | .vsar _ => rfl
  | .vclz _ => rfl
  | .vpopc _ => rfl
  | .vadds _ => rfl
  | .vsubs _ => rfl
  | .vfadd _ => rfl
  | .vfsub _ => rfl
  | .vfmul _ => rfl
  | .vfma _ => rfl
  | .vfnma _ => rfl
  | .vfmin _ => rfl
  | .vfmax _ => rfl
  | .vfabs _ => rfl
  | .vfneg _ => rfl
  | .vrcp _ => rfl
  | .vrsq _ => rfl
  | .vsqrt _ => rfl
  | .vexp2 _ => rfl
  | .vlog2 _ => rfl
  | .vsig _ => rfl
  | .vcvt _ => rfl
  | .vcvts _ => rfl
  | .vqnt _ => rfl
  | .vdqnt _ => rfl
  | .vbmax _ => rfl
  | .vscale _ => rfl
  | .vsacc _ => rfl
  | .vplane _ => rfl
  | .vunplane _ => rfl
  | .vcmp _ => rfl
  | .vfcmp _ => rfl
  | .vclass _ => rfl
  | .vsel _ => rfl
  | .vperm _ => rfl
  | .vbcast _ => rfl
  | .vshift _ => rfl
  | .vzip _ => rfl
  | .vunzip _ => rfl
  | .vcompress _ => rfl
  | .vexpand _ => rfl
  | .vred _ => rfl
  | .vfred _ => rfl
  | .vscan _ => rfl
  | .vfscan _ => rfl
  | .vsort _ => rfl
  | .vsegsum _ => rfl
  | .vmov _ => rfl
  | .vli _ => rfl
  | .vext _ => rfl
  | .vins _ => rfl
  | .vidx _ => rfl
  | .vxpush _ => rfl
  | .nopE _ => rfl
  | .mxcfgLoad _ _ _ _ => rfl
  | .mxcfgStore _ _ _ _ => rfl
  | .mxgo _ _ => rfl
  | .mxzero _ _ _ _ => rfl
  | .mxshape _ _ _ _ _ _ => rfl
  | .mxdrainC12 _ _ _ _ => rfl
  | .mxdrainAb _ _ _ _ _ => rfl
  | .mxflag _ _ _ => rfl
  | .mxtw _ _ _ _ => rfl
  | .mxbf _ _ _ _ _ => rfl
  | .xcfg _ _ _ => rfl
  | .chgo _ _ => rfl
  | .chset _ _ _ _ => rfl
  | .chq _ _ _ _ _ => rfl
  | .tjoin _ => rfl
  | .put _ => rfl
  | .get _ => rfl
  | .acc _ => rfl
  | .ramo _ => rfl
  | .rcas _ => rfl
  | .wfence _ _ _ => rfl
  | .wpost _ _ _ => rfl
  | .wstart _ _ _ => rfl
  | .wcomplete _ _ => rfl
  | .wwait _ _ => rfl
  | .wlock _ _ _ _ => rfl
  | .wunlock _ _ _ => rfl
  | .wexpose _ _ _ => rfl
  | .wrevoke _ _ => rfl
  | .nmadd _ _ _ => rfl
  | .nmtopk _ _ _ => rfl
  | .nmpk _ _ _ => rfl
  | .nmbias _ _ => rfl
  | .nmfence _ => rfl
  | .gdisp _ _ _ _ _ => rfl
  | .hem _ => rfl
  | .bundleIssue _ => exact absurd h Bool.false_ne_true
  | .bundleSkip _ => exact absurd h Bool.false_ne_true
  | .fetchFault => exact absurd h Bool.false_ne_true
  | .blockRelease => exact absurd h Bool.false_ne_true
  | .switchIn => exact absurd h Bool.false_ne_true
  | .trapEntry => exact absurd h Bool.false_ne_true
  | .errorDelivery => exact absurd h Bool.false_ne_true
  | .vectorResultWrite => exact absurd h Bool.false_ne_true
  | .scalarResultWrite => exact absurd h Bool.false_ne_true
  | .predicateWrite => exact absurd h Bool.false_ne_true
  | .loadDataArrival => exact absurd h Bool.false_ne_true
  | .scaleLatchWrite => exact absurd h Bool.false_ne_true
  | .pleatReturn => exact absurd h Bool.false_ne_true
  | .generatorRowRequest => exact absurd h Bool.false_ne_true
  | .waitmReread => exact absurd h Bool.false_ne_true
  | .gbarWaitPoll => exact absurd h Bool.false_ne_true
  | .continuationAccept => exact absurd h Bool.false_ne_true
  | .joinDecrement => exact absurd h Bool.false_ne_true
  | .gbarDeferredArrival => exact absurd h Bool.false_ne_true
  | .mxcfgLoadDone => exact absurd h Bool.false_ne_true
  | .mxcfgStoreExec => exact absurd h Bool.false_ne_true
  | .nestWalkStart => exact absurd h Bool.false_ne_true
  | .nestStep => exact absurd h Bool.false_ne_true
  | .mxzeroExec => exact absurd h Bool.false_ne_true
  | .mxshapeExec => exact absurd h Bool.false_ne_true
  | .mxdrainExec => exact absurd h Bool.false_ne_true
  | .drainEntryTransfer => exact absurd h Bool.false_ne_true
  | .mxflagExec => exact absurd h Bool.false_ne_true
  | .mxtwExec => exact absurd h Bool.false_ne_true
  | .mxbfExec => exact absurd h Bool.false_ne_true
  | .xcfgExec => exact absurd h Bool.false_ne_true
  | .chsetExec => exact absurd h Bool.false_ne_true
  | .chainRecordRead => exact absurd h Bool.false_ne_true
  | .chainRowCopy => exact absurd h Bool.false_ne_true
  | .firmwareFinishChain => exact absurd h Bool.false_ne_true
  | .firmwareEndChain => exact absurd h Bool.false_ne_true
  | .chqSnapshot => exact absurd h Bool.false_ne_true
  | .commandFinish => exact absurd h Bool.false_ne_true
  | .inheritedFinish => exact absurd h Bool.false_ne_true
  | .packetSend => exact absurd h Bool.false_ne_true
  | .packetAdmit => exact absurd h Bool.false_ne_true
  | .putPacket => exact absurd h Bool.false_ne_true
  | .getreqPacket => exact absurd h Bool.false_ne_true
  | .accPacket => exact absurd h Bool.false_ne_true
  | .ramoPacket => exact absurd h Bool.false_ne_true
  | .rcasPacket => exact absurd h Bool.false_ne_true
  | .spawnPacket => exact absurd h Bool.false_ne_true
  | .joinPacket => exact absurd h Bool.false_ne_true
  | .arrive => exact absurd h Bool.false_ne_true
  | .marker => exact absurd h Bool.false_ne_true
  | .post => exact absurd h Bool.false_ne_true
  | .complete => exact absurd h Bool.false_ne_true
  | .lock => exact absurd h Bool.false_ne_true
  | .unlock => exact absurd h Bool.false_ne_true
  | .done => exact absurd h Bool.false_ne_true
  | .getdata => exact absurd h Bool.false_ne_true
  | .atomret => exact absurd h Bool.false_ne_true
  | .fail => exact absurd h Bool.false_ne_true
  | .grant => exact absurd h Bool.false_ne_true
  | .enack => exact absurd h Bool.false_ne_true
  | .enackResend => exact absurd h Bool.false_ne_true
  | .mgmt => exact absurd h Bool.false_ne_true
  | .nmForward => exact absurd h Bool.false_ne_true
  | .nmtopkExec => exact absurd h Bool.false_ne_true
  | .nmpkExec => exact absurd h Bool.false_ne_true
  | .nmaddExec => exact absurd h Bool.false_ne_true
  | .nmbiasCommit => exact absurd h Bool.false_ne_true
  | .nmfenceFinish => exact absurd h Bool.false_ne_true
  | .gdispExec => exact absurd h Bool.false_ne_true
  | .hemArrival => exact absurd h Bool.false_ne_true
  | .hemRoundAbort => exact absurd h Bool.false_ne_true
  | .queuePop => exact absurd h Bool.false_ne_true
  | .queueAgeing => exact absurd h Bool.false_ne_true
  | .queuePush => exact absurd h Bool.false_ne_true
  | .spillRingRefill => exact absurd h Bool.false_ne_true
  | .ksubmit => exact absurd h Bool.false_ne_true
  | .kctlStop => exact absurd h Bool.false_ne_true
  | .kctlResume => exact absurd h Bool.false_ne_true
  | .kctlEnd => exact absurd h Bool.false_ne_true
  | .kctlRelease => exact absurd h Bool.false_ne_true
  | .preemptionStop => exact absurd h Bool.false_ne_true
  | .kernelAdmit => exact absurd h Bool.false_ne_true
  | .leafPlacementPush => exact absurd h Bool.false_ne_true
  | .kernelDone => exact absurd h Bool.false_ne_true
  | .kernelParked => exact absurd h Bool.false_ne_true
  | .stopParkTimeout => exact absurd h Bool.false_ne_true
  | .firmwareEndKernel => exact absurd h Bool.false_ne_true
  | .freeDoubleContext => exact absurd h Bool.false_ne_true
  | .frctlReplay => exact absurd h Bool.false_ne_true
  | .frctlDeliver => exact absurd h Bool.false_ne_true
  | .accessNotice => exact absurd h Bool.false_ne_true
  | .releaseSetWriteback => exact absurd h Bool.false_ne_true
  | .hostRdmaWrite => exact absurd h Bool.false_ne_true
  | .hostIngressApply => exact absurd h Bool.false_ne_true
  | .hostRdmaRead => exact absurd h Bool.false_ne_true
  | .stagingWrite => exact absurd h Bool.false_ne_true
  | .rload => exact absurd h Bool.false_ne_true
  | .minsvn => exact absurd h Bool.false_ne_true
  | .mreset => exact absurd h Bool.false_ne_true
  | .plimit => exact absurd h Bool.false_ne_true
  | .attestationRequest => exact absurd h Bool.false_ne_true
  | .apertureWrite => exact absurd h Bool.false_ne_true
  | .registerWrite => exact absurd h Bool.false_ne_true
  | .powerUp => exact absurd h Bool.false_ne_true
  | .powerStepDown => exact absurd h Bool.false_ne_true
  | .thermalTrip => exact absurd h Bool.false_ne_true
  | .thermalRecover => exact absurd h Bool.false_ne_true
  | .telemetryUpdate => exact absurd h Bool.false_ne_true
  | .linkPacketReceive => exact absurd h Bool.false_ne_true
  | .ack => exact absurd h Bool.false_ne_true
  | .ackTimer => exact absurd h Bool.false_ne_true
  | .replayTimeout => exact absurd h Bool.false_ne_true
  | .portEnable => exact absurd h Bool.false_ne_true
  | .linkid => exact absurd h Bool.false_ne_true
  | .linkFail => exact absurd h Bool.false_ne_true
  | .portDisable => exact absurd h Bool.false_ne_true
  | .cancelHeldPackets => exact absurd h Bool.false_ne_true
  | .idleClk => exact absurd h Bool.false_ne_true
  | .softError => exact absurd h Bool.false_ne_true
  | .kernelTableWrite => exact absurd h Bool.false_ne_true
  | .dieControllerAccess => exact absurd h Bool.false_ne_true

theorem exec_park (g : Reg4) (a : SReg) (r : Bool) (s : State) :
    exec (.park g a r) s = thenSettle s (issuePlain (.park g a r) (slotEffect (.park g a r)) s) := rfl
theorem settleUnparked_none {s : State} {k c : Nat} (h : (s.context k c).unparked = none) : s.settleUnparked k c = s := by
  simp only [State.settleUnparked, h]
/-- With no release to settle, nothing is settled. -/
theorem settleReleases_none {s : State} {k : Nat} (h : ∀ n, n < 4 → (s.context k n).unparked = none) : s.settleReleases k = s := by
  simp only [State.settleReleases, ctxIds, List.foldl_cons, List.foldl_nil, settleUnparked_none (h 0 (by omega)), settleUnparked_none (h 1 (by omega)),
    settleUnparked_none (h 2 (by omega)), settleUnparked_none (h 3 (by omega))]

/-! Operands, guards and results of the slot in an issue. -/

variable {s : State} {k c : Nat} {i : Instr}

@[simp] theorem slotView_x : (s.slotView k c i).x = s.context k c := rfl
@[simp] theorem slotView_cl : (s.slotView k c i).cl = s.cluster k := rfl
@[simp] theorem slotView_k : (s.slotView k c i).k = k := rfl
@[simp] theorem slotView_c : (s.slotView k c i).c = c := rfl
@[simp] theorem slotView_pre : (s.slotView k c i).pre = s := rfl
@[simp] theorem slotView_iter : (s.slotView k c i).iter = 0 := rfl
@[simp] theorem slotView_rep : (s.slotView k c i).rep = 0 := rfl
@[simp] theorem slotView_len : (s.slotView k c i).len = 12 := rfl
@[simp] theorem slotView_instr : (s.slotView k c i).instr = i := rfl
@[simp] theorem slotView_pc : (s.slotView k c i).pc = (s.context k c).pc := rfl
@[simp] theorem slotView_slot : (s.slotView k c i).slot = (slotOf i).getD .s := rfl
@[simp] theorem blank_st : s.blank.st = s := rfl
@[simp] theorem blank_extra : s.blank.extra = 0 := rfl
@[simp] theorem blank_idle : s.blank.idle = 0 := rfl

theorem rp_ready {g : Reg4} (h : (s.context k c).readyP g = true) : (s.slotView k c i).rp g = .ok ((s.context k c).preg g) := by
  simp only [Context.readyP, Bool.and_eq_true, Bool.not_eq_true'] at h
  simp [Issue.rp, h.1, Option.isNone_iff_eq_none.mp h.2]
theorem ra_ready {r : Reg4} (h : (s.context k c).readyA r = true) : (s.slotView k c i).ra r = .ok ((s.context k c).areg r) := by
  simp only [Context.readyA, Bool.and_eq_true, Bool.not_eq_true'] at h
  simp [Issue.ra, h.1, Option.isNone_iff_eq_none.mp h.2]
theorem rs_ready {r : SReg} (h : (s.context k c).readyS r = true) : (s.slotView k c i).rs r = .ok ((s.context k c).sreg r) := by
  simp only [Context.readyS, Bool.or_eq_true, Bool.and_eq_true, Bool.not_eq_true', decide_eq_true_eq] at h
  by_cases hr : r = 0
  · simp [Issue.rs, Context.sreg, hr]
  · obtain ⟨⟨h1, h2⟩, h3⟩ := h.resolve_left hr
    simp only [Issue.rs, slotView_x, if_neg hr, h1, Option.isNone_iff_eq_none.mp h2, Option.isNone_iff_eq_none.mp h3, Bool.false_eq_true, if_false]
theorem guarded_on {g : Reg4} {w : Work} {act : Work → Res} (h : (s.context k c).on g = true) :
    (s.slotView k c i).guarded g w act = act w := by
  simp only [Context.on, Bool.and_eq_true] at h
  simp [Issue.guarded, rp_ready h.1, h.2]
theorem guarded_off {g : Reg4} {w : Work} {act : Work → Res} (h : (s.context k c).off g = true) :
    (s.slotView k c i).guarded g w act = .ok w := by
  simp only [Context.off, Bool.and_eq_true, Bool.not_eq_true'] at h
  simp [Issue.guarded, rp_ready h.1, h.2]
theorem putS_free {r : SReg} {v : Word} {d : Nat} {w : Work} (h : (s.context k c).freeS r = true) :
    (s.slotView k c i).putS r v d w = .ok (if r = 0 then w else w.fly (s.slotView k c i) (flightS r v d)) := by
  simp only [Context.freeS] at h
  simp only [Issue.putS, Issue.ws, slotView_x, Option.isNone_iff_eq_none.mp h, bind, Except.bind]
  split <;> rfl
@[simp] theorem fly_blank (f : Flight) : s.blank.fly (s.slotView k c i) f = s.sends k c f := rfl

theorem scalar1_ok {g : Reg4} {d a : SReg} {lat : Nat} {f : Word → Word} (hg : (s.context k c).on g = true)
    (ha : (s.context k c).readyS a = true) (hd : (s.context k c).freeS d = true) :
    scalar1 g d a lat f (s.slotView k c i) s.blank = .ok (s.result k c d (f ((s.context k c).sreg a)) lat) := by
  simp only [scalar1, guarded_on hg, rs_ready ha, bind, Except.bind, putS_free hd, fly_blank, State.result]
theorem scalar2_ok {g : Reg4} {d a b : SReg} {lat : Nat} {f : Word → Word → Word} (hg : (s.context k c).on g = true)
    (ha : (s.context k c).readyS a = true) (hb : (s.context k c).readyS b = true) (hd : (s.context k c).freeS d = true) :
    scalar2 g d a b lat f (s.slotView k c i) s.blank =
      .ok (s.result k c d (f ((s.context k c).sreg a) ((s.context k c).sreg b)) lat) := by
  simp only [scalar2, guarded_on hg, rs_ready ha, rs_ready hb, bind, Except.bind, putS_free hd, fly_blank, State.result]
theorem putPair_ok {e : Reg4} {m : Mask} : (s.slotView k c i).putPair e m s.blank = .ok (s.resultPair k c e m) := by
  simp only [Issue.putPair, Issue.putLanes, Work.fly, Work.modX, blank_st, slotView_k, slotView_c, state_modContext_modContext]
  rfl
theorem predicate2_ok {g e p q : Reg4} {f : Mask → Mask → Mask} (hg : (s.context k c).on g = true)
    (hp : (s.context k c).readyP p = true) (hq : (s.context k c).readyP q = true) :
    predicate2 g e p q f (s.slotView k c i) s.blank = .ok (s.resultPair k c e (f ((s.context k c).preg p) ((s.context k c).preg q))) := by
  simp only [predicate2, guarded_on hg, rp_ready hp, rp_ready hq, bind, Except.bind, putPair_ok]
/-- The outcome of a slot decides the issue. -/
theorem exec_ok {w : Work} (hs : (slotOf i).isSome = true) (h : s.issuing k c = true) (hl : legal i = true)
    (hd : decodeFault (s.context k c) ((slotOf i).getD .s) i 0 false = none)
    (he : slotEffect i (s.slotView k c i) s.blank = .ok w) (hp : ∀ g a r, i ≠ .park g a r := by nofun) : exec i s = .next (s.issued k c i w) := by
  rw [exec_slot i s hs hp, issuePlain_ok h hl hd he]
theorem exec_stop {e : Stop} (hs : (slotOf i).isSome = true) (h : s.issuing k c = true) (hl : legal i = true)
    (hd : decodeFault (s.context k c) ((slotOf i).getD .s) i 0 false = none)
    (he : slotEffect i (s.slotView k c i) s.blank = .error e) (hp : ∀ g a r, i ≠ .park g a r := by nofun) : exec i s = .next (stopIssue s k c e) := by
  rw [exec_slot i s hs hp, issuePlain_stop h hl hd he]
/-- Decode finds nothing wrong with a plain word outside stage mode's pairs and privileged code. -/
theorem decodeFault_none {x : Context} {sl : Slot} (hl : legal i = true)
    (hm : x.mode = false ∨ (predsWritten i).all (fun p => decide (p < 8)) = true) (hp : privileged i = true → x.h = true) :
    decodeFault x sl i 0 false = none := by
  have h1 : (x.mode && (predsWritten i).any (fun p => decide (8 ≤ p))) = false := by
    rcases hm with hm | hm
    · simp [hm]
    · simp only [Bool.and_eq_false_iff, List.any_eq_false, decide_eq_true_eq, List.all_eq_true] at hm ⊢
      exact .inr fun p hpm => by have := hm p hpm; omega
  have h2 : (privileged i && !x.h) = false := by
    cases hpr : privileged i
    · rfl
    · simp [hp hpr]
  simp [decodeFault, hl, h1, h2]

end Sys2Proof.Machine
end

