-- ==== Sys2Proof/WellFormed.lean ====
section
/-! DEFINITION. The instructions that an encoding can hold: a slot instruction whose operand fields no rule reserves (03 R80), a bundle whose words decode. -/

namespace Sys2Proof

/-- Every word of the bundle decodes in its slot and the reserved header bits are zero (03 R57, R80). -/
def Bundle.wellFormed (b : Bundle) : Bool :=
  b.rsv == 0 && b.words.all (fun p => match decodeWord p.1 p.2 with | .ok _ => true | .error _ => false)

/-- A slot instruction is well formed when its fields are legal; a bundle, when its words are; a machine event has no encoding. -/
def Instr.wf : Instr → Bool
  | .bundleIssue b => b.wellFormed
  | .bundleSkip b => b.wellFormed
  | i => (encode i).isSome && legal i

/-- Well-formedness as a proposition. -/
abbrev Instr.WellFormed (i : Instr) : Prop := i.wf = true

end Sys2Proof
end

