-- ==== Sys2Proof/Laws/PerInstr.lean ====
section
/-! SUPPORT. The word that the encoder gives an instruction, read back in its slot: one lemma for each constructor. -/

set_option linter.all false
set_option Elab.async false
namespace Sys2Proof

/-! Fields of packed words. -/

theorem SWord.unpack_pack (x : SWord) : SWord.unpack x.pack = x := by
  cases x
  simp only [SWord.unpack, SWord.pack, SWord.mk.injEq]
  refine ⟨?_, ?_, ?_, ?_, ?_, ?_, ?_⟩ <;>
    repeat first
      | rw [BitVec.extractLsb'_append_eq_of_le (by decide)]
      | rw [BitVec.extractLsb'_append_eq_of_add_le (by decide)]
      | exact BitVec.extractLsb'_eq_self
theorem AWord.unpack_pack (x : AWord) : AWord.unpack x.pack = x := by
  cases x
  simp only [AWord.unpack, AWord.pack, AWord.mk.injEq]
  refine ⟨?_, ?_, ?_, ?_, ?_, ?_, ?_, ?_, ?_, ?_⟩ <;>
    repeat first
      | rw [BitVec.extractLsb'_append_eq_of_le (by decide)]
      | rw [BitVec.extractLsb'_append_eq_of_add_le (by decide)]
      | exact BitVec.extractLsb'_eq_self
theorem VWord.unpack_pack (x : VWord) : VWord.unpack x.pack = x := by
  cases x
  simp only [VWord.unpack, VWord.pack, VWord.mk.injEq]
  refine ⟨?_, ?_, ?_, ?_, ?_, ?_, ?_, ?_, ?_, ?_, ?_, ?_⟩ <;>
    repeat first
      | rw [BitVec.extractLsb'_append_eq_of_le (by decide)]
      | rw [BitVec.extractLsb'_append_eq_of_add_le (by decide)]
      | exact BitVec.extractLsb'_eq_self
theorem EWord.unpack_pack (x : EWord) : EWord.unpack x.pack = x := by
  cases x
  simp only [EWord.unpack, EWord.pack, EWord.mk.injEq]
  refine ⟨?_, ?_, ?_, ?_, ?_, ?_, ?_⟩ <;>
    repeat first
      | rw [BitVec.extractLsb'_append_eq_of_le (by decide)]
      | rw [BitVec.extractLsb'_append_eq_of_add_le (by decide)]
      | exact BitVec.extractLsb'_eq_self

theorem decodeWord_s (x : SWord) : decodeWord .s x.pack = decodeSFields x := by simp only [decodeWord, SWord.unpack_pack]
theorem decodeWord_a (x : AWord) : decodeWord .a x.pack = decodeAFields x := by simp only [decodeWord, AWord.unpack_pack]
theorem decodeWord_v0 (x : VWord) : decodeWord .v0 x.pack = decodeVFields .v0 x := by simp only [decodeWord, VWord.unpack_pack]
theorem decodeWord_v1 (x : VWord) : decodeWord .v1 x.pack = decodeVFields .v1 x := by simp only [decodeWord, VWord.unpack_pack]
theorem decodeWord_e (x : EWord) : decodeWord .e x.pack = decodeEFields x := by simp only [decodeWord, EWord.unpack_pack]

/-! Each piece of an immediate is read back. -/
@[simp] theorem fields_26_6 (x0 : BitVec 26) (x1 : BitVec 6) :
    (x0 ++ x1 : BitVec 32).extractLsb' 6 26 = x0 ∧
    (x0 ++ x1 : BitVec 32).extractLsb' 0 6 = x1 := by
  refine ⟨?_, ?_⟩ <;>
    repeat first
      | rw [BitVec.extractLsb'_append_eq_of_le (by decide)]
      | rw [BitVec.extractLsb'_append_eq_of_add_le (by decide)]
      | exact BitVec.extractLsb'_eq_self
@[simp] theorem fields_18_6_2_6 (x0 : BitVec 18) (x1 : BitVec 6) (x2 : BitVec 2) (x3 : BitVec 6) :
    (x0 ++ x1 ++ x2 ++ x3 : BitVec 32).extractLsb' 14 18 = x0 ∧
    (x0 ++ x1 ++ x2 ++ x3 : BitVec 32).extractLsb' 8 6 = x1 ∧
    (x0 ++ x1 ++ x2 ++ x3 : BitVec 32).extractLsb' 6 2 = x2 ∧
    (x0 ++ x1 ++ x2 ++ x3 : BitVec 32).extractLsb' 0 6 = x3 := by
  refine ⟨?_, ?_, ?_, ?_⟩ <;>
    repeat first
      | rw [BitVec.extractLsb'_append_eq_of_le (by decide)]
      | rw [BitVec.extractLsb'_append_eq_of_add_le (by decide)]
      | exact BitVec.extractLsb'_eq_self
@[simp] theorem fields_4_1 (x0 : BitVec 4) (x1 : BitVec 1) :
    (x0 ++ x1 : BitVec 5).extractLsb' 1 4 = x0 ∧
    (x0 ++ x1 : BitVec 5).extractLsb' 0 1 = x1 := by
  refine ⟨?_, ?_⟩ <;>
    repeat first
      | rw [BitVec.extractLsb'_append_eq_of_le (by decide)]
      | rw [BitVec.extractLsb'_append_eq_of_add_le (by decide)]
      | exact BitVec.extractLsb'_eq_self
@[simp] theorem fields_15_9_8 (x0 : BitVec 15) (x1 : BitVec 9) (x2 : BitVec 8) :
    (x0 ++ x1 ++ x2 : BitVec 32).extractLsb' 17 15 = x0 ∧
    (x0 ++ x1 ++ x2 : BitVec 32).extractLsb' 8 9 = x1 ∧
    (x0 ++ x1 ++ x2 : BitVec 32).extractLsb' 0 8 = x2 := by
  refine ⟨?_, ?_, ?_⟩ <;>
    repeat first
      | rw [BitVec.extractLsb'_append_eq_of_le (by decide)]
      | rw [BitVec.extractLsb'_append_eq_of_add_le (by decide)]
      | exact BitVec.extractLsb'_eq_self
@[simp] theorem fields_3_2 (x0 : BitVec 3) (x1 : BitVec 2) :
    (x0 ++ x1 : BitVec 5).extractLsb' 2 3 = x0 ∧
    (x0 ++ x1 : BitVec 5).extractLsb' 0 2 = x1 := by
  refine ⟨?_, ?_⟩ <;>
    repeat first
      | rw [BitVec.extractLsb'_append_eq_of_le (by decide)]
      | rw [BitVec.extractLsb'_append_eq_of_add_le (by decide)]
      | exact BitVec.extractLsb'_eq_self
@[simp] theorem fields_16_16 (x0 : BitVec 16) (x1 : BitVec 16) :
    (x0 ++ x1 : BitVec 32).extractLsb' 16 16 = x0 ∧
    (x0 ++ x1 : BitVec 32).extractLsb' 0 16 = x1 := by
  refine ⟨?_, ?_⟩ <;>
    repeat first
      | rw [BitVec.extractLsb'_append_eq_of_le (by decide)]
      | rw [BitVec.extractLsb'_append_eq_of_add_le (by decide)]
      | exact BitVec.extractLsb'_eq_self
@[simp] theorem fields_1_1_3 (x0 : BitVec 1) (x1 : BitVec 1) (x2 : BitVec 3) :
    (x0 ++ x1 ++ x2 : BitVec 5).extractLsb' 4 1 = x0 ∧
    (x0 ++ x1 ++ x2 : BitVec 5).extractLsb' 3 1 = x1 ∧
    (x0 ++ x1 ++ x2 : BitVec 5).extractLsb' 0 3 = x2 := by
  refine ⟨?_, ?_, ?_⟩ <;>
    repeat first
      | rw [BitVec.extractLsb'_append_eq_of_le (by decide)]
      | rw [BitVec.extractLsb'_append_eq_of_add_le (by decide)]
      | exact BitVec.extractLsb'_eq_self
@[simp] theorem fields_24_8 (x0 : BitVec 24) (x1 : BitVec 8) :
    (x0 ++ x1 : BitVec 32).extractLsb' 8 24 = x0 ∧
    (x0 ++ x1 : BitVec 32).extractLsb' 0 8 = x1 := by
  refine ⟨?_, ?_⟩ <;>
    repeat first
      | rw [BitVec.extractLsb'_append_eq_of_le (by decide)]
      | rw [BitVec.extractLsb'_append_eq_of_add_le (by decide)]
      | exact BitVec.extractLsb'_eq_self
@[simp] theorem fields_29_3 (x0 : BitVec 29) (x1 : BitVec 3) :
    (x0 ++ x1 : BitVec 32).extractLsb' 3 29 = x0 ∧
    (x0 ++ x1 : BitVec 32).extractLsb' 0 3 = x1 := by
  refine ⟨?_, ?_⟩ <;>
    repeat first
      | rw [BitVec.extractLsb'_append_eq_of_le (by decide)]
      | rw [BitVec.extractLsb'_append_eq_of_add_le (by decide)]
      | exact BitVec.extractLsb'_eq_self
@[simp] theorem fields_8_6_6_6_6 (x0 : BitVec 8) (x1 : BitVec 6) (x2 : BitVec 6) (x3 : BitVec 6) (x4 : BitVec 6) :
    (x0 ++ x1 ++ x2 ++ x3 ++ x4 : BitVec 32).extractLsb' 24 8 = x0 ∧
    (x0 ++ x1 ++ x2 ++ x3 ++ x4 : BitVec 32).extractLsb' 18 6 = x1 ∧
    (x0 ++ x1 ++ x2 ++ x3 ++ x4 : BitVec 32).extractLsb' 12 6 = x2 ∧
    (x0 ++ x1 ++ x2 ++ x3 ++ x4 : BitVec 32).extractLsb' 6 6 = x3 ∧
    (x0 ++ x1 ++ x2 ++ x3 ++ x4 : BitVec 32).extractLsb' 0 6 = x4 := by
  refine ⟨?_, ?_, ?_, ?_, ?_⟩ <;>
    repeat first
      | rw [BitVec.extractLsb'_append_eq_of_le (by decide)]
      | rw [BitVec.extractLsb'_append_eq_of_add_le (by decide)]
      | exact BitVec.extractLsb'_eq_self
@[simp] theorem fields_12_5_5_5_5 (x0 : BitVec 12) (x1 : BitVec 5) (x2 : BitVec 5) (x3 : BitVec 5) (x4 : BitVec 5) :
    (x0 ++ x1 ++ x2 ++ x3 ++ x4 : BitVec 32).extractLsb' 20 12 = x0 ∧
    (x0 ++ x1 ++ x2 ++ x3 ++ x4 : BitVec 32).extractLsb' 15 5 = x1 ∧
    (x0 ++ x1 ++ x2 ++ x3 ++ x4 : BitVec 32).extractLsb' 10 5 = x2 ∧
    (x0 ++ x1 ++ x2 ++ x3 ++ x4 : BitVec 32).extractLsb' 5 5 = x3 ∧
    (x0 ++ x1 ++ x2 ++ x3 ++ x4 : BitVec 32).extractLsb' 0 5 = x4 := by
  refine ⟨?_, ?_, ?_, ?_, ?_⟩ <;>
    repeat first
      | rw [BitVec.extractLsb'_append_eq_of_le (by decide)]
      | rw [BitVec.extractLsb'_append_eq_of_add_le (by decide)]
      | exact BitVec.extractLsb'_eq_self
@[simp] theorem fields_27_5 (x0 : BitVec 27) (x1 : BitVec 5) :
    (x0 ++ x1 : BitVec 32).extractLsb' 5 27 = x0 ∧
    (x0 ++ x1 : BitVec 32).extractLsb' 0 5 = x1 := by
  refine ⟨?_, ?_⟩ <;>
    repeat first
      | rw [BitVec.extractLsb'_append_eq_of_le (by decide)]
      | rw [BitVec.extractLsb'_append_eq_of_add_le (by decide)]
      | exact BitVec.extractLsb'_eq_self
@[simp] theorem fields_20_4_3_5 (x0 : BitVec 20) (x1 : BitVec 4) (x2 : BitVec 3) (x3 : BitVec 5) :
    (x0 ++ x1 ++ x2 ++ x3 : BitVec 32).extractLsb' 12 20 = x0 ∧
    (x0 ++ x1 ++ x2 ++ x3 : BitVec 32).extractLsb' 8 4 = x1 ∧
    (x0 ++ x1 ++ x2 ++ x3 : BitVec 32).extractLsb' 5 3 = x2 ∧
    (x0 ++ x1 ++ x2 ++ x3 : BitVec 32).extractLsb' 0 5 = x3 := by
  refine ⟨?_, ?_, ?_, ?_⟩ <;>
    repeat first
      | rw [BitVec.extractLsb'_append_eq_of_le (by decide)]
      | rw [BitVec.extractLsb'_append_eq_of_add_le (by decide)]
      | exact BitVec.extractLsb'_eq_self
@[simp] theorem fields_10_6_4_4_3_5 (x0 : BitVec 10) (x1 : BitVec 6) (x2 : BitVec 4) (x3 : BitVec 4) (x4 : BitVec 3) (x5 : BitVec 5) :
    (x0 ++ x1 ++ x2 ++ x3 ++ x4 ++ x5 : BitVec 32).extractLsb' 22 10 = x0 ∧
    (x0 ++ x1 ++ x2 ++ x3 ++ x4 ++ x5 : BitVec 32).extractLsb' 16 6 = x1 ∧
    (x0 ++ x1 ++ x2 ++ x3 ++ x4 ++ x5 : BitVec 32).extractLsb' 12 4 = x2 ∧
    (x0 ++ x1 ++ x2 ++ x3 ++ x4 ++ x5 : BitVec 32).extractLsb' 8 4 = x3 ∧
    (x0 ++ x1 ++ x2 ++ x3 ++ x4 ++ x5 : BitVec 32).extractLsb' 5 3 = x4 ∧
    (x0 ++ x1 ++ x2 ++ x3 ++ x4 ++ x5 : BitVec 32).extractLsb' 0 5 = x5 := by
  refine ⟨?_, ?_, ?_, ?_, ?_, ?_⟩ <;>
    repeat first
      | rw [BitVec.extractLsb'_append_eq_of_le (by decide)]
      | rw [BitVec.extractLsb'_append_eq_of_add_le (by decide)]
      | exact BitVec.extractLsb'_eq_self
@[simp] theorem fields_20_4_8 (x0 : BitVec 20) (x1 : BitVec 4) (x2 : BitVec 8) :
    (x0 ++ x1 ++ x2 : BitVec 32).extractLsb' 12 20 = x0 ∧
    (x0 ++ x1 ++ x2 : BitVec 32).extractLsb' 8 4 = x1 ∧
    (x0 ++ x1 ++ x2 : BitVec 32).extractLsb' 0 8 = x2 := by
  refine ⟨?_, ?_, ?_⟩ <;>
    repeat first
      | rw [BitVec.extractLsb'_append_eq_of_le (by decide)]
      | rw [BitVec.extractLsb'_append_eq_of_add_le (by decide)]
      | exact BitVec.extractLsb'_eq_self
@[simp] theorem fields_3_1_1 (x0 : BitVec 3) (x1 : BitVec 1) (x2 : BitVec 1) :
    (x0 ++ x1 ++ x2 : BitVec 5).extractLsb' 2 3 = x0 ∧
    (x0 ++ x1 ++ x2 : BitVec 5).extractLsb' 1 1 = x1 ∧
    (x0 ++ x1 ++ x2 : BitVec 5).extractLsb' 0 1 = x2 := by
  refine ⟨?_, ?_, ?_⟩ <;>
    repeat first
      | rw [BitVec.extractLsb'_append_eq_of_le (by decide)]
      | rw [BitVec.extractLsb'_append_eq_of_add_le (by decide)]
      | exact BitVec.extractLsb'_eq_self
@[simp] theorem fields_2_1_2 (x0 : BitVec 2) (x1 : BitVec 1) (x2 : BitVec 2) :
    (x0 ++ x1 ++ x2 : BitVec 5).extractLsb' 3 2 = x0 ∧
    (x0 ++ x1 ++ x2 : BitVec 5).extractLsb' 2 1 = x1 ∧
    (x0 ++ x1 ++ x2 : BitVec 5).extractLsb' 0 2 = x2 := by
  refine ⟨?_, ?_, ?_⟩ <;>
    repeat first
      | rw [BitVec.extractLsb'_append_eq_of_le (by decide)]
      | rw [BitVec.extractLsb'_append_eq_of_add_le (by decide)]
      | exact BitVec.extractLsb'_eq_self
@[simp] theorem fields_2_3 (x0 : BitVec 2) (x1 : BitVec 3) :
    (x0 ++ x1 : BitVec 5).extractLsb' 3 2 = x0 ∧
    (x0 ++ x1 : BitVec 5).extractLsb' 0 3 = x1 := by
  refine ⟨?_, ?_⟩ <;>
    repeat first
      | rw [BitVec.extractLsb'_append_eq_of_le (by decide)]
      | rw [BitVec.extractLsb'_append_eq_of_add_le (by decide)]
      | exact BitVec.extractLsb'_eq_self
@[simp] theorem fields_16_4 (x0 : BitVec 16) (x1 : BitVec 4) :
    (x0 ++ x1 : BitVec 20).extractLsb' 4 16 = x0 ∧
    (x0 ++ x1 : BitVec 20).extractLsb' 0 4 = x1 := by
  refine ⟨?_, ?_⟩ <;>
    repeat first
      | rw [BitVec.extractLsb'_append_eq_of_le (by decide)]
      | rw [BitVec.extractLsb'_append_eq_of_add_le (by decide)]
      | exact BitVec.extractLsb'_eq_self
@[simp] theorem fields_10_1_4_5 (x0 : BitVec 10) (x1 : BitVec 1) (x2 : BitVec 4) (x3 : BitVec 5) :
    (x0 ++ x1 ++ x2 ++ x3 : BitVec 20).extractLsb' 10 10 = x0 ∧
    (x0 ++ x1 ++ x2 ++ x3 : BitVec 20).extractLsb' 9 1 = x1 ∧
    (x0 ++ x1 ++ x2 ++ x3 : BitVec 20).extractLsb' 5 4 = x2 ∧
    (x0 ++ x1 ++ x2 ++ x3 : BitVec 20).extractLsb' 0 5 = x3 := by
  refine ⟨?_, ?_, ?_, ?_⟩ <;>
    repeat first
      | rw [BitVec.extractLsb'_append_eq_of_le (by decide)]
      | rw [BitVec.extractLsb'_append_eq_of_add_le (by decide)]
      | exact BitVec.extractLsb'_eq_self
@[simp] theorem fields_9_1_4_6 (x0 : BitVec 9) (x1 : BitVec 1) (x2 : BitVec 4) (x3 : BitVec 6) :
    (x0 ++ x1 ++ x2 ++ x3 : BitVec 20).extractLsb' 11 9 = x0 ∧
    (x0 ++ x1 ++ x2 ++ x3 : BitVec 20).extractLsb' 10 1 = x1 ∧
    (x0 ++ x1 ++ x2 ++ x3 : BitVec 20).extractLsb' 6 4 = x2 ∧
    (x0 ++ x1 ++ x2 ++ x3 : BitVec 20).extractLsb' 0 6 = x3 := by
  refine ⟨?_, ?_, ?_, ?_⟩ <;>
    repeat first
      | rw [BitVec.extractLsb'_append_eq_of_le (by decide)]
      | rw [BitVec.extractLsb'_append_eq_of_add_le (by decide)]
      | exact BitVec.extractLsb'_eq_self
@[simp] theorem fields_14_6 (x0 : BitVec 14) (x1 : BitVec 6) :
    (x0 ++ x1 : BitVec 20).extractLsb' 6 14 = x0 ∧
    (x0 ++ x1 : BitVec 20).extractLsb' 0 6 = x1 := by
  refine ⟨?_, ?_⟩ <;>
    repeat first
      | rw [BitVec.extractLsb'_append_eq_of_le (by decide)]
      | rw [BitVec.extractLsb'_append_eq_of_add_le (by decide)]
      | exact BitVec.extractLsb'_eq_self
@[simp] theorem fields_13_1_6 (x0 : BitVec 13) (x1 : BitVec 1) (x2 : BitVec 6) :
    (x0 ++ x1 ++ x2 : BitVec 20).extractLsb' 7 13 = x0 ∧
    (x0 ++ x1 ++ x2 : BitVec 20).extractLsb' 6 1 = x1 ∧
    (x0 ++ x1 ++ x2 : BitVec 20).extractLsb' 0 6 = x2 := by
  refine ⟨?_, ?_, ?_⟩ <;>
    repeat first
      | rw [BitVec.extractLsb'_append_eq_of_le (by decide)]
      | rw [BitVec.extractLsb'_append_eq_of_add_le (by decide)]
      | exact BitVec.extractLsb'_eq_self
@[simp] theorem fields_2_5_5 (x0 : BitVec 2) (x1 : BitVec 5) (x2 : BitVec 5) :
    (x0 ++ x1 ++ x2 : BitVec 12).extractLsb' 10 2 = x0 ∧
    (x0 ++ x1 ++ x2 : BitVec 12).extractLsb' 5 5 = x1 ∧
    (x0 ++ x1 ++ x2 : BitVec 12).extractLsb' 0 5 = x2 := by
  refine ⟨?_, ?_, ?_⟩ <;>
    repeat first
      | rw [BitVec.extractLsb'_append_eq_of_le (by decide)]
      | rw [BitVec.extractLsb'_append_eq_of_add_le (by decide)]
      | exact BitVec.extractLsb'_eq_self
@[simp] theorem fields_8_4 (x0 : BitVec 8) (x1 : BitVec 4) :
    (x0 ++ x1 : BitVec 12).extractLsb' 4 8 = x0 ∧
    (x0 ++ x1 : BitVec 12).extractLsb' 0 4 = x1 := by
  refine ⟨?_, ?_⟩ <;>
    repeat first
      | rw [BitVec.extractLsb'_append_eq_of_le (by decide)]
      | rw [BitVec.extractLsb'_append_eq_of_add_le (by decide)]
      | exact BitVec.extractLsb'_eq_self
@[simp] theorem fields_2_1_4_21 (x0 : BitVec 2) (x1 : BitVec 1) (x2 : BitVec 4) (x3 : BitVec 21) :
    (x0 ++ x1 ++ x2 ++ x3 : BitVec 28).extractLsb' 26 2 = x0 ∧
    (x0 ++ x1 ++ x2 ++ x3 : BitVec 28).extractLsb' 25 1 = x1 ∧
    (x0 ++ x1 ++ x2 ++ x3 : BitVec 28).extractLsb' 21 4 = x2 ∧
    (x0 ++ x1 ++ x2 ++ x3 : BitVec 28).extractLsb' 0 21 = x3 := by
  refine ⟨?_, ?_, ?_, ?_⟩ <;>
    repeat first
      | rw [BitVec.extractLsb'_append_eq_of_le (by decide)]
      | rw [BitVec.extractLsb'_append_eq_of_add_le (by decide)]
      | exact BitVec.extractLsb'_eq_self
@[simp] theorem fields_2_26 (x0 : BitVec 2) (x1 : BitVec 26) :
    (x0 ++ x1 : BitVec 28).extractLsb' 26 2 = x0 ∧
    (x0 ++ x1 : BitVec 28).extractLsb' 0 26 = x1 := by
  refine ⟨?_, ?_⟩ <;>
    repeat first
      | rw [BitVec.extractLsb'_append_eq_of_le (by decide)]
      | rw [BitVec.extractLsb'_append_eq_of_add_le (by decide)]
      | exact BitVec.extractLsb'_eq_self
@[simp] theorem fields_10_4_1_1_12 (x0 : BitVec 10) (x1 : BitVec 4) (x2 : BitVec 1) (x3 : BitVec 1) (x4 : BitVec 12) :
    (x0 ++ x1 ++ x2 ++ x3 ++ x4 : BitVec 28).extractLsb' 18 10 = x0 ∧
    (x0 ++ x1 ++ x2 ++ x3 ++ x4 : BitVec 28).extractLsb' 14 4 = x1 ∧
    (x0 ++ x1 ++ x2 ++ x3 ++ x4 : BitVec 28).extractLsb' 13 1 = x2 ∧
    (x0 ++ x1 ++ x2 ++ x3 ++ x4 : BitVec 28).extractLsb' 12 1 = x3 ∧
    (x0 ++ x1 ++ x2 ++ x3 ++ x4 : BitVec 28).extractLsb' 0 12 = x4 := by
  refine ⟨?_, ?_, ?_, ?_, ?_⟩ <;>
    repeat first
      | rw [BitVec.extractLsb'_append_eq_of_le (by decide)]
      | rw [BitVec.extractLsb'_append_eq_of_add_le (by decide)]
      | exact BitVec.extractLsb'_eq_self
@[simp] theorem fields_10_1_10_7 (x0 : BitVec 10) (x1 : BitVec 1) (x2 : BitVec 10) (x3 : BitVec 7) :
    (x0 ++ x1 ++ x2 ++ x3 : BitVec 28).extractLsb' 18 10 = x0 ∧
    (x0 ++ x1 ++ x2 ++ x3 : BitVec 28).extractLsb' 17 1 = x1 ∧
    (x0 ++ x1 ++ x2 ++ x3 : BitVec 28).extractLsb' 7 10 = x2 ∧
    (x0 ++ x1 ++ x2 ++ x3 : BitVec 28).extractLsb' 0 7 = x3 := by
  refine ⟨?_, ?_, ?_, ?_⟩ <;>
    repeat first
      | rw [BitVec.extractLsb'_append_eq_of_le (by decide)]
      | rw [BitVec.extractLsb'_append_eq_of_add_le (by decide)]
      | exact BitVec.extractLsb'_eq_self
@[simp] theorem fields_10_6_12 (x0 : BitVec 10) (x1 : BitVec 6) (x2 : BitVec 12) :
    (x0 ++ x1 ++ x2 : BitVec 28).extractLsb' 18 10 = x0 ∧
    (x0 ++ x1 ++ x2 : BitVec 28).extractLsb' 12 6 = x1 ∧
    (x0 ++ x1 ++ x2 : BitVec 28).extractLsb' 0 12 = x2 := by
  refine ⟨?_, ?_, ?_⟩ <;>
    repeat first
      | rw [BitVec.extractLsb'_append_eq_of_le (by decide)]
      | rw [BitVec.extractLsb'_append_eq_of_add_le (by decide)]
      | exact BitVec.extractLsb'_eq_self
@[simp] theorem fields_10_5_6_1_6 (x0 : BitVec 10) (x1 : BitVec 5) (x2 : BitVec 6) (x3 : BitVec 1) (x4 : BitVec 6) :
    (x0 ++ x1 ++ x2 ++ x3 ++ x4 : BitVec 28).extractLsb' 18 10 = x0 ∧
    (x0 ++ x1 ++ x2 ++ x3 ++ x4 : BitVec 28).extractLsb' 13 5 = x1 ∧
    (x0 ++ x1 ++ x2 ++ x3 ++ x4 : BitVec 28).extractLsb' 7 6 = x2 ∧
    (x0 ++ x1 ++ x2 ++ x3 ++ x4 : BitVec 28).extractLsb' 6 1 = x3 ∧
    (x0 ++ x1 ++ x2 ++ x3 ++ x4 : BitVec 28).extractLsb' 0 6 = x4 := by
  refine ⟨?_, ?_, ?_, ?_, ?_⟩ <;>
    repeat first
      | rw [BitVec.extractLsb'_append_eq_of_le (by decide)]
      | rw [BitVec.extractLsb'_append_eq_of_add_le (by decide)]
      | exact BitVec.extractLsb'_eq_self
@[simp] theorem fields_10_1_1_4_12 (x0 : BitVec 10) (x1 : BitVec 1) (x2 : BitVec 1) (x3 : BitVec 4) (x4 : BitVec 12) :
    (x0 ++ x1 ++ x2 ++ x3 ++ x4 : BitVec 28).extractLsb' 18 10 = x0 ∧
    (x0 ++ x1 ++ x2 ++ x3 ++ x4 : BitVec 28).extractLsb' 17 1 = x1 ∧
    (x0 ++ x1 ++ x2 ++ x3 ++ x4 : BitVec 28).extractLsb' 16 1 = x2 ∧
    (x0 ++ x1 ++ x2 ++ x3 ++ x4 : BitVec 28).extractLsb' 12 4 = x3 ∧
    (x0 ++ x1 ++ x2 ++ x3 ++ x4 : BitVec 28).extractLsb' 0 12 = x4 := by
  refine ⟨?_, ?_, ?_, ?_, ?_⟩ <;>
    repeat first
      | rw [BitVec.extractLsb'_append_eq_of_le (by decide)]
      | rw [BitVec.extractLsb'_append_eq_of_add_le (by decide)]
      | exact BitVec.extractLsb'_eq_self
@[simp] theorem fields_5_1_22 (x0 : BitVec 5) (x1 : BitVec 1) (x2 : BitVec 22) :
    (x0 ++ x1 ++ x2 : BitVec 28).extractLsb' 23 5 = x0 ∧
    (x0 ++ x1 ++ x2 : BitVec 28).extractLsb' 22 1 = x1 ∧
    (x0 ++ x1 ++ x2 : BitVec 28).extractLsb' 0 22 = x2 := by
  refine ⟨?_, ?_, ?_⟩ <;>
    repeat first
      | rw [BitVec.extractLsb'_append_eq_of_le (by decide)]
      | rw [BitVec.extractLsb'_append_eq_of_add_le (by decide)]
      | exact BitVec.extractLsb'_eq_self
@[simp] theorem fields_4_24 (x0 : BitVec 4) (x1 : BitVec 24) :
    (x0 ++ x1 : BitVec 28).extractLsb' 24 4 = x0 ∧
    (x0 ++ x1 : BitVec 28).extractLsb' 0 24 = x1 := by
  refine ⟨?_, ?_⟩ <;>
    repeat first
      | rw [BitVec.extractLsb'_append_eq_of_le (by decide)]
      | rw [BitVec.extractLsb'_append_eq_of_add_le (by decide)]
      | exact BitVec.extractLsb'_eq_self
@[simp] theorem fields_4_4_2_18 (x0 : BitVec 4) (x1 : BitVec 4) (x2 : BitVec 2) (x3 : BitVec 18) :
    (x0 ++ x1 ++ x2 ++ x3 : BitVec 28).extractLsb' 24 4 = x0 ∧
    (x0 ++ x1 ++ x2 ++ x3 : BitVec 28).extractLsb' 20 4 = x1 ∧
    (x0 ++ x1 ++ x2 ++ x3 : BitVec 28).extractLsb' 18 2 = x2 ∧
    (x0 ++ x1 ++ x2 ++ x3 : BitVec 28).extractLsb' 0 18 = x3 := by
  refine ⟨?_, ?_, ?_, ?_⟩ <;>
    repeat first
      | rw [BitVec.extractLsb'_append_eq_of_le (by decide)]
      | rw [BitVec.extractLsb'_append_eq_of_add_le (by decide)]
      | exact BitVec.extractLsb'_eq_self
@[simp] theorem fields_4_4_1_7_12 (x0 : BitVec 4) (x1 : BitVec 4) (x2 : BitVec 1) (x3 : BitVec 7) (x4 : BitVec 12) :
    (x0 ++ x1 ++ x2 ++ x3 ++ x4 : BitVec 28).extractLsb' 24 4 = x0 ∧
    (x0 ++ x1 ++ x2 ++ x3 ++ x4 : BitVec 28).extractLsb' 20 4 = x1 ∧
    (x0 ++ x1 ++ x2 ++ x3 ++ x4 : BitVec 28).extractLsb' 19 1 = x2 ∧
    (x0 ++ x1 ++ x2 ++ x3 ++ x4 : BitVec 28).extractLsb' 12 7 = x3 ∧
    (x0 ++ x1 ++ x2 ++ x3 ++ x4 : BitVec 28).extractLsb' 0 12 = x4 := by
  refine ⟨?_, ?_, ?_, ?_, ?_⟩ <;>
    repeat first
      | rw [BitVec.extractLsb'_append_eq_of_le (by decide)]
      | rw [BitVec.extractLsb'_append_eq_of_add_le (by decide)]
      | exact BitVec.extractLsb'_eq_self
@[simp] theorem fields_5_4_2_1_4_12 (x0 : BitVec 5) (x1 : BitVec 4) (x2 : BitVec 2) (x3 : BitVec 1) (x4 : BitVec 4) (x5 : BitVec 12) :
    (x0 ++ x1 ++ x2 ++ x3 ++ x4 ++ x5 : BitVec 28).extractLsb' 23 5 = x0 ∧
    (x0 ++ x1 ++ x2 ++ x3 ++ x4 ++ x5 : BitVec 28).extractLsb' 19 4 = x1 ∧
    (x0 ++ x1 ++ x2 ++ x3 ++ x4 ++ x5 : BitVec 28).extractLsb' 17 2 = x2 ∧
    (x0 ++ x1 ++ x2 ++ x3 ++ x4 ++ x5 : BitVec 28).extractLsb' 16 1 = x3 ∧
    (x0 ++ x1 ++ x2 ++ x3 ++ x4 ++ x5 : BitVec 28).extractLsb' 12 4 = x4 ∧
    (x0 ++ x1 ++ x2 ++ x3 ++ x4 ++ x5 : BitVec 28).extractLsb' 0 12 = x5 := by
  refine ⟨?_, ?_, ?_, ?_, ?_, ?_⟩ <;>
    repeat first
      | rw [BitVec.extractLsb'_append_eq_of_le (by decide)]
      | rw [BitVec.extractLsb'_append_eq_of_add_le (by decide)]
      | exact BitVec.extractLsb'_eq_self
@[simp] theorem fields_5_5_5_5_1_2_4_1 (x0 : BitVec 5) (x1 : BitVec 5) (x2 : BitVec 5) (x3 : BitVec 5) (x4 : BitVec 1) (x5 : BitVec 2) (x6 : BitVec 4) (x7 : BitVec 1) :
    (x0 ++ x1 ++ x2 ++ x3 ++ x4 ++ x5 ++ x6 ++ x7 : BitVec 28).extractLsb' 23 5 = x0 ∧
    (x0 ++ x1 ++ x2 ++ x3 ++ x4 ++ x5 ++ x6 ++ x7 : BitVec 28).extractLsb' 18 5 = x1 ∧
    (x0 ++ x1 ++ x2 ++ x3 ++ x4 ++ x5 ++ x6 ++ x7 : BitVec 28).extractLsb' 13 5 = x2 ∧
    (x0 ++ x1 ++ x2 ++ x3 ++ x4 ++ x5 ++ x6 ++ x7 : BitVec 28).extractLsb' 8 5 = x3 ∧
    (x0 ++ x1 ++ x2 ++ x3 ++ x4 ++ x5 ++ x6 ++ x7 : BitVec 28).extractLsb' 7 1 = x4 ∧
    (x0 ++ x1 ++ x2 ++ x3 ++ x4 ++ x5 ++ x6 ++ x7 : BitVec 28).extractLsb' 5 2 = x5 ∧
    (x0 ++ x1 ++ x2 ++ x3 ++ x4 ++ x5 ++ x6 ++ x7 : BitVec 28).extractLsb' 1 4 = x6 ∧
    (x0 ++ x1 ++ x2 ++ x3 ++ x4 ++ x5 ++ x6 ++ x7 : BitVec 28).extractLsb' 0 1 = x7 := by
  refine ⟨?_, ?_, ?_, ?_, ?_, ?_, ?_, ?_⟩ <;>
    repeat first
      | rw [BitVec.extractLsb'_append_eq_of_le (by decide)]
      | rw [BitVec.extractLsb'_append_eq_of_add_le (by decide)]
      | exact BitVec.extractLsb'_eq_self
@[simp] theorem fields_12_2_14 (x0 : BitVec 12) (x1 : BitVec 2) (x2 : BitVec 14) :
    (x0 ++ x1 ++ x2 : BitVec 28).extractLsb' 16 12 = x0 ∧
    (x0 ++ x1 ++ x2 : BitVec 28).extractLsb' 14 2 = x1 ∧
    (x0 ++ x1 ++ x2 : BitVec 28).extractLsb' 0 14 = x2 := by
  refine ⟨?_, ?_, ?_⟩ <;>
    repeat first
      | rw [BitVec.extractLsb'_append_eq_of_le (by decide)]
      | rw [BitVec.extractLsb'_append_eq_of_add_le (by decide)]
      | exact BitVec.extractLsb'_eq_self
@[simp] theorem fields_12_5_11 (x0 : BitVec 12) (x1 : BitVec 5) (x2 : BitVec 11) :
    (x0 ++ x1 ++ x2 : BitVec 28).extractLsb' 16 12 = x0 ∧
    (x0 ++ x1 ++ x2 : BitVec 28).extractLsb' 11 5 = x1 ∧
    (x0 ++ x1 ++ x2 : BitVec 28).extractLsb' 0 11 = x2 := by
  refine ⟨?_, ?_, ?_⟩ <;>
    repeat first
      | rw [BitVec.extractLsb'_append_eq_of_le (by decide)]
      | rw [BitVec.extractLsb'_append_eq_of_add_le (by decide)]
      | exact BitVec.extractLsb'_eq_self
@[simp] theorem fields_12_16 (x0 : BitVec 12) (x1 : BitVec 16) :
    (x0 ++ x1 : BitVec 28).extractLsb' 16 12 = x0 ∧
    (x0 ++ x1 : BitVec 28).extractLsb' 0 16 = x1 := by
  refine ⟨?_, ?_⟩ <;>
    repeat first
      | rw [BitVec.extractLsb'_append_eq_of_le (by decide)]
      | rw [BitVec.extractLsb'_append_eq_of_add_le (by decide)]
      | exact BitVec.extractLsb'_eq_self
@[simp] theorem fields_12_5_1_10 (x0 : BitVec 12) (x1 : BitVec 5) (x2 : BitVec 1) (x3 : BitVec 10) :
    (x0 ++ x1 ++ x2 ++ x3 : BitVec 28).extractLsb' 16 12 = x0 ∧
    (x0 ++ x1 ++ x2 ++ x3 : BitVec 28).extractLsb' 11 5 = x1 ∧
    (x0 ++ x1 ++ x2 ++ x3 : BitVec 28).extractLsb' 10 1 = x2 ∧
    (x0 ++ x1 ++ x2 ++ x3 : BitVec 28).extractLsb' 0 10 = x3 := by
  refine ⟨?_, ?_, ?_, ?_⟩ <;>
    repeat first
      | rw [BitVec.extractLsb'_append_eq_of_le (by decide)]
      | rw [BitVec.extractLsb'_append_eq_of_add_le (by decide)]
      | exact BitVec.extractLsb'_eq_self
@[simp] theorem fields_12_4_12 (x0 : BitVec 12) (x1 : BitVec 4) (x2 : BitVec 12) :
    (x0 ++ x1 ++ x2 : BitVec 28).extractLsb' 16 12 = x0 ∧
    (x0 ++ x1 ++ x2 : BitVec 28).extractLsb' 12 4 = x1 ∧
    (x0 ++ x1 ++ x2 : BitVec 28).extractLsb' 0 12 = x2 := by
  refine ⟨?_, ?_, ?_⟩ <;>
    repeat first
      | rw [BitVec.extractLsb'_append_eq_of_le (by decide)]
      | rw [BitVec.extractLsb'_append_eq_of_add_le (by decide)]
      | exact BitVec.extractLsb'_eq_self
@[simp] theorem fields_4_12_12 (x0 : BitVec 4) (x1 : BitVec 12) (x2 : BitVec 12) :
    (x0 ++ x1 ++ x2 : BitVec 28).extractLsb' 24 4 = x0 ∧
    (x0 ++ x1 ++ x2 : BitVec 28).extractLsb' 12 12 = x1 ∧
    (x0 ++ x1 ++ x2 : BitVec 28).extractLsb' 0 12 = x2 := by
  refine ⟨?_, ?_, ?_⟩ <;>
    repeat first
      | rw [BitVec.extractLsb'_append_eq_of_le (by decide)]
      | rw [BitVec.extractLsb'_append_eq_of_add_le (by decide)]
      | exact BitVec.extractLsb'_eq_self
@[simp] theorem fields_4_12_3_1_8 (x0 : BitVec 4) (x1 : BitVec 12) (x2 : BitVec 3) (x3 : BitVec 1) (x4 : BitVec 8) :
    (x0 ++ x1 ++ x2 ++ x3 ++ x4 : BitVec 28).extractLsb' 24 4 = x0 ∧
    (x0 ++ x1 ++ x2 ++ x3 ++ x4 : BitVec 28).extractLsb' 12 12 = x1 ∧
    (x0 ++ x1 ++ x2 ++ x3 ++ x4 : BitVec 28).extractLsb' 9 3 = x2 ∧
    (x0 ++ x1 ++ x2 ++ x3 ++ x4 : BitVec 28).extractLsb' 8 1 = x3 ∧
    (x0 ++ x1 ++ x2 ++ x3 ++ x4 : BitVec 28).extractLsb' 0 8 = x4 := by
  refine ⟨?_, ?_, ?_, ?_, ?_⟩ <;>
    repeat first
      | rw [BitVec.extractLsb'_append_eq_of_le (by decide)]
      | rw [BitVec.extractLsb'_append_eq_of_add_le (by decide)]
      | exact BitVec.extractLsb'_eq_self

@[simp] theorem count_pieces (x : BitVec 15) : (x.extractLsb' 10 5 ++ x.extractLsb' 5 5 ++ x.extractLsb' 0 5) = x := by
  rw [BitVec.extractLsb'_append_extractLsb'_eq_extractLsb' (by decide), BitVec.extractLsb'_append_extractLsb'_eq_extractLsb' (by decide)]
  exact BitVec.extractLsb'_eq_self
@[simp] theorem imm_pieces (x : BitVec 32) : (x.extractLsb' 12 20 ++ x.extractLsb' 0 12 : BitVec 32) = x := by
  rw [BitVec.extractLsb'_append_extractLsb'_eq_extractLsb' (by decide)]
  exact BitVec.extractLsb'_eq_self
theorem k14a : ∀ k : BitVec 6, (0#14 ++ k : BitVec 20).extractLsb' 6 1 = 0#1 := by decide
theorem k14b : ∀ k : BitVec 6, (0#14 ++ k : BitVec 20).extractLsb' 7 13 = 0#13 := by decide
theorem k14c : ∀ k : BitVec 6, (1#14 ++ k : BitVec 20).extractLsb' 6 1 = 1#1 := by decide
theorem k14d : ∀ k : BitVec 6, (1#14 ++ k : BitVec 20).extractLsb' 7 13 = 0#13 := by decide
theorem ramo1 (n d a x : BitVec 5) (w : BitVec 1) (o : BitVec 2) (s : BitVec 4) (q : BitVec 1) :
    (n ++ d ++ a ++ x ++ w ++ o ++ s ++ q : BitVec 28).extractLsb' 12 1 = x.extractLsb' 4 1 := by
  repeat first
    | rw [BitVec.extractLsb'_append_eq_of_le (by decide)]
    | rw [BitVec.extractLsb'_append_eq_of_add_le (by decide)]
theorem ramo4 (n d a x : BitVec 5) (w : BitVec 1) (o : BitVec 2) (s : BitVec 4) (q : BitVec 1) :
    (n ++ d ++ a ++ x ++ w ++ o ++ s ++ q : BitVec 28).extractLsb' 8 4 = x.extractLsb' 0 4 := by
  repeat first
    | rw [BitVec.extractLsb'_append_eq_of_le (by decide)]
    | rw [BitVec.extractLsb'_append_eq_of_add_le (by decide)]
theorem ramoX (f : RaF) (h : legal (.ramo f) = true) :
    f.x.extractLsb' 4 1 = 0#1 ∧ 0#1 ++ f.x.extractLsb' 0 4 = f.x := by
  have hx : f.x.toNat ≤ 9 := by
    simp only [legal, Bool.and_eq_true, decide_eq_true_eq] at h
    omega
  revert hx
  generalize f.x = x
  revert x
  decide
@[simp] theorem bit_zero : bit 0#1 = false := rfl
@[simp] theorem bit_one : bit 1#1 = true := rfl

@[simp] theorem hi0_z4 (x : BitVec 4) : hi0 (z4 x) = true := by revert x; decide
@[simp] theorem lo4_z4 (x : BitVec 4) : lo4 (z4 x) = x := by revert x; decide
@[simp] theorem bit_b1 (b : Bool) : bit (b1 b) = b := by cases b <;> rfl
@[simp] theorem widthOf_code (w : Width) : widthOf w.code = w := by cases w <;> rfl
@[simp] theorem orderOf_code (o : Order) : orderOf o.code = o := by cases o <;> rfl
@[simp] theorem condOf_cc5 (c : Cond) : condOf (cc5 c).toNat = some c := by cases c <;> rfl
@[simp] theorem condOf_code (c : Cond) : condOf c.code.toNat = some c := by cases c <;> rfl

namespace Laws.Enc

/-- The word of an instruction, in its slot, decodes to it. -/
def Statement (i : Instr) : Prop := ∀ sl w, encode i = some (sl, w) → legal i = true → decodeWord sl w = .ok i


theorem nop (g : Reg4) : Statement (.nop g) := by
  intro sl w h hl
  obtain ⟨rfl, rfl⟩ := Prod.mk.inj (Option.some.inj h)
  clear h
  erw [decodeWord_s]
  change accept _ _ = _
  all_goals simp [accept, hl, toks, hnds, s1, acceptCond]

theorem li (g : Reg4) (d : SReg) (imm : BitVec 32) : Statement (.li g d imm) := by
  intro sl w h hl
  obtain ⟨rfl, rfl⟩ := Prod.mk.inj (Option.some.inj h)
  clear h
  erw [decodeWord_s]
  change accept _ _ = _
  all_goals simp [accept, hl, toks, hnds, s1, acceptCond]

theorem lih (g : Reg4) (d a : SReg) (imm : BitVec 32) : Statement (.lih g d a imm) := by
  intro sl w h hl
  obtain ⟨rfl, rfl⟩ := Prod.mk.inj (Option.some.inj h)
  clear h
  erw [decodeWord_s]
  change accept _ _ = _
  all_goals simp [accept, hl, toks, hnds, s1, acceptCond]

theorem mov (g : Reg4) (d a : SReg) : Statement (.mov g d a) := by
  intro sl w h hl
  obtain ⟨rfl, rfl⟩ := Prod.mk.inj (Option.some.inj h)
  clear h
  erw [decodeWord_s]
  change accept _ _ = _
  all_goals simp [accept, hl, toks, hnds, s1, acceptCond]

theorem add (g : Reg4) (d a b : SReg) : Statement (.add g d a b) := by
  intro sl w h hl
  obtain ⟨rfl, rfl⟩ := Prod.mk.inj (Option.some.inj h)
  clear h
  erw [decodeWord_s]
  change accept _ _ = _
  all_goals simp [accept, hl, toks, hnds, s1, acceptCond]

theorem addi (g : Reg4) (d a : SReg) (imm : BitVec 32) : Statement (.addi g d a imm) := by
  intro sl w h hl
  obtain ⟨rfl, rfl⟩ := Prod.mk.inj (Option.some.inj h)
  clear h
  erw [decodeWord_s]
  change accept _ _ = _
  all_goals simp [accept, hl, toks, hnds, s1, acceptCond]

theorem sub (g : Reg4) (d a b : SReg) : Statement (.sub g d a b) := by
  intro sl w h hl
  obtain ⟨rfl, rfl⟩ := Prod.mk.inj (Option.some.inj h)
  clear h
  erw [decodeWord_s]
  change accept _ _ = _
  all_goals simp [accept, hl, toks, hnds, s1, acceptCond]

theorem mul (g : Reg4) (d a b : SReg) : Statement (.mul g d a b) := by
  intro sl w h hl
  obtain ⟨rfl, rfl⟩ := Prod.mk.inj (Option.some.inj h)
  clear h
  erw [decodeWord_s]
  change accept _ _ = _
  all_goals simp [accept, hl, toks, hnds, s1, acceptCond]

theorem mulh (g : Reg4) (d a b : SReg) : Statement (.mulh g d a b) := by
  intro sl w h hl
  obtain ⟨rfl, rfl⟩ := Prod.mk.inj (Option.some.inj h)
  clear h
  erw [decodeWord_s]
  change accept _ _ = _
  all_goals simp [accept, hl, toks, hnds, s1, acceptCond]

theorem mulhn (g : Reg4) (d a b : SReg) : Statement (.mulhn g d a b) := by
  intro sl w h hl
  obtain ⟨rfl, rfl⟩ := Prod.mk.inj (Option.some.inj h)
  clear h
  erw [decodeWord_s]
  change accept _ _ = _
  all_goals simp [accept, hl, toks, hnds, s1, acceptCond]

theorem div (g : Reg4) (d a b : SReg) : Statement (.div g d a b) := by
  intro sl w h hl
  obtain ⟨rfl, rfl⟩ := Prod.mk.inj (Option.some.inj h)
  clear h
  erw [decodeWord_s]
  change accept _ _ = _
  all_goals simp [accept, hl, toks, hnds, s1, acceptCond]

theorem divn (g : Reg4) (d a b : SReg) : Statement (.divn g d a b) := by
  intro sl w h hl
  obtain ⟨rfl, rfl⟩ := Prod.mk.inj (Option.some.inj h)
  clear h
  erw [decodeWord_s]
  change accept _ _ = _
  all_goals simp [accept, hl, toks, hnds, s1, acceptCond]

theorem rem (g : Reg4) (d a b : SReg) : Statement (.rem g d a b) := by
  intro sl w h hl
  obtain ⟨rfl, rfl⟩ := Prod.mk.inj (Option.some.inj h)
  clear h
  erw [decodeWord_s]
  change accept _ _ = _
  all_goals simp [accept, hl, toks, hnds, s1, acceptCond]

theorem remn (g : Reg4) (d a b : SReg) : Statement (.remn g d a b) := by
  intro sl w h hl
  obtain ⟨rfl, rfl⟩ := Prod.mk.inj (Option.some.inj h)
  clear h
  erw [decodeWord_s]
  change accept _ _ = _
  all_goals simp [accept, hl, toks, hnds, s1, acceptCond]

theorem and (g : Reg4) (d a b : SReg) : Statement (.and g d a b) := by
  intro sl w h hl
  obtain ⟨rfl, rfl⟩ := Prod.mk.inj (Option.some.inj h)
  clear h
  erw [decodeWord_s]
  change accept _ _ = _
  all_goals simp [accept, hl, toks, hnds, s1, acceptCond]

theorem andi (g : Reg4) (d a : SReg) (imm : BitVec 32) : Statement (.andi g d a imm) := by
  intro sl w h hl
  obtain ⟨rfl, rfl⟩ := Prod.mk.inj (Option.some.inj h)
  clear h
  erw [decodeWord_s]
  change accept _ _ = _
  all_goals simp [accept, hl, toks, hnds, s1, acceptCond]

theorem or (g : Reg4) (d a b : SReg) : Statement (.or g d a b) := by
  intro sl w h hl
  obtain ⟨rfl, rfl⟩ := Prod.mk.inj (Option.some.inj h)
  clear h
  erw [decodeWord_s]
  change accept _ _ = _
  all_goals simp [accept, hl, toks, hnds, s1, acceptCond]

theorem ori (g : Reg4) (d a : SReg) (imm : BitVec 32) : Statement (.ori g d a imm) := by
  intro sl w h hl
  obtain ⟨rfl, rfl⟩ := Prod.mk.inj (Option.some.inj h)
  clear h
  erw [decodeWord_s]
  change accept _ _ = _
  all_goals simp [accept, hl, toks, hnds, s1, acceptCond]

theorem xor (g : Reg4) (d a b : SReg) : Statement (.xor g d a b) := by
  intro sl w h hl
  obtain ⟨rfl, rfl⟩ := Prod.mk.inj (Option.some.inj h)
  clear h
  erw [decodeWord_s]
  change accept _ _ = _
  all_goals simp [accept, hl, toks, hnds, s1, acceptCond]

theorem xori (g : Reg4) (d a : SReg) (imm : BitVec 32) : Statement (.xori g d a imm) := by
  intro sl w h hl
  obtain ⟨rfl, rfl⟩ := Prod.mk.inj (Option.some.inj h)
  clear h
  erw [decodeWord_s]
  change accept _ _ = _
  all_goals simp [accept, hl, toks, hnds, s1, acceptCond]

theorem shl (g : Reg4) (d a b : SReg) : Statement (.shl g d a b) := by
  intro sl w h hl
  obtain ⟨rfl, rfl⟩ := Prod.mk.inj (Option.some.inj h)
  clear h
  erw [decodeWord_s]
  change accept _ _ = _
  all_goals simp [accept, hl, toks, hnds, s1, acceptCond]

theorem shli (g : Reg4) (d a : SReg) (sh : BitVec 6) : Statement (.shli g d a sh) := by
  intro sl w h hl
  obtain ⟨rfl, rfl⟩ := Prod.mk.inj (Option.some.inj h)
  clear h
  erw [decodeWord_s]
  change accept _ _ = _
  all_goals simp [accept, hl, toks, hnds, s1, acceptCond]

theorem shr (g : Reg4) (d a b : SReg) : Statement (.shr g d a b) := by
  intro sl w h hl
  obtain ⟨rfl, rfl⟩ := Prod.mk.inj (Option.some.inj h)
  clear h
  erw [decodeWord_s]
  change accept _ _ = _
  all_goals simp [accept, hl, toks, hnds, s1, acceptCond]

theorem shri (g : Reg4) (d a : SReg) (sh : BitVec 6) : Statement (.shri g d a sh) := by
  intro sl w h hl
  obtain ⟨rfl, rfl⟩ := Prod.mk.inj (Option.some.inj h)
  clear h
  erw [decodeWord_s]
  change accept _ _ = _
  all_goals simp [accept, hl, toks, hnds, s1, acceptCond]

theorem sar (g : Reg4) (d a b : SReg) : Statement (.sar g d a b) := by
  intro sl w h hl
  obtain ⟨rfl, rfl⟩ := Prod.mk.inj (Option.some.inj h)
  clear h
  erw [decodeWord_s]
  change accept _ _ = _
  all_goals simp [accept, hl, toks, hnds, s1, acceptCond]

theorem sari (g : Reg4) (d a : SReg) (sh : BitVec 6) : Statement (.sari g d a sh) := by
  intro sl w h hl
  obtain ⟨rfl, rfl⟩ := Prod.mk.inj (Option.some.inj h)
  clear h
  erw [decodeWord_s]
  change accept _ _ = _
  all_goals simp [accept, hl, toks, hnds, s1, acceptCond]

theorem min (g : Reg4) (d a b : SReg) : Statement (.min g d a b) := by
  intro sl w h hl
  obtain ⟨rfl, rfl⟩ := Prod.mk.inj (Option.some.inj h)
  clear h
  erw [decodeWord_s]
  change accept _ _ = _
  all_goals simp [accept, hl, toks, hnds, s1, acceptCond]

theorem minn (g : Reg4) (d a b : SReg) : Statement (.minn g d a b) := by
  intro sl w h hl
  obtain ⟨rfl, rfl⟩ := Prod.mk.inj (Option.some.inj h)
  clear h
  erw [decodeWord_s]
  change accept _ _ = _
  all_goals simp [accept, hl, toks, hnds, s1, acceptCond]

theorem max (g : Reg4) (d a b : SReg) : Statement (.max g d a b) := by
  intro sl w h hl
  obtain ⟨rfl, rfl⟩ := Prod.mk.inj (Option.some.inj h)
  clear h
  erw [decodeWord_s]
  change accept _ _ = _
  all_goals simp [accept, hl, toks, hnds, s1, acceptCond]

theorem maxn (g : Reg4) (d a b : SReg) : Statement (.maxn g d a b) := by
  intro sl w h hl
  obtain ⟨rfl, rfl⟩ := Prod.mk.inj (Option.some.inj h)
  clear h
  erw [decodeWord_s]
  change accept _ _ = _
  all_goals simp [accept, hl, toks, hnds, s1, acceptCond]

theorem clz (g : Reg4) (d a : SReg) : Statement (.clz g d a) := by
  intro sl w h hl
  obtain ⟨rfl, rfl⟩ := Prod.mk.inj (Option.some.inj h)
  clear h
  erw [decodeWord_s]
  change accept _ _ = _
  all_goals simp [accept, hl, toks, hnds, s1, acceptCond]

theorem ctz (g : Reg4) (d a : SReg) : Statement (.ctz g d a) := by
  intro sl w h hl
  obtain ⟨rfl, rfl⟩ := Prod.mk.inj (Option.some.inj h)
  clear h
  erw [decodeWord_s]
  change accept _ _ = _
  all_goals simp [accept, hl, toks, hnds, s1, acceptCond]

theorem popc (g : Reg4) (d a : SReg) : Statement (.popc g d a) := by
  intro sl w h hl
  obtain ⟨rfl, rfl⟩ := Prod.mk.inj (Option.some.inj h)
  clear h
  erw [decodeWord_s]
  change accept _ _ = _
  all_goals simp [accept, hl, toks, hnds, s1, acceptCond]

theorem bfx (g : Reg4) (d a : SReg) (sx : Bool) (pos wm1 : BitVec 6) : Statement (.bfx g d a sx pos wm1) := by
  intro sl w h hl
  obtain ⟨rfl, rfl⟩ := Prod.mk.inj (Option.some.inj h)
  clear h
  erw [decodeWord_s]
  change accept _ _ = _
  all_goals simp [accept, hl, toks, hnds, s1, acceptCond]

theorem bfi (g : Reg4) (d a b : SReg) (pos wm1 : BitVec 6) : Statement (.bfi g d a b pos wm1) := by
  intro sl w h hl
  obtain ⟨rfl, rfl⟩ := Prod.mk.inj (Option.some.inj h)
  clear h
  erw [decodeWord_s]
  change accept _ _ = _
  all_goals simp [accept, hl, toks, hnds, s1, acceptCond]

theorem adds (g : Reg4) (d a b : SReg) (un : Bool) : Statement (.adds g d a b un) := by
  intro sl w h hl
  obtain ⟨rfl, rfl⟩ := Prod.mk.inj (Option.some.inj h)
  clear h
  erw [decodeWord_s]
  change accept _ _ = _
  all_goals simp [accept, hl, toks, hnds, s1, acceptCond]

theorem sel (g : Reg4) (d a b : SReg) (p : Reg4) : Statement (.sel g d a b p) := by
  intro sl w h hl
  obtain ⟨rfl, rfl⟩ := Prod.mk.inj (Option.some.inj h)
  clear h
  erw [decodeWord_s]
  change accept _ _ = _
  all_goals simp [accept, hl, toks, hnds, s1, acceptCond]

theorem cmp (g : Reg4) (e : Reg4) (a b : SReg) (cc : Cond) : Statement (.cmp g e a b cc) := by
  intro sl w h hl
  obtain ⟨rfl, rfl⟩ := Prod.mk.inj (Option.some.inj h)
  clear h
  erw [decodeWord_s]
  change acceptCond _ _ _ = _
  all_goals simp [accept, hl, toks, hnds, s1, acceptCond]

theorem cmpi (g : Reg4) (e : Reg4) (a : SReg) (cc : Cond) (imm : BitVec 32) : Statement (.cmpi g e a cc imm) := by
  intro sl w h hl
  obtain ⟨rfl, rfl⟩ := Prod.mk.inj (Option.some.inj h)
  clear h
  erw [decodeWord_s]
  change acceptCond _ _ _ = _
  all_goals simp [accept, hl, toks, hnds, s1, acceptCond]

theorem pand (g : Reg4) (e p1 p2 : Reg4) : Statement (.pand g e p1 p2) := by
  intro sl w h hl
  obtain ⟨rfl, rfl⟩ := Prod.mk.inj (Option.some.inj h)
  clear h
  erw [decodeWord_s]
  change accept _ _ = _
  all_goals simp [accept, hl, toks, hnds, s1, acceptCond]

theorem por (g : Reg4) (e p1 p2 : Reg4) : Statement (.por g e p1 p2) := by
  intro sl w h hl
  obtain ⟨rfl, rfl⟩ := Prod.mk.inj (Option.some.inj h)
  clear h
  erw [decodeWord_s]
  change accept _ _ = _
  all_goals simp [accept, hl, toks, hnds, s1, acceptCond]

theorem pxor (g : Reg4) (e p1 p2 : Reg4) : Statement (.pxor g e p1 p2) := by
  intro sl w h hl
  obtain ⟨rfl, rfl⟩ := Prod.mk.inj (Option.some.inj h)
  clear h
  erw [decodeWord_s]
  change accept _ _ = _
  all_goals simp [accept, hl, toks, hnds, s1, acceptCond]

theorem pandn (g : Reg4) (e p1 p2 : Reg4) : Statement (.pandn g e p1 p2) := by
  intro sl w h hl
  obtain ⟨rfl, rfl⟩ := Prod.mk.inj (Option.some.inj h)
  clear h
  erw [decodeWord_s]
  change accept _ _ = _
  all_goals simp [accept, hl, toks, hnds, s1, acceptCond]

theorem psetImm (g : Reg4) (e : Reg4) (first : BitVec 8) (count : BitVec 9) : Statement (.psetImm g e first count) := by
  intro sl w h hl
  obtain ⟨rfl, rfl⟩ := Prod.mk.inj (Option.some.inj h)
  clear h
  erw [decodeWord_s]
  change accept _ _ = _
  all_goals simp [accept, hl, toks, hnds, s1, acceptCond]

theorem psetReg (g : Reg4) (e : Reg4) (a : SReg) : Statement (.psetReg g e a) := by
  intro sl w h hl
  obtain ⟨rfl, rfl⟩ := Prod.mk.inj (Option.some.inj h)
  clear h
  erw [decodeWord_s]
  change accept _ _ = _
  all_goals simp [accept, hl, toks, hnds, s1, acceptCond]

theorem pcnt (g : Reg4) (d : SReg) (p : Reg4) : Statement (.pcnt g d p) := by
  intro sl w h hl
  obtain ⟨rfl, rfl⟩ := Prod.mk.inj (Option.some.inj h)
  clear h
  erw [decodeWord_s]
  change accept _ _ = _
  all_goals simp [accept, hl, toks, hnds, s1, acceptCond]

theorem br (g : Reg4) (pop : BitVec 2) (imm : BitVec 32) : Statement (.br g pop imm) := by
  intro sl w h hl
  obtain ⟨rfl, rfl⟩ := Prod.mk.inj (Option.some.inj h)
  clear h
  erw [decodeWord_s]
  change accept _ _ = _
  all_goals simp [accept, hl, toks, hnds, s1, acceptCond]

theorem brx (g : Reg4) (a : SReg) (pop : BitVec 2) : Statement (.brx g a pop) := by
  intro sl w h hl
  obtain ⟨rfl, rfl⟩ := Prod.mk.inj (Option.some.inj h)
  clear h
  erw [decodeWord_s]
  change accept _ _ = _
  all_goals simp [accept, hl, toks, hnds, s1, acceptCond]

theorem call (g : Reg4) (d : SReg) (imm : BitVec 32) : Statement (.call g d imm) := by
  intro sl w h hl
  obtain ⟨rfl, rfl⟩ := Prod.mk.inj (Option.some.inj h)
  clear h
  erw [decodeWord_s]
  change accept _ _ = _
  all_goals simp [accept, hl, toks, hnds, s1, acceptCond]

theorem callx (g : Reg4) (d a : SReg) : Statement (.callx g d a) := by
  intro sl w h hl
  obtain ⟨rfl, rfl⟩ := Prod.mk.inj (Option.some.inj h)
  clear h
  erw [decodeWord_s]
  change accept _ _ = _
  all_goals simp [accept, hl, toks, hnds, s1, acceptCond]

theorem ret (g : Reg4) (a : SReg) : Statement (.ret g a) := by
  intro sl w h hl
  obtain ⟨rfl, rfl⟩ := Prod.mk.inj (Option.some.inj h)
  clear h
  erw [decodeWord_s]
  change accept _ _ = _
  all_goals simp [accept, hl, toks, hnds, s1, acceptCond]

theorem loop (g : Reg4) (a : SReg) (len y : BitVec 16) : Statement (.loop g a len y) := by
  intro sl w h hl
  obtain ⟨rfl, rfl⟩ := Prod.mk.inj (Option.some.inj h)
  clear h
  erw [decodeWord_s]
  change accept _ _ = _
  all_goals simp [accept, hl, toks, hnds, s1, acceptCond]

theorem loopi (g : Reg4) (count : BitVec 15) (len y : BitVec 16) : Statement (.loopi g count len y) := by
  intro sl w h hl
  obtain ⟨rfl, rfl⟩ := Prod.mk.inj (Option.some.inj h)
  clear h
  erw [decodeWord_s]
  change accept _ _ = _
  all_goals simp [accept, hl, toks, hnds, s1, acceptCond]

theorem loopSwp (g : Reg4) (a : SReg) (sm1 : BitVec 3) (len y : BitVec 16) : Statement (.loopSwp g a sm1 len y) := by
  intro sl w h hl
  obtain ⟨rfl, rfl⟩ := Prod.mk.inj (Option.some.inj h)
  clear h
  erw [decodeWord_s]
  change accept _ _ = _
  all_goals simp [accept, hl, toks, hnds, s1, acceptCond]

theorem endt (g : Reg4) : Statement (.endt g) := by
  intro sl w h hl
  obtain ⟨rfl, rfl⟩ := Prod.mk.inj (Option.some.inj h)
  clear h
  erw [decodeWord_s]
  change accept _ _ = _
  all_goals simp [accept, hl, toks, hnds, s1, acceptCond]

theorem yield (g : Reg4) (imm : BitVec 32) : Statement (.yield g imm) := by
  intro sl w h hl
  obtain ⟨rfl, rfl⟩ := Prod.mk.inj (Option.some.inj h)
  clear h
  erw [decodeWord_s]
  change accept _ _ = _
  all_goals simp [accept, hl, toks, hnds, s1, acceptCond]

theorem mfs (g : Reg4) (d : SReg) (num : BitVec 8) : Statement (.mfs g d num) := by
  intro sl w h hl
  obtain ⟨rfl, rfl⟩ := Prod.mk.inj (Option.some.inj h)
  clear h
  erw [decodeWord_s]
  change accept _ _ = _
  all_goals simp [accept, hl, toks, hnds, s1, acceptCond]

theorem mts (g : Reg4) (a : SReg) (num : BitVec 8) : Statement (.mts g a num) := by
  intro sl w h hl
  obtain ⟨rfl, rfl⟩ := Prod.mk.inj (Option.some.inj h)
  clear h
  erw [decodeWord_s]
  change accept _ _ = _
  all_goals simp [accept, hl, toks, hnds, s1, acceptCond]

theorem trap (g : Reg4) (code : BitVec 16) : Statement (.trap g code) := by
  intro sl w h hl
  obtain ⟨rfl, rfl⟩ := Prod.mk.inj (Option.some.inj h)
  clear h
  erw [decodeWord_s]
  change accept _ _ = _
  all_goals simp [accept, hl, toks, hnds, s1, acceptCond]

theorem sys (g : Reg4) (code : BitVec 16) : Statement (.sys g code) := by
  intro sl w h hl
  obtain ⟨rfl, rfl⟩ := Prod.mk.inj (Option.some.inj h)
  clear h
  erw [decodeWord_s]
  change accept _ _ = _
  all_goals simp [accept, hl, toks, hnds, s1, acceptCond]

theorem eret (g : Reg4) : Statement (.eret g) := by
  intro sl w h hl
  obtain ⟨rfl, rfl⟩ := Prod.mk.inj (Option.some.inj h)
  clear h
  erw [decodeWord_s]
  change accept _ _ = _
  all_goals simp [accept, hl, toks, hnds, s1, acceptCond]

theorem rdtr (g : Reg4) (d : SReg) (n : BitVec 3) : Statement (.rdtr g d n) := by
  intro sl w h hl
  obtain ⟨rfl, rfl⟩ := Prod.mk.inj (Option.some.inj h)
  clear h
  erw [decodeWord_s]
  change accept _ _ = _
  all_goals simp [accept, hl, toks, hnds, s1, acceptCond]

theorem ctxsave (g : Reg4) (d a : SReg) (b : Reg4) : Statement (.ctxsave g d a b) := by
  intro sl w h hl
  obtain ⟨rfl, rfl⟩ := Prod.mk.inj (Option.some.inj h)
  clear h
  erw [decodeWord_s]
  change accept _ _ = _
  all_goals simp [accept, hl, toks, hnds, s1, acceptCond]

theorem ctxload (g : Reg4) (d a : SReg) (b : Reg4) : Statement (.ctxload g d a b) := by
  intro sl w h hl
  obtain ⟨rfl, rfl⟩ := Prod.mk.inj (Option.some.inj h)
  clear h
  erw [decodeWord_s]
  change accept _ _ = _
  all_goals simp [accept, hl, toks, hnds, s1, acceptCond]

theorem park (g : Reg4) (a : SReg) (release : Bool) : Statement (.park g a release) := by
  intro sl w h hl
  obtain ⟨rfl, rfl⟩ := Prod.mk.inj (Option.some.inj h)
  clear h
  erw [decodeWord_s]
  change accept _ _ = _
  all_goals simp [accept, hl, toks, hnds, s1, acceptCond]

theorem ptest (g : Reg4) (d a : SReg) : Statement (.ptest g d a) := by
  intro sl w h hl
  obtain ⟨rfl, rfl⟩ := Prod.mk.inj (Option.some.inj h)
  clear h
  erw [decodeWord_s]
  change accept _ _ = _
  all_goals simp [accept, hl, toks, hnds, s1, acceptCond]

theorem spawnLocal (g : Reg4) (a : SReg) (prio : BitVec 3) (lv : Bool) : Statement (.spawnLocal g a prio lv) := by
  intro sl w h hl
  obtain ⟨rfl, rfl⟩ := Prod.mk.inj (Option.some.inj h)
  clear h
  erw [decodeWord_s]
  change (if (_ : BitVec 1) = _ then _ else _) = _
  all_goals simp [accept, hl, toks, hnds, s1, acceptCond]

theorem spawnRemote (g : Reg4) (n : Hnd) (a b : SReg) (prio : BitVec 3) (lv : Bool) : Statement (.spawnRemote g n a b prio lv) := by
  intro sl w h hl
  obtain ⟨rfl, rfl⟩ := Prod.mk.inj (Option.some.inj h)
  clear h
  erw [decodeWord_s]
  change (if (_ : BitVec 1) = _ then _ else _) = _
  all_goals simp [accept, hl, toks, hnds, s1, acceptCond]

theorem joinParent (g : Reg4) (n : Hnd) : Statement (.joinParent g n) := by
  intro sl w h hl
  obtain ⟨rfl, rfl⟩ := Prod.mk.inj (Option.some.inj h)
  clear h
  erw [decodeWord_s]
  simp only [decodeSFields]
  all_goals simp [accept, hl, toks, hnds, s1, acceptCond]

theorem joinRecord (g : Reg4) (a : SReg) : Statement (.joinRecord g a) := by
  intro sl w h hl
  obtain ⟨rfl, rfl⟩ := Prod.mk.inj (Option.some.inj h)
  clear h
  erw [decodeWord_s]
  simp only [decodeSFields]
  all_goals simp [accept, hl, toks, hnds, s1, acceptCond]

theorem twaitImm (g : Reg4) (k1 k2 k3 k4 : Tok) : Statement (.twaitImm g k1 k2 k3 k4) := by
  intro sl w h hl
  obtain ⟨rfl, rfl⟩ := Prod.mk.inj (Option.some.inj h)
  clear h
  erw [decodeWord_s]
  change accept _ _ = _
  all_goals simp [accept, hl, toks, hnds, s1, acceptCond]

theorem twaitReg (g : Reg4) (a : SReg) : Statement (.twaitReg g a) := by
  intro sl w h hl
  obtain ⟨rfl, rfl⟩ := Prod.mk.inj (Option.some.inj h)
  clear h
  erw [decodeWord_s]
  simp only [decodeSFields]
  all_goals simp [accept, hl, toks, hnds, s1, acceptCond]

theorem ttestPred (g : Reg4) (e : Reg4) (k1 k2 k3 k4 : Tok) : Statement (.ttestPred g e k1 k2 k3 k4) := by
  intro sl w h hl
  obtain ⟨rfl, rfl⟩ := Prod.mk.inj (Option.some.inj h)
  clear h
  erw [decodeWord_s]
  change accept _ _ = _
  all_goals simp [accept, hl, toks, hnds, s1, acceptCond]

theorem ttestPredReg (g : Reg4) (e : Reg4) (a : SReg) : Statement (.ttestPredReg g e a) := by
  intro sl w h hl
  obtain ⟨rfl, rfl⟩ := Prod.mk.inj (Option.some.inj h)
  clear h
  erw [decodeWord_s]
  change accept _ _ = _
  all_goals simp [accept, hl, toks, hnds, s1, acceptCond]

theorem ttestScalar (g : Reg4) (d : SReg) (k : Tok) : Statement (.ttestScalar g d k) := by
  intro sl w h hl
  obtain ⟨rfl, rfl⟩ := Prod.mk.inj (Option.some.inj h)
  clear h
  erw [decodeWord_s]
  change accept _ _ = _
  all_goals simp [accept, hl, toks, hnds, s1, acceptCond]

theorem hwaitImm (g : Reg4) (loc : Bool) (h1 h2 h3 h4 : Hnd) : Statement (.hwaitImm g loc h1 h2 h3 h4) := by
  intro sl w h hl
  obtain ⟨rfl, rfl⟩ := Prod.mk.inj (Option.some.inj h)
  clear h
  erw [decodeWord_s]
  change (if (_ : BitVec 1) = _ then _ else _) = _
  all_goals simp [accept, hl, toks, hnds, s1, acceptCond]

theorem hwaitReg (g : Reg4) (loc : Bool) (a : SReg) : Statement (.hwaitReg g loc a) := by
  intro sl w h hl
  obtain ⟨rfl, rfl⟩ := Prod.mk.inj (Option.some.inj h)
  clear h
  erw [decodeWord_s]
  change (if (_ : BitVec 1) = _ then _ else _) = _
  all_goals simp [accept, hl, toks, hnds, s1, acceptCond]

theorem htestPred (g : Reg4) (loc : Bool) (e : Reg4) (h1 h2 h3 h4 : Hnd) : Statement (.htestPred g loc e h1 h2 h3 h4) := by
  intro sl w h hl
  obtain ⟨rfl, rfl⟩ := Prod.mk.inj (Option.some.inj h)
  clear h
  erw [decodeWord_s]
  change (if (_ : BitVec 2) = _ then _ else _) = _
  all_goals simp [accept, hl, toks, hnds, s1, acceptCond]

theorem htestPredReg (g : Reg4) (loc : Bool) (e : Reg4) (a : SReg) : Statement (.htestPredReg g loc e a) := by
  intro sl w h hl
  obtain ⟨rfl, rfl⟩ := Prod.mk.inj (Option.some.inj h)
  clear h
  erw [decodeWord_s]
  change (if (_ : BitVec 2) = _ then _ else _) = _
  all_goals simp [accept, hl, toks, hnds, s1, acceptCond]

theorem htestScalar (g : Reg4) (d : SReg) (h : Hnd) : Statement (.htestScalar g d h) := by
  intro sl w h hl
  obtain ⟨rfl, rfl⟩ := Prod.mk.inj (Option.some.inj h)
  clear h
  erw [decodeWord_s]
  simp only [decodeSFields]
  all_goals simp [accept, hl, toks, hnds, s1, acceptCond]

theorem htestOff (g : Reg4) (d : SReg) (h : Hnd) : Statement (.htestOff g d h) := by
  intro sl w h hl
  obtain ⟨rfl, rfl⟩ := Prod.mk.inj (Option.some.inj h)
  clear h
  erw [decodeWord_s]
  simp only [decodeSFields]
  all_goals simp [accept, hl, toks, hnds, s1, acceptCond]

theorem gbar (g : Reg4) (scope : BitVec 4) (a : SReg) (n : Hnd) : Statement (.gbar g scope a n) := by
  intro sl w h hl
  obtain ⟨rfl, rfl⟩ := Prod.mk.inj (Option.some.inj h)
  clear h
  erw [decodeWord_s]
  change accept _ _ = _
  all_goals simp [accept, hl, toks, hnds, s1, acceptCond]

theorem gbarArrive (g : Reg4) (scope : BitVec 4) (d a : SReg) (n : Hnd) (t : Tok) : Statement (.gbarArrive g scope d a n t) := by
  intro sl w h hl
  obtain ⟨rfl, rfl⟩ := Prod.mk.inj (Option.some.inj h)
  clear h
  erw [decodeWord_s]
  change accept _ _ = _
  all_goals simp [accept, hl, toks, hnds, s1, acceptCond]

theorem gbarWait (g : Reg4) (scope : BitVec 4) (a b : SReg) : Statement (.gbarWait g scope a b) := by
  intro sl w h hl
  obtain ⟨rfl, rfl⟩ := Prod.mk.inj (Option.some.inj h)
  clear h
  erw [decodeWord_s]
  change accept _ _ = _
  all_goals simp [accept, hl, toks, hnds, s1, acceptCond]

theorem nopA (g : Reg4) : Statement (.nopA g) := by
  intro sl w h hl
  obtain ⟨rfl, rfl⟩ := Prod.mk.inj (Option.some.inj h)
  clear h
  erw [decodeWord_a]
  change accept _ _ = _
  all_goals simp [accept, hl, acceptCond, dataReg]

theorem ld (m : AMem) (x : DataReg) : Statement (.ld m x) := by
  intro sl w h hl
  obtain ⟨rfl, rfl⟩ := Prod.mk.inj (Option.some.inj h)
  clear h
  erw [decodeWord_a]
  cases x
  all_goals simp only [decodeAFields, dataField]
  all_goals simp [accept, hl, acceptCond, dataReg]

theorem ldn (m : AMem) (x : DataReg) : Statement (.ldn m x) := by
  intro sl w h hl
  obtain ⟨rfl, rfl⟩ := Prod.mk.inj (Option.some.inj h)
  clear h
  erw [decodeWord_a]
  cases x
  all_goals simp only [decodeAFields, dataField]
  all_goals simp [accept, hl, acceptCond, dataReg]

theorem st (m : AMem) (x : DataReg) : Statement (.st m x) := by
  intro sl w h hl
  obtain ⟨rfl, rfl⟩ := Prod.mk.inj (Option.some.inj h)
  clear h
  erw [decodeWord_a]
  cases x
  all_goals simp only [decodeAFields, dataField]
  all_goals simp [accept, hl, acceptCond, dataReg]

theorem ldv (m : AMem) (c : Reg4) : Statement (.ldv m c) := by
  intro sl w h hl
  obtain ⟨rfl, rfl⟩ := Prod.mk.inj (Option.some.inj h)
  clear h
  erw [decodeWord_a]
  change accept _ _ = _
  all_goals simp [accept, hl, acceptCond, dataReg]

theorem stv (m : AMem) (c : Reg4) : Statement (.stv m c) := by
  intro sl w h hl
  obtain ⟨rfl, rfl⟩ := Prod.mk.inj (Option.some.inj h)
  clear h
  erw [decodeWord_a]
  change accept _ _ = _
  all_goals simp [accept, hl, acceptCond, dataReg]

theorem ldg (m : AMem) (c : Reg4) : Statement (.ldg m c) := by
  intro sl w h hl
  obtain ⟨rfl, rfl⟩ := Prod.mk.inj (Option.some.inj h)
  clear h
  erw [decodeWord_a]
  change accept _ _ = _
  all_goals simp [accept, hl, acceptCond, dataReg]

theorem sts (m : AMem) (c : Reg4) : Statement (.sts m c) := by
  intro sl w h hl
  obtain ⟨rfl, rfl⟩ := Prod.mk.inj (Option.some.inj h)
  clear h
  erw [decodeWord_a]
  change accept _ _ = _
  all_goals simp [accept, hl, acceptCond, dataReg]

theorem ldb (m : AMem) (u : Buf) (c : Reg4) : Statement (.ldb m u c) := by
  intro sl w h hl
  obtain ⟨rfl, rfl⟩ := Prod.mk.inj (Option.some.inj h)
  clear h
  erw [decodeWord_a]
  cases u
  all_goals simp only [decodeAFields, bufKind]
  all_goals simp [accept, hl, acceptCond, dataReg]

theorem stb (m : AMem) (u : Buf) (c : Reg4) : Statement (.stb m u c) := by
  intro sl w h hl
  obtain ⟨rfl, rfl⟩ := Prod.mk.inj (Option.some.inj h)
  clear h
  erw [decodeWord_a]
  cases u
  all_goals simp only [decodeAFields, bufKind]
  all_goals simp [accept, hl, acceptCond, dataReg]

theorem baste (m : AMem) : Statement (.baste m) := by
  intro sl w h hl
  obtain ⟨rfl, rfl⟩ := Prod.mk.inj (Option.some.inj h)
  clear h
  erw [decodeWord_a]
  simp only [decodeAFields]
  all_goals simp [accept, hl, acceptCond, dataReg]

theorem aadd (m : AMem) (d : Reg4) : Statement (.aadd m d) := by
  intro sl w h hl
  obtain ⟨rfl, rfl⟩ := Prod.mk.inj (Option.some.inj h)
  clear h
  erw [decodeWord_a]
  change accept _ _ = _
  all_goals simp [accept, hl, acceptCond, dataReg]

theorem amov (g : Reg4) (x : DataReg) (b : Reg4) : Statement (.amov g x b) := by
  intro sl w h hl
  obtain ⟨rfl, rfl⟩ := Prod.mk.inj (Option.some.inj h)
  clear h
  erw [decodeWord_a]
  cases x
  all_goals simp only [decodeAFields, dataField]
  all_goals simp [accept, hl, acceptCond, dataReg]

theorem ali (g : Reg4) (d : Reg4) (imm : BitVec 32) : Statement (.ali g d imm) := by
  intro sl w h hl
  obtain ⟨rfl, rfl⟩ := Prod.mk.inj (Option.some.inj h)
  clear h
  erw [decodeWord_a]
  change accept _ _ = _
  all_goals simp [accept, hl, acceptCond, dataReg]

theorem alih (g : Reg4) (d b : Reg4) (imm : BitVec 32) : Statement (.alih g d b imm) := by
  intro sl w h hl
  obtain ⟨rfl, rfl⟩ := Prod.mk.inj (Option.some.inj h)
  clear h
  erw [decodeWord_a]
  change accept _ _ = _
  all_goals simp [accept, hl, acceptCond, dataReg]

theorem aofs (g : Reg4) (d : SReg) (b c : Reg4) : Statement (.aofs g d b c) := by
  intro sl w h hl
  obtain ⟨rfl, rfl⟩ := Prod.mk.inj (Option.some.inj h)
  clear h
  erw [decodeWord_a]
  change accept _ _ = _
  all_goals simp [accept, hl, acceptCond, dataReg]

theorem sofa (g : Reg4) (d b : Reg4) (sr : SReg) (k : BitVec 4) (z : Bool) : Statement (.sofa g d b sr k z) := by
  intro sl w h hl
  obtain ⟨rfl, rfl⟩ := Prod.mk.inj (Option.some.inj h)
  clear h
  erw [decodeWord_a]
  change accept _ _ = _
  all_goals simp [accept, hl, acceptCond, dataReg]

theorem amoCas (f : AmoF) : Statement (.amoCas f) := by
  intro sl w h hl
  obtain ⟨rfl, rfl⟩ := Prod.mk.inj (Option.some.inj h)
  clear h
  erw [decodeWord_a]
  change accept _ _ = _
  all_goals simp [accept, hl, acceptCond, dataReg]

theorem amoSwap (f : AmoF) : Statement (.amoSwap f) := by
  intro sl w h hl
  obtain ⟨rfl, rfl⟩ := Prod.mk.inj (Option.some.inj h)
  clear h
  erw [decodeWord_a]
  change accept _ _ = _
  all_goals simp [accept, hl, acceptCond, dataReg]

theorem amoAdd (f : AmoF) : Statement (.amoAdd f) := by
  intro sl w h hl
  obtain ⟨rfl, rfl⟩ := Prod.mk.inj (Option.some.inj h)
  clear h
  erw [decodeWord_a]
  change accept _ _ = _
  all_goals simp [accept, hl, acceptCond, dataReg]

theorem amoFadd (f : AmoF) : Statement (.amoFadd f) := by
  intro sl w h hl
  obtain ⟨rfl, rfl⟩ := Prod.mk.inj (Option.some.inj h)
  clear h
  erw [decodeWord_a]
  change accept _ _ = _
  all_goals simp [accept, hl, acceptCond, dataReg]

theorem amoMin (f : AmoF) : Statement (.amoMin f) := by
  intro sl w h hl
  obtain ⟨rfl, rfl⟩ := Prod.mk.inj (Option.some.inj h)
  clear h
  erw [decodeWord_a]
  change accept _ _ = _
  all_goals simp [accept, hl, acceptCond, dataReg]

theorem amoMax (f : AmoF) : Statement (.amoMax f) := by
  intro sl w h hl
  obtain ⟨rfl, rfl⟩ := Prod.mk.inj (Option.some.inj h)
  clear h
  erw [decodeWord_a]
  change accept _ _ = _
  all_goals simp [accept, hl, acceptCond, dataReg]

theorem amoAnd (f : AmoF) : Statement (.amoAnd f) := by
  intro sl w h hl
  obtain ⟨rfl, rfl⟩ := Prod.mk.inj (Option.some.inj h)
  clear h
  erw [decodeWord_a]
  change accept _ _ = _
  all_goals simp [accept, hl, acceptCond, dataReg]

theorem amoOr (f : AmoF) : Statement (.amoOr f) := by
  intro sl w h hl
  obtain ⟨rfl, rfl⟩ := Prod.mk.inj (Option.some.inj h)
  clear h
  erw [decodeWord_a]
  change accept _ _ = _
  all_goals simp [accept, hl, acceptCond, dataReg]

theorem amoXor (f : AmoF) : Statement (.amoXor f) := by
  intro sl w h hl
  obtain ⟨rfl, rfl⟩ := Prod.mk.inj (Option.some.inj h)
  clear h
  erw [decodeWord_a]
  change accept _ _ = _
  all_goals simp [accept, hl, acceptCond, dataReg]

theorem fence (g : Reg4) (ord : Order) (scope : BitVec 4) : Statement (.fence g ord scope) := by
  intro sl w h hl
  obtain ⟨rfl, rfl⟩ := Prod.mk.inj (Option.some.inj h)
  clear h
  erw [decodeWord_a]
  change accept _ _ = _
  all_goals simp [accept, hl, acceptCond, dataReg]

theorem waitm (g : Reg4) (b : Reg4) (w : Width) (acq : Bool) (scope : BitVec 4) (off : BitVec 20) (d : SReg) (cc : Cond) : Statement (.waitm g b w acq scope off d cc) := by
  intro sl w h hl
  obtain ⟨rfl, rfl⟩ := Prod.mk.inj (Option.some.inj h)
  clear h
  erw [decodeWord_a]
  cases acq
  all_goals change acceptCond _ _ _ = _
  all_goals simp [accept, hl, acceptCond, dataReg]

theorem pcfg (g : Reg4) (c : Reg4) (depth : BitVec 6) (idx : Reg4) (idxv : Bool) : Statement (.pcfg g c depth idx idxv) := by
  intro sl w h hl
  obtain ⟨rfl, rfl⟩ := Prod.mk.inj (Option.some.inj h)
  clear h
  erw [decodeWord_a]
  change accept _ _ = _
  all_goals simp [accept, hl, acceptCond, dataReg]

theorem padv (g : Reg4) (c : Reg4) (k : BitVec 6) : Statement (.padv g c k) := by
  intro sl w h hl
  obtain ⟨rfl, rfl⟩ := Prod.mk.inj (Option.some.inj h)
  clear h
  erw [decodeWord_a]
  change accept _ _ = _
  all_goals simp [accept, hl, acceptCond, dataReg]

theorem pwaitFill (g : Reg4) (c : Reg4) (k : BitVec 6) : Statement (.pwaitFill g c k) := by
  intro sl w h hl
  obtain ⟨rfl, rfl⟩ := Prod.mk.inj (Option.some.inj h)
  clear h
  erw [decodeWord_a]
  simp only [decodeAFields]
  simp [accept, hl, k14a, k14b, acceptCond, dataReg]

theorem pwaitFree (g : Reg4) (c : Reg4) (k : BitVec 6) : Statement (.pwaitFree g c k) := by
  intro sl w h hl
  obtain ⟨rfl, rfl⟩ := Prod.mk.inj (Option.some.inj h)
  clear h
  erw [decodeWord_a]
  simp only [decodeAFields]
  simp [accept, hl, k14c, k14d, acceptCond, dataReg]

theorem pquery (g : Reg4) (d : SReg) (c : Reg4) : Statement (.pquery g d c) := by
  intro sl w h hl
  obtain ⟨rfl, rfl⟩ := Prod.mk.inj (Option.some.inj h)
  clear h
  erw [decodeWord_a]
  simp only [decodeAFields]
  all_goals simp [accept, hl, acceptCond, dataReg]

theorem agset (g : Reg4) (c b : Reg4) (s0 : BitVec 20) : Statement (.agset g c b s0) := by
  intro sl w h hl
  obtain ⟨rfl, rfl⟩ := Prod.mk.inj (Option.some.inj h)
  clear h
  erw [decodeWord_a]
  change accept _ _ = _
  all_goals simp [accept, hl, acceptCond, dataReg]

theorem agsetDetach (g : Reg4) (c : Reg4) : Statement (.agsetDetach g c) := by
  intro sl w h hl
  obtain ⟨rfl, rfl⟩ := Prod.mk.inj (Option.some.inj h)
  clear h
  erw [decodeWord_a]
  change accept _ _ = _
  all_goals simp [accept, hl, acceptCond, dataReg]

theorem tlbinv (g : Reg4) (b : Reg4) (off : BitVec 20) : Statement (.tlbinv g b off) := by
  intro sl w h hl
  obtain ⟨rfl, rfl⟩ := Prod.mk.inj (Option.some.inj h)
  clear h
  erw [decodeWord_a]
  change accept _ _ = _
  all_goals simp [accept, hl, acceptCond, dataReg]

theorem tlbinvAll (g : Reg4) : Statement (.tlbinvAll g) := by
  intro sl w h hl
  obtain ⟨rfl, rfl⟩ := Prod.mk.inj (Option.some.inj h)
  clear h
  erw [decodeWord_a]
  change accept _ _ = _
  all_goals simp [accept, hl, acceptCond, dataReg]

theorem tlbinvAsid (g : Reg4) (a : SReg) : Statement (.tlbinvAsid g a) := by
  intro sl w h hl
  obtain ⟨rfl, rfl⟩ := Prod.mk.inj (Option.some.inj h)
  clear h
  erw [decodeWord_a]
  change accept _ _ = _
  all_goals simp [accept, hl, acceptCond, dataReg]

theorem vadd (f : VF) : Statement (.vadd f) := by
  intro sl w h hl
  obtain ⟨rfl, rfl⟩ := Prod.mk.inj (Option.some.inj h)
  clear h
  obtain ⟨slot, g, d, s1, s2, s3, ty, rnd, ftz, peek, need, imm⟩ := f
  cases slot
  · erw [decodeWord_v0]; change accept _ _ = _; simp [accept, hl]
  · erw [decodeWord_v1]; change accept _ _ = _; simp [accept, hl]

theorem vsub (f : VF) : Statement (.vsub f) := by
  intro sl w h hl
  obtain ⟨rfl, rfl⟩ := Prod.mk.inj (Option.some.inj h)
  clear h
  obtain ⟨slot, g, d, s1, s2, s3, ty, rnd, ftz, peek, need, imm⟩ := f
  cases slot
  · erw [decodeWord_v0]; change accept _ _ = _; simp [accept, hl]
  · erw [decodeWord_v1]; change accept _ _ = _; simp [accept, hl]

theorem vmul (f : VF) : Statement (.vmul f) := by
  intro sl w h hl
  obtain ⟨rfl, rfl⟩ := Prod.mk.inj (Option.some.inj h)
  clear h
  obtain ⟨slot, g, d, s1, s2, s3, ty, rnd, ftz, peek, need, imm⟩ := f
  cases slot
  · erw [decodeWord_v0]; change accept _ _ = _; simp [accept, hl]
  · erw [decodeWord_v1]; change accept _ _ = _; simp [accept, hl]

theorem vmulh (f : VF) : Statement (.vmulh f) := by
  intro sl w h hl
  obtain ⟨rfl, rfl⟩ := Prod.mk.inj (Option.some.inj h)
  clear h
  obtain ⟨slot, g, d, s1, s2, s3, ty, rnd, ftz, peek, need, imm⟩ := f
  cases slot
  · erw [decodeWord_v0]; change accept _ _ = _; simp [accept, hl]
  · erw [decodeWord_v1]; change accept _ _ = _; simp [accept, hl]

theorem vmad (f : VF) : Statement (.vmad f) := by
  intro sl w h hl
  obtain ⟨rfl, rfl⟩ := Prod.mk.inj (Option.some.inj h)
  clear h
  obtain ⟨slot, g, d, s1, s2, s3, ty, rnd, ftz, peek, need, imm⟩ := f
  cases slot
  · erw [decodeWord_v0]; change accept _ _ = _; simp [accept, hl]
  · erw [decodeWord_v1]; change accept _ _ = _; simp [accept, hl]

theorem vmin (f : VF) : Statement (.vmin f) := by
  intro sl w h hl
  obtain ⟨rfl, rfl⟩ := Prod.mk.inj (Option.some.inj h)
  clear h
  obtain ⟨slot, g, d, s1, s2, s3, ty, rnd, ftz, peek, need, imm⟩ := f
  cases slot
  · erw [decodeWord_v0]; change accept _ _ = _; simp [accept, hl]
  · erw [decodeWord_v1]; change accept _ _ = _; simp [accept, hl]

theorem vmax (f : VF) : Statement (.vmax f) := by
  intro sl w h hl
  obtain ⟨rfl, rfl⟩ := Prod.mk.inj (Option.some.inj h)
  clear h
  obtain ⟨slot, g, d, s1, s2, s3, ty, rnd, ftz, peek, need, imm⟩ := f
  cases slot
  · erw [decodeWord_v0]; change accept _ _ = _; simp [accept, hl]
  · erw [decodeWord_v1]; change accept _ _ = _; simp [accept, hl]

theorem vabs (f : VF) : Statement (.vabs f) := by
  intro sl w h hl
  obtain ⟨rfl, rfl⟩ := Prod.mk.inj (Option.some.inj h)
  clear h
  obtain ⟨slot, g, d, s1, s2, s3, ty, rnd, ftz, peek, need, imm⟩ := f
  cases slot
  · erw [decodeWord_v0]; change accept _ _ = _; simp [accept, hl]
  · erw [decodeWord_v1]; change accept _ _ = _; simp [accept, hl]

theorem vneg (f : VF) : Statement (.vneg f) := by
  intro sl w h hl
  obtain ⟨rfl, rfl⟩ := Prod.mk.inj (Option.some.inj h)
  clear h
  obtain ⟨slot, g, d, s1, s2, s3, ty, rnd, ftz, peek, need, imm⟩ := f
  cases slot
  · erw [decodeWord_v0]; change accept _ _ = _; simp [accept, hl]
  · erw [decodeWord_v1]; change accept _ _ = _; simp [accept, hl]

theorem vand (f : VF) : Statement (.vand f) := by
  intro sl w h hl
  obtain ⟨rfl, rfl⟩ := Prod.mk.inj (Option.some.inj h)
  clear h
  obtain ⟨slot, g, d, s1, s2, s3, ty, rnd, ftz, peek, need, imm⟩ := f
  cases slot
  · erw [decodeWord_v0]; change accept _ _ = _; simp [accept, hl]
  · erw [decodeWord_v1]; change accept _ _ = _; simp [accept, hl]

theorem vor (f : VF) : Statement (.vor f) := by
  intro sl w h hl
  obtain ⟨rfl, rfl⟩ := Prod.mk.inj (Option.some.inj h)
  clear h
  obtain ⟨slot, g, d, s1, s2, s3, ty, rnd, ftz, peek, need, imm⟩ := f
  cases slot
  · erw [decodeWord_v0]; change accept _ _ = _; simp [accept, hl]
  · erw [decodeWord_v1]; change accept _ _ = _; simp [accept, hl]

theorem vxor (f : VF) : Statement (.vxor f) := by
  intro sl w h hl
  obtain ⟨rfl, rfl⟩ := Prod.mk.inj (Option.some.inj h)
  clear h
  obtain ⟨slot, g, d, s1, s2, s3, ty, rnd, ftz, peek, need, imm⟩ := f
  cases slot
  · erw [decodeWord_v0]; change accept _ _ = _; simp [accept, hl]
  · erw [decodeWord_v1]; change accept _ _ = _; simp [accept, hl]

theorem vnot (f : VF) : Statement (.vnot f) := by
  intro sl w h hl
  obtain ⟨rfl, rfl⟩ := Prod.mk.inj (Option.some.inj h)
  clear h
  obtain ⟨slot, g, d, s1, s2, s3, ty, rnd, ftz, peek, need, imm⟩ := f
  cases slot
  · erw [decodeWord_v0]; change accept _ _ = _; simp [accept, hl]
  · erw [decodeWord_v1]; change accept _ _ = _; simp [accept, hl]

theorem vshl (f : VF) : Statement (.vshl f) := by
  intro sl w h hl
  obtain ⟨rfl, rfl⟩ := Prod.mk.inj (Option.some.inj h)
  clear h
  obtain ⟨slot, g, d, s1, s2, s3, ty, rnd, ftz, peek, need, imm⟩ := f
  cases slot
  · erw [decodeWord_v0]; change accept _ _ = _; simp [accept, hl]
  · erw [decodeWord_v1]; change accept _ _ = _; simp [accept, hl]

theorem vshr (f : VF) : Statement (.vshr f) := by
  intro sl w h hl
  obtain ⟨rfl, rfl⟩ := Prod.mk.inj (Option.some.inj h)
  clear h
  obtain ⟨slot, g, d, s1, s2, s3, ty, rnd, ftz, peek, need, imm⟩ := f
  cases slot
  · erw [decodeWord_v0]; change accept _ _ = _; simp [accept, hl]
  · erw [decodeWord_v1]; change accept _ _ = _; simp [accept, hl]

theorem vsar (f : VF) : Statement (.vsar f) := by
  intro sl w h hl
  obtain ⟨rfl, rfl⟩ := Prod.mk.inj (Option.some.inj h)
  clear h
  obtain ⟨slot, g, d, s1, s2, s3, ty, rnd, ftz, peek, need, imm⟩ := f
  cases slot
  · erw [decodeWord_v0]; change accept _ _ = _; simp [accept, hl]
  · erw [decodeWord_v1]; change accept _ _ = _; simp [accept, hl]

theorem vclz (f : VF) : Statement (.vclz f) := by
  intro sl w h hl
  obtain ⟨rfl, rfl⟩ := Prod.mk.inj (Option.some.inj h)
  clear h
  obtain ⟨slot, g, d, s1, s2, s3, ty, rnd, ftz, peek, need, imm⟩ := f
  cases slot
  · erw [decodeWord_v0]; change accept _ _ = _; simp [accept, hl]
  · erw [decodeWord_v1]; change accept _ _ = _; simp [accept, hl]

theorem vpopc (f : VF) : Statement (.vpopc f) := by
  intro sl w h hl
  obtain ⟨rfl, rfl⟩ := Prod.mk.inj (Option.some.inj h)
  clear h
  obtain ⟨slot, g, d, s1, s2, s3, ty, rnd, ftz, peek, need, imm⟩ := f
  cases slot
  · erw [decodeWord_v0]; change accept _ _ = _; simp [accept, hl]
  · erw [decodeWord_v1]; change accept _ _ = _; simp [accept, hl]

theorem vadds (f : VF) : Statement (.vadds f) := by
  intro sl w h hl
  obtain ⟨rfl, rfl⟩ := Prod.mk.inj (Option.some.inj h)
  clear h
  obtain ⟨slot, g, d, s1, s2, s3, ty, rnd, ftz, peek, need, imm⟩ := f
  cases slot
  · erw [decodeWord_v0]; change accept _ _ = _; simp [accept, hl]
  · erw [decodeWord_v1]; change accept _ _ = _; simp [accept, hl]

theorem vsubs (f : VF) : Statement (.vsubs f) := by
  intro sl w h hl
  obtain ⟨rfl, rfl⟩ := Prod.mk.inj (Option.some.inj h)
  clear h
  obtain ⟨slot, g, d, s1, s2, s3, ty, rnd, ftz, peek, need, imm⟩ := f
  cases slot
  · erw [decodeWord_v0]; change accept _ _ = _; simp [accept, hl]
  · erw [decodeWord_v1]; change accept _ _ = _; simp [accept, hl]

theorem vfadd (f : VF) : Statement (.vfadd f) := by
  intro sl w h hl
  obtain ⟨rfl, rfl⟩ := Prod.mk.inj (Option.some.inj h)
  clear h
  obtain ⟨slot, g, d, s1, s2, s3, ty, rnd, ftz, peek, need, imm⟩ := f
  cases slot
  · erw [decodeWord_v0]; change accept _ _ = _; simp [accept, hl]
  · erw [decodeWord_v1]; change accept _ _ = _; simp [accept, hl]

theorem vfsub (f : VF) : Statement (.vfsub f) := by
  intro sl w h hl
  obtain ⟨rfl, rfl⟩ := Prod.mk.inj (Option.some.inj h)
  clear h
  obtain ⟨slot, g, d, s1, s2, s3, ty, rnd, ftz, peek, need, imm⟩ := f
  cases slot
  · erw [decodeWord_v0]; change accept _ _ = _; simp [accept, hl]
  · erw [decodeWord_v1]; change accept _ _ = _; simp [accept, hl]

theorem vfmul (f : VF) : Statement (.vfmul f) := by
  intro sl w h hl
  obtain ⟨rfl, rfl⟩ := Prod.mk.inj (Option.some.inj h)
  clear h
  obtain ⟨slot, g, d, s1, s2, s3, ty, rnd, ftz, peek, need, imm⟩ := f
  cases slot
  · erw [decodeWord_v0]; change accept _ _ = _; simp [accept, hl]
  · erw [decodeWord_v1]; change accept _ _ = _; simp [accept, hl]

theorem vfma (f : VF) : Statement (.vfma f) := by
  intro sl w h hl
  obtain ⟨rfl, rfl⟩ := Prod.mk.inj (Option.some.inj h)
  clear h
  obtain ⟨slot, g, d, s1, s2, s3, ty, rnd, ftz, peek, need, imm⟩ := f
  cases slot
  · erw [decodeWord_v0]; change accept _ _ = _; simp [accept, hl]
  · erw [decodeWord_v1]; change accept _ _ = _; simp [accept, hl]

theorem vfnma (f : VF) : Statement (.vfnma f) := by
  intro sl w h hl
  obtain ⟨rfl, rfl⟩ := Prod.mk.inj (Option.some.inj h)
  clear h
  obtain ⟨slot, g, d, s1, s2, s3, ty, rnd, ftz, peek, need, imm⟩ := f
  cases slot
  · erw [decodeWord_v0]; change accept _ _ = _; simp [accept, hl]
  · erw [decodeWord_v1]; change accept _ _ = _; simp [accept, hl]

theorem vfmin (f : VF) : Statement (.vfmin f) := by
  intro sl w h hl
  obtain ⟨rfl, rfl⟩ := Prod.mk.inj (Option.some.inj h)
  clear h
  obtain ⟨slot, g, d, s1, s2, s3, ty, rnd, ftz, peek, need, imm⟩ := f
  cases slot
  · erw [decodeWord_v0]; change accept _ _ = _; simp [accept, hl]
  · erw [decodeWord_v1]; change accept _ _ = _; simp [accept, hl]

theorem vfmax (f : VF) : Statement (.vfmax f) := by
  intro sl w h hl
  obtain ⟨rfl, rfl⟩ := Prod.mk.inj (Option.some.inj h)
  clear h
  obtain ⟨slot, g, d, s1, s2, s3, ty, rnd, ftz, peek, need, imm⟩ := f
  cases slot
  · erw [decodeWord_v0]; change accept _ _ = _; simp [accept, hl]
  · erw [decodeWord_v1]; change accept _ _ = _; simp [accept, hl]

theorem vfabs (f : VF) : Statement (.vfabs f) := by
  intro sl w h hl
  obtain ⟨rfl, rfl⟩ := Prod.mk.inj (Option.some.inj h)
  clear h
  obtain ⟨slot, g, d, s1, s2, s3, ty, rnd, ftz, peek, need, imm⟩ := f
  cases slot
  · erw [decodeWord_v0]; change accept _ _ = _; simp [accept, hl]
  · erw [decodeWord_v1]; change accept _ _ = _; simp [accept, hl]

theorem vfneg (f : VF) : Statement (.vfneg f) := by
  intro sl w h hl
  obtain ⟨rfl, rfl⟩ := Prod.mk.inj (Option.some.inj h)
  clear h
  obtain ⟨slot, g, d, s1, s2, s3, ty, rnd, ftz, peek, need, imm⟩ := f
  cases slot
  · erw [decodeWord_v0]; change accept _ _ = _; simp [accept, hl]
  · erw [decodeWord_v1]; change accept _ _ = _; simp [accept, hl]

theorem vrcp (f : VF) : Statement (.vrcp f) := by
  intro sl w h hl
  obtain ⟨rfl, rfl⟩ := Prod.mk.inj (Option.some.inj h)
  clear h
  obtain ⟨slot, g, d, s1, s2, s3, ty, rnd, ftz, peek, need, imm⟩ := f
  cases slot
  · erw [decodeWord_v0]; change accept _ _ = _; simp [accept, hl]
  · erw [decodeWord_v1]; change accept _ _ = _; simp [accept, hl]

theorem vrsq (f : VF) : Statement (.vrsq f) := by
  intro sl w h hl
  obtain ⟨rfl, rfl⟩ := Prod.mk.inj (Option.some.inj h)
  clear h
  obtain ⟨slot, g, d, s1, s2, s3, ty, rnd, ftz, peek, need, imm⟩ := f
  cases slot
  · erw [decodeWord_v0]; change accept _ _ = _; simp [accept, hl]
  · erw [decodeWord_v1]; change accept _ _ = _; simp [accept, hl]

theorem vsqrt (f : VF) : Statement (.vsqrt f) := by
  intro sl w h hl
  obtain ⟨rfl, rfl⟩ := Prod.mk.inj (Option.some.inj h)
  clear h
  obtain ⟨slot, g, d, s1, s2, s3, ty, rnd, ftz, peek, need, imm⟩ := f
  cases slot
  · erw [decodeWord_v0]; change accept _ _ = _; simp [accept, hl]
  · erw [decodeWord_v1]; change accept _ _ = _; simp [accept, hl]

theorem vexp2 (f : VF) : Statement (.vexp2 f) := by
  intro sl w h hl
  obtain ⟨rfl, rfl⟩ := Prod.mk.inj (Option.some.inj h)
  clear h
  obtain ⟨slot, g, d, s1, s2, s3, ty, rnd, ftz, peek, need, imm⟩ := f
  cases slot
  · erw [decodeWord_v0]; change accept _ _ = _; simp [accept, hl]
  · erw [decodeWord_v1]; change accept _ _ = _; simp [accept, hl]

theorem vlog2 (f : VF) : Statement (.vlog2 f) := by
  intro sl w h hl
  obtain ⟨rfl, rfl⟩ := Prod.mk.inj (Option.some.inj h)
  clear h
  obtain ⟨slot, g, d, s1, s2, s3, ty, rnd, ftz, peek, need, imm⟩ := f
  cases slot
  · erw [decodeWord_v0]; change accept _ _ = _; simp [accept, hl]
  · erw [decodeWord_v1]; change accept _ _ = _; simp [accept, hl]

theorem vsig (f : VF) : Statement (.vsig f) := by
  intro sl w h hl
  obtain ⟨rfl, rfl⟩ := Prod.mk.inj (Option.some.inj h)
  clear h
  obtain ⟨slot, g, d, s1, s2, s3, ty, rnd, ftz, peek, need, imm⟩ := f
  cases slot
  · erw [decodeWord_v0]; change accept _ _ = _; simp [accept, hl]
  · erw [decodeWord_v1]; change accept _ _ = _; simp [accept, hl]

theorem vcvt (f : VF) : Statement (.vcvt f) := by
  intro sl w h hl
  obtain ⟨rfl, rfl⟩ := Prod.mk.inj (Option.some.inj h)
  clear h
  obtain ⟨slot, g, d, s1, s2, s3, ty, rnd, ftz, peek, need, imm⟩ := f
  cases slot
  · erw [decodeWord_v0]; change accept _ _ = _; simp [accept, hl]
  · erw [decodeWord_v1]; change accept _ _ = _; simp [accept, hl]

theorem vcvts (f : VF) : Statement (.vcvts f) := by
  intro sl w h hl
  obtain ⟨rfl, rfl⟩ := Prod.mk.inj (Option.some.inj h)
  clear h
  obtain ⟨slot, g, d, s1, s2, s3, ty, rnd, ftz, peek, need, imm⟩ := f
  cases slot
  · erw [decodeWord_v0]; change accept _ _ = _; simp [accept, hl]
  · erw [decodeWord_v1]; change accept _ _ = _; simp [accept, hl]

theorem vqnt (f : VF) : Statement (.vqnt f) := by
  intro sl w h hl
  obtain ⟨rfl, rfl⟩ := Prod.mk.inj (Option.some.inj h)
  clear h
  obtain ⟨slot, g, d, s1, s2, s3, ty, rnd, ftz, peek, need, imm⟩ := f
  cases slot
  · erw [decodeWord_v0]; change accept _ _ = _; simp [accept, hl]
  · erw [decodeWord_v1]; change accept _ _ = _; simp [accept, hl]

theorem vdqnt (f : VF) : Statement (.vdqnt f) := by
  intro sl w h hl
  obtain ⟨rfl, rfl⟩ := Prod.mk.inj (Option.some.inj h)
  clear h
  obtain ⟨slot, g, d, s1, s2, s3, ty, rnd, ftz, peek, need, imm⟩ := f
  cases slot
  · erw [decodeWord_v0]; change accept _ _ = _; simp [accept, hl]
  · erw [decodeWord_v1]; change accept _ _ = _; simp [accept, hl]

theorem vbmax (f : VF) : Statement (.vbmax f) := by
  intro sl w h hl
  obtain ⟨rfl, rfl⟩ := Prod.mk.inj (Option.some.inj h)
  clear h
  obtain ⟨slot, g, d, s1, s2, s3, ty, rnd, ftz, peek, need, imm⟩ := f
  cases slot
  · erw [decodeWord_v0]; change accept _ _ = _; simp [accept, hl]
  · erw [decodeWord_v1]; change accept _ _ = _; simp [accept, hl]

theorem vscale (f : VF) : Statement (.vscale f) := by
  intro sl w h hl
  obtain ⟨rfl, rfl⟩ := Prod.mk.inj (Option.some.inj h)
  clear h
  obtain ⟨slot, g, d, s1, s2, s3, ty, rnd, ftz, peek, need, imm⟩ := f
  cases slot
  · erw [decodeWord_v0]; change accept _ _ = _; simp [accept, hl]
  · erw [decodeWord_v1]; change accept _ _ = _; simp [accept, hl]

theorem vsacc (f : VF) : Statement (.vsacc f) := by
  intro sl w h hl
  obtain ⟨rfl, rfl⟩ := Prod.mk.inj (Option.some.inj h)
  clear h
  obtain ⟨slot, g, d, s1, s2, s3, ty, rnd, ftz, peek, need, imm⟩ := f
  cases slot
  · erw [decodeWord_v0]; change accept _ _ = _; simp [accept, hl]
  · erw [decodeWord_v1]; change accept _ _ = _; simp [accept, hl]

theorem vplane (f : VF) : Statement (.vplane f) := by
  intro sl w h hl
  obtain ⟨rfl, rfl⟩ := Prod.mk.inj (Option.some.inj h)
  clear h
  obtain ⟨slot, g, d, s1, s2, s3, ty, rnd, ftz, peek, need, imm⟩ := f
  cases slot
  · erw [decodeWord_v0]; change accept _ _ = _; simp [accept, hl]
  · erw [decodeWord_v1]; change accept _ _ = _; simp [accept, hl]

theorem vunplane (f : VF) : Statement (.vunplane f) := by
  intro sl w h hl
  obtain ⟨rfl, rfl⟩ := Prod.mk.inj (Option.some.inj h)
  clear h
  obtain ⟨slot, g, d, s1, s2, s3, ty, rnd, ftz, peek, need, imm⟩ := f
  cases slot
  · erw [decodeWord_v0]; change accept _ _ = _; simp [accept, hl]
  · erw [decodeWord_v1]; change accept _ _ = _; simp [accept, hl]

theorem vcmp (f : VF) : Statement (.vcmp f) := by
  intro sl w h hl
  obtain ⟨rfl, rfl⟩ := Prod.mk.inj (Option.some.inj h)
  clear h
  obtain ⟨slot, g, d, s1, s2, s3, ty, rnd, ftz, peek, need, imm⟩ := f
  cases slot
  · erw [decodeWord_v0]; change accept _ _ = _; simp [accept, hl]
  · erw [decodeWord_v1]; change accept _ _ = _; simp [accept, hl]

theorem vfcmp (f : VF) : Statement (.vfcmp f) := by
  intro sl w h hl
  obtain ⟨rfl, rfl⟩ := Prod.mk.inj (Option.some.inj h)
  clear h
  obtain ⟨slot, g, d, s1, s2, s3, ty, rnd, ftz, peek, need, imm⟩ := f
  cases slot
  · erw [decodeWord_v0]; change accept _ _ = _; simp [accept, hl]
  · erw [decodeWord_v1]; change accept _ _ = _; simp [accept, hl]

theorem vclass (f : VF) : Statement (.vclass f) := by
  intro sl w h hl
  obtain ⟨rfl, rfl⟩ := Prod.mk.inj (Option.some.inj h)
  clear h
  obtain ⟨slot, g, d, s1, s2, s3, ty, rnd, ftz, peek, need, imm⟩ := f
  cases slot
  · erw [decodeWord_v0]; change accept _ _ = _; simp [accept, hl]
  · erw [decodeWord_v1]; change accept _ _ = _; simp [accept, hl]

theorem vsel (f : VF) : Statement (.vsel f) := by
  intro sl w h hl
  obtain ⟨rfl, rfl⟩ := Prod.mk.inj (Option.some.inj h)
  clear h
  obtain ⟨slot, g, d, s1, s2, s3, ty, rnd, ftz, peek, need, imm⟩ := f
  cases slot
  · erw [decodeWord_v0]; change accept _ _ = _; simp [accept, hl]
  · erw [decodeWord_v1]; change accept _ _ = _; simp [accept, hl]

theorem vperm (f : VF) : Statement (.vperm f) := by
  intro sl w h hl
  obtain ⟨rfl, rfl⟩ := Prod.mk.inj (Option.some.inj h)
  clear h
  obtain ⟨slot, g, d, s1, s2, s3, ty, rnd, ftz, peek, need, imm⟩ := f
  cases slot
  · erw [decodeWord_v0]; change accept _ _ = _; simp [accept, hl]
  · erw [decodeWord_v1]; change accept _ _ = _; simp [accept, hl]

theorem vbcast (f : VF) : Statement (.vbcast f) := by
  intro sl w h hl
  obtain ⟨rfl, rfl⟩ := Prod.mk.inj (Option.some.inj h)
  clear h
  obtain ⟨slot, g, d, s1, s2, s3, ty, rnd, ftz, peek, need, imm⟩ := f
  cases slot
  · erw [decodeWord_v0]; change accept _ _ = _; simp [accept, hl]
  · erw [decodeWord_v1]; change accept _ _ = _; simp [accept, hl]

theorem vshift (f : VF) : Statement (.vshift f) := by
  intro sl w h hl
  obtain ⟨rfl, rfl⟩ := Prod.mk.inj (Option.some.inj h)
  clear h
  obtain ⟨slot, g, d, s1, s2, s3, ty, rnd, ftz, peek, need, imm⟩ := f
  cases slot
  · erw [decodeWord_v0]; change accept _ _ = _; simp [accept, hl]
  · erw [decodeWord_v1]; change accept _ _ = _; simp [accept, hl]

theorem vzip (f : VF) : Statement (.vzip f) := by
  intro sl w h hl
  obtain ⟨rfl, rfl⟩ := Prod.mk.inj (Option.some.inj h)
  clear h
  obtain ⟨slot, g, d, s1, s2, s3, ty, rnd, ftz, peek, need, imm⟩ := f
  cases slot
  · erw [decodeWord_v0]; change accept _ _ = _; simp [accept, hl]
  · erw [decodeWord_v1]; change accept _ _ = _; simp [accept, hl]

theorem vunzip (f : VF) : Statement (.vunzip f) := by
  intro sl w h hl
  obtain ⟨rfl, rfl⟩ := Prod.mk.inj (Option.some.inj h)
  clear h
  obtain ⟨slot, g, d, s1, s2, s3, ty, rnd, ftz, peek, need, imm⟩ := f
  cases slot
  · erw [decodeWord_v0]; change accept _ _ = _; simp [accept, hl]
  · erw [decodeWord_v1]; change accept _ _ = _; simp [accept, hl]

theorem vcompress (f : VF) : Statement (.vcompress f) := by
  intro sl w h hl
  obtain ⟨rfl, rfl⟩ := Prod.mk.inj (Option.some.inj h)
  clear h
  obtain ⟨slot, g, d, s1, s2, s3, ty, rnd, ftz, peek, need, imm⟩ := f
  cases slot
  · erw [decodeWord_v0]; change accept _ _ = _; simp [accept, hl]
  · erw [decodeWord_v1]; change accept _ _ = _; simp [accept, hl]

theorem vexpand (f : VF) : Statement (.vexpand f) := by
  intro sl w h hl
  obtain ⟨rfl, rfl⟩ := Prod.mk.inj (Option.some.inj h)
  clear h
  obtain ⟨slot, g, d, s1, s2, s3, ty, rnd, ftz, peek, need, imm⟩ := f
  cases slot
  · erw [decodeWord_v0]; change accept _ _ = _; simp [accept, hl]
  · erw [decodeWord_v1]; change accept _ _ = _; simp [accept, hl]

theorem vred (f : VF) : Statement (.vred f) := by
  intro sl w h hl
  obtain ⟨rfl, rfl⟩ := Prod.mk.inj (Option.some.inj h)
  clear h
  obtain ⟨slot, g, d, s1, s2, s3, ty, rnd, ftz, peek, need, imm⟩ := f
  cases slot
  · erw [decodeWord_v0]; change accept _ _ = _; simp [accept, hl]
  · erw [decodeWord_v1]; change accept _ _ = _; simp [accept, hl]

theorem vfred (f : VF) : Statement (.vfred f) := by
  intro sl w h hl
  obtain ⟨rfl, rfl⟩ := Prod.mk.inj (Option.some.inj h)
  clear h
  obtain ⟨slot, g, d, s1, s2, s3, ty, rnd, ftz, peek, need, imm⟩ := f
  cases slot
  · erw [decodeWord_v0]; change accept _ _ = _; simp [accept, hl]
  · erw [decodeWord_v1]; change accept _ _ = _; simp [accept, hl]

theorem vscan (f : VF) : Statement (.vscan f) := by
  intro sl w h hl
  obtain ⟨rfl, rfl⟩ := Prod.mk.inj (Option.some.inj h)
  clear h
  obtain ⟨slot, g, d, s1, s2, s3, ty, rnd, ftz, peek, need, imm⟩ := f
  cases slot
  · erw [decodeWord_v0]; change accept _ _ = _; simp [accept, hl]
  · erw [decodeWord_v1]; change accept _ _ = _; simp [accept, hl]

theorem vfscan (f : VF) : Statement (.vfscan f) := by
  intro sl w h hl
  obtain ⟨rfl, rfl⟩ := Prod.mk.inj (Option.some.inj h)
  clear h
  obtain ⟨slot, g, d, s1, s2, s3, ty, rnd, ftz, peek, need, imm⟩ := f
  cases slot
  · erw [decodeWord_v0]; change accept _ _ = _; simp [accept, hl]
  · erw [decodeWord_v1]; change accept _ _ = _; simp [accept, hl]

theorem vsort (f : VF) : Statement (.vsort f) := by
  intro sl w h hl
  obtain ⟨rfl, rfl⟩ := Prod.mk.inj (Option.some.inj h)
  clear h
  obtain ⟨slot, g, d, s1, s2, s3, ty, rnd, ftz, peek, need, imm⟩ := f
  cases slot
  · erw [decodeWord_v0]; change accept _ _ = _; simp [accept, hl]
  · erw [decodeWord_v1]; change accept _ _ = _; simp [accept, hl]

theorem vsegsum (f : VF) : Statement (.vsegsum f) := by
  intro sl w h hl
  obtain ⟨rfl, rfl⟩ := Prod.mk.inj (Option.some.inj h)
  clear h
  obtain ⟨slot, g, d, s1, s2, s3, ty, rnd, ftz, peek, need, imm⟩ := f
  cases slot
  · erw [decodeWord_v0]; change accept _ _ = _; simp [accept, hl]
  · erw [decodeWord_v1]; change accept _ _ = _; simp [accept, hl]

theorem vmov (f : VF) : Statement (.vmov f) := by
  intro sl w h hl
  obtain ⟨rfl, rfl⟩ := Prod.mk.inj (Option.some.inj h)
  clear h
  obtain ⟨slot, g, d, s1, s2, s3, ty, rnd, ftz, peek, need, imm⟩ := f
  cases slot
  · erw [decodeWord_v0]; change accept _ _ = _; simp [accept, hl]
  · erw [decodeWord_v1]; change accept _ _ = _; simp [accept, hl]

theorem vli (f : VF) : Statement (.vli f) := by
  intro sl w h hl
  obtain ⟨rfl, rfl⟩ := Prod.mk.inj (Option.some.inj h)
  clear h
  obtain ⟨slot, g, d, s1, s2, s3, ty, rnd, ftz, peek, need, imm⟩ := f
  cases slot
  · erw [decodeWord_v0]; change accept _ _ = _; simp [accept, hl]
  · erw [decodeWord_v1]; change accept _ _ = _; simp [accept, hl]

theorem vext (f : VF) : Statement (.vext f) := by
  intro sl w h hl
  obtain ⟨rfl, rfl⟩ := Prod.mk.inj (Option.some.inj h)
  clear h
  obtain ⟨slot, g, d, s1, s2, s3, ty, rnd, ftz, peek, need, imm⟩ := f
  cases slot
  · erw [decodeWord_v0]; change accept _ _ = _; simp [accept, hl]
  · erw [decodeWord_v1]; change accept _ _ = _; simp [accept, hl]

theorem vins (f : VF) : Statement (.vins f) := by
  intro sl w h hl
  obtain ⟨rfl, rfl⟩ := Prod.mk.inj (Option.some.inj h)
  clear h
  obtain ⟨slot, g, d, s1, s2, s3, ty, rnd, ftz, peek, need, imm⟩ := f
  cases slot
  · erw [decodeWord_v0]; change accept _ _ = _; simp [accept, hl]
  · erw [decodeWord_v1]; change accept _ _ = _; simp [accept, hl]

theorem vidx (f : VF) : Statement (.vidx f) := by
  intro sl w h hl
  obtain ⟨rfl, rfl⟩ := Prod.mk.inj (Option.some.inj h)
  clear h
  obtain ⟨slot, g, d, s1, s2, s3, ty, rnd, ftz, peek, need, imm⟩ := f
  cases slot
  · erw [decodeWord_v0]; change accept _ _ = _; simp [accept, hl]
  · erw [decodeWord_v1]; change accept _ _ = _; simp [accept, hl]

theorem vxpush (f : VF) : Statement (.vxpush f) := by
  intro sl w h hl
  obtain ⟨rfl, rfl⟩ := Prod.mk.inj (Option.some.inj h)
  clear h
  obtain ⟨slot, g, d, s1, s2, s3, ty, rnd, ftz, peek, need, imm⟩ := f
  cases slot
  · erw [decodeWord_v0]; change accept _ _ = _; simp [accept, hl]
  · erw [decodeWord_v1]; change accept _ _ = _; simp [accept, hl]

theorem nopE (g : Reg4) : Statement (.nopE g) := by
  intro sl w h hl
  obtain ⟨rfl, rfl⟩ := Prod.mk.inj (Option.some.inj h)
  clear h
  erw [decodeWord_e]
  change accept _ _ = _
  all_goals simp [accept, hl, acceptCond, dataReg]

theorem mxcfgLoad (e : EF) (n : BitVec 2) (b : Reg4) (off : BitVec 21) : Statement (.mxcfgLoad e n b off) := by
  intro sl w h hl
  obtain ⟨rfl, rfl⟩ := Prod.mk.inj (Option.some.inj h)
  clear h
  erw [decodeWord_e]
  simp only [decodeEFields]
  all_goals simp [accept, hl, acceptCond, dataReg]

theorem mxcfgStore (e : EF) (n : BitVec 2) (b : Reg4) (off : BitVec 21) : Statement (.mxcfgStore e n b off) := by
  intro sl w h hl
  obtain ⟨rfl, rfl⟩ := Prod.mk.inj (Option.some.inj h)
  clear h
  erw [decodeWord_e]
  simp only [decodeEFields]
  all_goals simp [accept, hl, acceptCond, dataReg]

theorem mxgo (e : EF) (n : BitVec 2) : Statement (.mxgo e n) := by
  intro sl w h hl
  obtain ⟨rfl, rfl⟩ := Prod.mk.inj (Option.some.inj h)
  clear h
  erw [decodeWord_e]
  change accept _ _ = _
  all_goals simp [accept, hl, acceptCond, dataReg]

theorem mxzero (e : EF) (t : BitVec 10) (cm1 : BitVec 6) (step : BitVec 12) : Statement (.mxzero e t cm1 step) := by
  intro sl w h hl
  obtain ⟨rfl, rfl⟩ := Prod.mk.inj (Option.some.inj h)
  clear h
  erw [decodeWord_e]
  change accept _ _ = _
  all_goals simp [accept, hl, acceptCond, dataReg]

theorem mxshape (e : EF) (t : BitVec 10) (hm1 : BitVec 5) (lm1 : BitVec 6) (i32 : Bool) (mm1 : BitVec 6) : Statement (.mxshape e t hm1 lm1 i32 mm1) := by
  intro sl w h hl
  obtain ⟨rfl, rfl⟩ := Prod.mk.inj (Option.some.inj h)
  clear h
  erw [decodeWord_e]
  change accept _ _ = _
  all_goals simp [accept, hl, acceptCond, dataReg]

theorem mxdrainC12 (e : EF) (t : BitVec 10) (clr : Bool) (step : BitVec 12) : Statement (.mxdrainC12 e t clr step) := by
  intro sl w h hl
  obtain ⟨rfl, rfl⟩ := Prod.mk.inj (Option.some.inj h)
  clear h
  erw [decodeWord_e]
  simp only [decodeEFields]
  all_goals simp [accept, hl, acceptCond, dataReg]

theorem mxdrainAb (e : EF) (t : BitVec 10) (clr : Bool) (b : Reg4) (step : BitVec 12) : Statement (.mxdrainAb e t clr b step) := by
  intro sl w h hl
  obtain ⟨rfl, rfl⟩ := Prod.mk.inj (Option.some.inj h)
  clear h
  erw [decodeWord_e]
  simp only [decodeEFields]
  all_goals simp [accept, hl, acceptCond, dataReg]

theorem mxflag (e : EF) (t : BitVec 10) (step : BitVec 12) : Statement (.mxflag e t step) := by
  intro sl w h hl
  obtain ⟨rfl, rfl⟩ := Prod.mk.inj (Option.some.inj h)
  clear h
  erw [decodeWord_e]
  change accept _ _ = _
  all_goals simp [accept, hl, acceptCond, dataReg]

theorem mxtw (e : EF) (t : BitVec 10) (inv : Bool) (lm1 : BitVec 10) : Statement (.mxtw e t inv lm1) := by
  intro sl w h hl
  obtain ⟨rfl, rfl⟩ := Prod.mk.inj (Option.some.inj h)
  clear h
  erw [decodeWord_e]
  change accept _ _ = _
  all_goals simp [accept, hl, acceptCond, dataReg]

theorem mxbf (e : EF) (t : BitVec 10) (b : Reg4) (src : Bool) (step : BitVec 12) : Statement (.mxbf e t b src step) := by
  intro sl w h hl
  obtain ⟨rfl, rfl⟩ := Prod.mk.inj (Option.some.inj h)
  clear h
  erw [decodeWord_e]
  change accept _ _ = _
  all_goals simp [accept, hl, acceptCond, dataReg]

theorem xcfg (e : EF) (hm1 : BitVec 5) (w16 : Bool) : Statement (.xcfg e hm1 w16) := by
  intro sl w h hl
  obtain ⟨rfl, rfl⟩ := Prod.mk.inj (Option.some.inj h)
  clear h
  erw [decodeWord_e]
  change accept _ _ = _
  all_goals simp [accept, hl, acceptCond, dataReg]

theorem chgo (e : EF) (n : BitVec 4) : Statement (.chgo e n) := by
  intro sl w h hl
  obtain ⟨rfl, rfl⟩ := Prod.mk.inj (Option.some.inj h)
  clear h
  erw [decodeWord_e]
  change accept _ _ = _
  all_goals simp [accept, hl, acceptCond, dataReg]

theorem chset (e : EF) (n : BitVec 4) (b : Reg4) (space : BitVec 2) : Statement (.chset e n b space) := by
  intro sl w h hl
  obtain ⟨rfl, rfl⟩ := Prod.mk.inj (Option.some.inj h)
  clear h
  erw [decodeWord_e]
  change accept _ _ = _
  all_goals simp [accept, hl, acceptCond, dataReg]

theorem chq (e : EF) (n : BitVec 4) (b : Reg4) (now : Bool) (step : BitVec 12) : Statement (.chq e n b now step) := by
  intro sl w h hl
  obtain ⟨rfl, rfl⟩ := Prod.mk.inj (Option.some.inj h)
  clear h
  erw [decodeWord_e]
  change accept _ _ = _
  all_goals simp [accept, hl, acceptCond, dataReg]

theorem tjoin (e : EF) : Statement (.tjoin e) := by
  intro sl w h hl
  obtain ⟨rfl, rfl⟩ := Prod.mk.inj (Option.some.inj h)
  clear h
  erw [decodeWord_e]
  change accept _ _ = _
  all_goals simp [accept, hl, acceptCond, dataReg]

theorem put (f : RF) : Statement (.put f) := by
  intro sl w h hl
  obtain ⟨rfl, rfl⟩ := Prod.mk.inj (Option.some.inj h)
  clear h
  erw [decodeWord_e]
  change accept _ _ = _
  all_goals simp [accept, hl, acceptCond, dataReg]

theorem get (f : RF) : Statement (.get f) := by
  intro sl w h hl
  obtain ⟨rfl, rfl⟩ := Prod.mk.inj (Option.some.inj h)
  clear h
  erw [decodeWord_e]
  change accept _ _ = _
  all_goals simp [accept, hl, acceptCond, dataReg]

theorem acc (f : RF) : Statement (.acc f) := by
  intro sl w h hl
  obtain ⟨rfl, rfl⟩ := Prod.mk.inj (Option.some.inj h)
  clear h
  erw [decodeWord_e]
  change accept _ _ = _
  all_goals simp [accept, hl, acceptCond, dataReg]

theorem ramo (f : RaF) : Statement (.ramo f) := by
  intro sl w h hl
  obtain ⟨rfl, rfl⟩ := Prod.mk.inj (Option.some.inj h)
  clear h
  have hx := ramoX f hl
  erw [decodeWord_e]
  change accept _ _ = _
  simp [accept, hl, ramo1, ramo4, hx.1, hx.2]

theorem rcas (f : RaF) : Statement (.rcas f) := by
  intro sl w h hl
  obtain ⟨rfl, rfl⟩ := Prod.mk.inj (Option.some.inj h)
  clear h
  erw [decodeWord_e]
  change accept _ _ = _
  all_goals simp [accept, hl, acceptCond, dataReg]

theorem wfence (e : EF) (w : BitVec 12) (mode : BitVec 2) : Statement (.wfence e w mode) := by
  intro sl w h hl
  obtain ⟨rfl, rfl⟩ := Prod.mk.inj (Option.some.inj h)
  clear h
  erw [decodeWord_e]
  change accept _ _ = _
  all_goals simp [accept, hl, acceptCond, dataReg]

theorem wpost (e : EF) (w : BitVec 12) (a : SReg) : Statement (.wpost e w a) := by
  intro sl w h hl
  obtain ⟨rfl, rfl⟩ := Prod.mk.inj (Option.some.inj h)
  clear h
  erw [decodeWord_e]
  change accept _ _ = _
  all_goals simp [accept, hl, acceptCond, dataReg]

theorem wstart (e : EF) (w : BitVec 12) (a : SReg) : Statement (.wstart e w a) := by
  intro sl w h hl
  obtain ⟨rfl, rfl⟩ := Prod.mk.inj (Option.some.inj h)
  clear h
  erw [decodeWord_e]
  change accept _ _ = _
  all_goals simp [accept, hl, acceptCond, dataReg]

theorem wcomplete (e : EF) (w : BitVec 12) : Statement (.wcomplete e w) := by
  intro sl w h hl
  obtain ⟨rfl, rfl⟩ := Prod.mk.inj (Option.some.inj h)
  clear h
  erw [decodeWord_e]
  change accept _ _ = _
  all_goals simp [accept, hl, acceptCond, dataReg]

theorem wwait (e : EF) (w : BitVec 12) : Statement (.wwait e w) := by
  intro sl w h hl
  obtain ⟨rfl, rfl⟩ := Prod.mk.inj (Option.some.inj h)
  clear h
  erw [decodeWord_e]
  change accept _ _ = _
  all_goals simp [accept, hl, acceptCond, dataReg]

theorem wlock (e : EF) (w : BitVec 12) (a : SReg) (ex : Bool) : Statement (.wlock e w a ex) := by
  intro sl w h hl
  obtain ⟨rfl, rfl⟩ := Prod.mk.inj (Option.some.inj h)
  clear h
  erw [decodeWord_e]
  change accept _ _ = _
  all_goals simp [accept, hl, acceptCond, dataReg]

theorem wunlock (e : EF) (w : BitVec 12) (a : SReg) : Statement (.wunlock e w a) := by
  intro sl w h hl
  obtain ⟨rfl, rfl⟩ := Prod.mk.inj (Option.some.inj h)
  clear h
  erw [decodeWord_e]
  change accept _ _ = _
  all_goals simp [accept, hl, acceptCond, dataReg]

theorem wexpose (e : EF) (w : BitVec 12) (b : Reg4) : Statement (.wexpose e w b) := by
  intro sl w h hl
  obtain ⟨rfl, rfl⟩ := Prod.mk.inj (Option.some.inj h)
  clear h
  erw [decodeWord_e]
  change accept _ _ = _
  all_goals simp [accept, hl, acceptCond, dataReg]

theorem wrevoke (e : EF) (w : BitVec 12) : Statement (.wrevoke e w) := by
  intro sl w h hl
  obtain ⟨rfl, rfl⟩ := Prod.mk.inj (Option.some.inj h)
  clear h
  erw [decodeWord_e]
  change accept _ _ = _
  all_goals simp [accept, hl, acceptCond, dataReg]

theorem nmadd (e : EF) (b : Reg4) (step : BitVec 12) : Statement (.nmadd e b step) := by
  intro sl w h hl
  obtain ⟨rfl, rfl⟩ := Prod.mk.inj (Option.some.inj h)
  clear h
  erw [decodeWord_e]
  change accept _ _ = _
  all_goals simp [accept, hl, acceptCond, dataReg]

theorem nmtopk (e : EF) (b : Reg4) (step : BitVec 12) : Statement (.nmtopk e b step) := by
  intro sl w h hl
  obtain ⟨rfl, rfl⟩ := Prod.mk.inj (Option.some.inj h)
  clear h
  erw [decodeWord_e]
  change accept _ _ = _
  all_goals simp [accept, hl, acceptCond, dataReg]

theorem nmpk (e : EF) (b : Reg4) (step : BitVec 12) : Statement (.nmpk e b step) := by
  intro sl w h hl
  obtain ⟨rfl, rfl⟩ := Prod.mk.inj (Option.some.inj h)
  clear h
  erw [decodeWord_e]
  change accept _ _ = _
  all_goals simp [accept, hl, acceptCond, dataReg]

theorem nmbias (e : EF) (b : Reg4) : Statement (.nmbias e b) := by
  intro sl w h hl
  obtain ⟨rfl, rfl⟩ := Prod.mk.inj (Option.some.inj h)
  clear h
  erw [decodeWord_e]
  change accept _ _ = _
  all_goals simp [accept, hl, acceptCond, dataReg]

theorem nmfence (e : EF) : Statement (.nmfence e) := by
  intro sl w h hl
  obtain ⟨rfl, rfl⟩ := Prod.mk.inj (Option.some.inj h)
  clear h
  erw [decodeWord_e]
  change accept _ _ = _
  all_goals simp [accept, hl, acceptCond, dataReg]

theorem gdisp (e : EF) (b : Reg4) (xm1 : BitVec 12) (prio : BitVec 3) (lv : Bool) : Statement (.gdisp e b xm1 prio lv) := by
  intro sl w h hl
  obtain ⟨rfl, rfl⟩ := Prod.mk.inj (Option.some.inj h)
  clear h
  erw [decodeWord_e]
  change accept _ _ = _
  all_goals simp [accept, hl, acceptCond, dataReg]

theorem hem (e : EF) : Statement (.hem e) := by
  intro sl w h hl
  obtain ⟨rfl, rfl⟩ := Prod.mk.inj (Option.some.inj h)
  clear h
  erw [decodeWord_e]
  change accept _ _ = _
  all_goals simp [accept, hl, acceptCond, dataReg]

theorem bundleIssue (b : Bundle) : Statement (.bundleIssue b) := fun _ _ h => nomatch h

theorem bundleSkip (b : Bundle) : Statement (.bundleSkip b) := fun _ _ h => nomatch h

theorem fetchFault : Statement (.fetchFault) := fun _ _ h => nomatch h

theorem blockRelease : Statement (.blockRelease) := fun _ _ h => nomatch h

theorem switchIn : Statement (.switchIn) := fun _ _ h => nomatch h

theorem trapEntry : Statement (.trapEntry) := fun _ _ h => nomatch h

theorem errorDelivery : Statement (.errorDelivery) := fun _ _ h => nomatch h

theorem vectorResultWrite : Statement (.vectorResultWrite) := fun _ _ h => nomatch h

theorem scalarResultWrite : Statement (.scalarResultWrite) := fun _ _ h => nomatch h

theorem predicateWrite : Statement (.predicateWrite) := fun _ _ h => nomatch h

theorem loadDataArrival : Statement (.loadDataArrival) := fun _ _ h => nomatch h

theorem scaleLatchWrite : Statement (.scaleLatchWrite) := fun _ _ h => nomatch h

theorem pleatReturn : Statement (.pleatReturn) := fun _ _ h => nomatch h

theorem generatorRowRequest : Statement (.generatorRowRequest) := fun _ _ h => nomatch h

theorem waitmReread : Statement (.waitmReread) := fun _ _ h => nomatch h

theorem gbarWaitPoll : Statement (.gbarWaitPoll) := fun _ _ h => nomatch h

theorem continuationAccept : Statement (.continuationAccept) := fun _ _ h => nomatch h

theorem joinDecrement : Statement (.joinDecrement) := fun _ _ h => nomatch h

theorem gbarDeferredArrival : Statement (.gbarDeferredArrival) := fun _ _ h => nomatch h

theorem mxcfgLoadDone : Statement (.mxcfgLoadDone) := fun _ _ h => nomatch h

theorem mxcfgStoreExec : Statement (.mxcfgStoreExec) := fun _ _ h => nomatch h

theorem nestWalkStart : Statement (.nestWalkStart) := fun _ _ h => nomatch h

theorem nestStep : Statement (.nestStep) := fun _ _ h => nomatch h

theorem mxzeroExec : Statement (.mxzeroExec) := fun _ _ h => nomatch h

theorem mxshapeExec : Statement (.mxshapeExec) := fun _ _ h => nomatch h

theorem mxdrainExec : Statement (.mxdrainExec) := fun _ _ h => nomatch h

theorem drainEntryTransfer : Statement (.drainEntryTransfer) := fun _ _ h => nomatch h

theorem mxflagExec : Statement (.mxflagExec) := fun _ _ h => nomatch h

theorem mxtwExec : Statement (.mxtwExec) := fun _ _ h => nomatch h

theorem mxbfExec : Statement (.mxbfExec) := fun _ _ h => nomatch h

theorem xcfgExec : Statement (.xcfgExec) := fun _ _ h => nomatch h

theorem chsetExec : Statement (.chsetExec) := fun _ _ h => nomatch h

theorem chainRecordRead : Statement (.chainRecordRead) := fun _ _ h => nomatch h

theorem chainRowCopy : Statement (.chainRowCopy) := fun _ _ h => nomatch h

theorem firmwareFinishChain : Statement (.firmwareFinishChain) := fun _ _ h => nomatch h

theorem firmwareEndChain : Statement (.firmwareEndChain) := fun _ _ h => nomatch h

theorem chqSnapshot : Statement (.chqSnapshot) := fun _ _ h => nomatch h

theorem commandFinish : Statement (.commandFinish) := fun _ _ h => nomatch h

theorem inheritedFinish : Statement (.inheritedFinish) := fun _ _ h => nomatch h

theorem packetSend : Statement (.packetSend) := fun _ _ h => nomatch h

theorem packetAdmit : Statement (.packetAdmit) := fun _ _ h => nomatch h

theorem putPacket : Statement (.putPacket) := fun _ _ h => nomatch h

theorem getreqPacket : Statement (.getreqPacket) := fun _ _ h => nomatch h

theorem accPacket : Statement (.accPacket) := fun _ _ h => nomatch h

theorem ramoPacket : Statement (.ramoPacket) := fun _ _ h => nomatch h

theorem rcasPacket : Statement (.rcasPacket) := fun _ _ h => nomatch h

theorem spawnPacket : Statement (.spawnPacket) := fun _ _ h => nomatch h

theorem joinPacket : Statement (.joinPacket) := fun _ _ h => nomatch h

theorem arrive : Statement (.arrive) := fun _ _ h => nomatch h

theorem marker : Statement (.marker) := fun _ _ h => nomatch h

theorem post : Statement (.post) := fun _ _ h => nomatch h

theorem complete : Statement (.complete) := fun _ _ h => nomatch h

theorem lock : Statement (.lock) := fun _ _ h => nomatch h

theorem unlock : Statement (.unlock) := fun _ _ h => nomatch h

theorem done : Statement (.done) := fun _ _ h => nomatch h

theorem getdata : Statement (.getdata) := fun _ _ h => nomatch h

theorem atomret : Statement (.atomret) := fun _ _ h => nomatch h

theorem fail : Statement (.fail) := fun _ _ h => nomatch h

theorem grant : Statement (.grant) := fun _ _ h => nomatch h

theorem enack : Statement (.enack) := fun _ _ h => nomatch h

theorem enackResend : Statement (.enackResend) := fun _ _ h => nomatch h

theorem mgmt : Statement (.mgmt) := fun _ _ h => nomatch h

theorem nmForward : Statement (.nmForward) := fun _ _ h => nomatch h

theorem nmtopkExec : Statement (.nmtopkExec) := fun _ _ h => nomatch h

theorem nmpkExec : Statement (.nmpkExec) := fun _ _ h => nomatch h

theorem nmaddExec : Statement (.nmaddExec) := fun _ _ h => nomatch h

theorem nmbiasCommit : Statement (.nmbiasCommit) := fun _ _ h => nomatch h

theorem nmfenceFinish : Statement (.nmfenceFinish) := fun _ _ h => nomatch h

theorem gdispExec : Statement (.gdispExec) := fun _ _ h => nomatch h

theorem hemArrival : Statement (.hemArrival) := fun _ _ h => nomatch h

theorem hemRoundAbort : Statement (.hemRoundAbort) := fun _ _ h => nomatch h

theorem queuePop : Statement (.queuePop) := fun _ _ h => nomatch h

theorem queueAgeing : Statement (.queueAgeing) := fun _ _ h => nomatch h

theorem queuePush : Statement (.queuePush) := fun _ _ h => nomatch h

theorem spillRingRefill : Statement (.spillRingRefill) := fun _ _ h => nomatch h

theorem ksubmit : Statement (.ksubmit) := fun _ _ h => nomatch h

theorem kctlStop : Statement (.kctlStop) := fun _ _ h => nomatch h

theorem kctlResume : Statement (.kctlResume) := fun _ _ h => nomatch h

theorem kctlEnd : Statement (.kctlEnd) := fun _ _ h => nomatch h

theorem kctlRelease : Statement (.kctlRelease) := fun _ _ h => nomatch h

theorem preemptionStop : Statement (.preemptionStop) := fun _ _ h => nomatch h

theorem kernelAdmit : Statement (.kernelAdmit) := fun _ _ h => nomatch h

theorem leafPlacementPush : Statement (.leafPlacementPush) := fun _ _ h => nomatch h

theorem kernelDone : Statement (.kernelDone) := fun _ _ h => nomatch h

theorem kernelParked : Statement (.kernelParked) := fun _ _ h => nomatch h

theorem stopParkTimeout : Statement (.stopParkTimeout) := fun _ _ h => nomatch h

theorem firmwareEndKernel : Statement (.firmwareEndKernel) := fun _ _ h => nomatch h

theorem freeDoubleContext : Statement (.freeDoubleContext) := fun _ _ h => nomatch h

theorem frctlReplay : Statement (.frctlReplay) := fun _ _ h => nomatch h

theorem frctlDeliver : Statement (.frctlDeliver) := fun _ _ h => nomatch h

theorem accessNotice : Statement (.accessNotice) := fun _ _ h => nomatch h

theorem releaseSetWriteback : Statement (.releaseSetWriteback) := fun _ _ h => nomatch h

theorem hostRdmaWrite : Statement (.hostRdmaWrite) := fun _ _ h => nomatch h

theorem hostIngressApply : Statement (.hostIngressApply) := fun _ _ h => nomatch h

theorem hostRdmaRead : Statement (.hostRdmaRead) := fun _ _ h => nomatch h

theorem stagingWrite : Statement (.stagingWrite) := fun _ _ h => nomatch h

theorem rload : Statement (.rload) := fun _ _ h => nomatch h

theorem minsvn : Statement (.minsvn) := fun _ _ h => nomatch h

theorem mreset : Statement (.mreset) := fun _ _ h => nomatch h

theorem plimit : Statement (.plimit) := fun _ _ h => nomatch h

theorem attestationRequest : Statement (.attestationRequest) := fun _ _ h => nomatch h

theorem apertureWrite : Statement (.apertureWrite) := fun _ _ h => nomatch h

theorem registerWrite : Statement (.registerWrite) := fun _ _ h => nomatch h

theorem powerUp : Statement (.powerUp) := fun _ _ h => nomatch h

theorem powerStepDown : Statement (.powerStepDown) := fun _ _ h => nomatch h

theorem thermalTrip : Statement (.thermalTrip) := fun _ _ h => nomatch h

theorem thermalRecover : Statement (.thermalRecover) := fun _ _ h => nomatch h

theorem telemetryUpdate : Statement (.telemetryUpdate) := fun _ _ h => nomatch h

theorem linkPacketReceive : Statement (.linkPacketReceive) := fun _ _ h => nomatch h

theorem ack : Statement (.ack) := fun _ _ h => nomatch h

theorem ackTimer : Statement (.ackTimer) := fun _ _ h => nomatch h

theorem replayTimeout : Statement (.replayTimeout) := fun _ _ h => nomatch h

theorem portEnable : Statement (.portEnable) := fun _ _ h => nomatch h

theorem linkid : Statement (.linkid) := fun _ _ h => nomatch h

theorem linkFail : Statement (.linkFail) := fun _ _ h => nomatch h

theorem portDisable : Statement (.portDisable) := fun _ _ h => nomatch h

theorem cancelHeldPackets : Statement (.cancelHeldPackets) := fun _ _ h => nomatch h

theorem idleClk : Statement (.idleClk) := fun _ _ h => nomatch h

theorem softError : Statement (.softError) := fun _ _ h => nomatch h

theorem kernelTableWrite : Statement (.kernelTableWrite) := fun _ _ h => nomatch h

theorem dieControllerAccess : Statement (.dieControllerAccess) := fun _ _ h => nomatch h

end Laws.Enc
end Sys2Proof
end

