-- ==== Sys2Proof/Tests/Slice0.lean ====
section
/-! SUPPORT. Tests: terms that the well-formedness checks refuse, words written out from the manual's encodings, small steps with results from the manual, and for every statement a state and operands that meet its hypotheses. -/

set_option Elab.async false
set_option maxRecDepth 100000
set_option exponentiation.threshold 4000

namespace Sys2Proof.Tests

open Sys2Proof Sys2Proof.Machine

/-! Small states. -/

/-- A page that maps every address of the slice to itself and allows everything. -/
def page : TlbEntry := { asid := 0, base := 0, bits := 34, leaf := 0xC0F }
/-- Context 0 in RUN. -/
def runs : Context := { Context.reset with st := .run, live := true, pc := 0x100 }
/-- Cluster 0 with a Context 0, a page and further contents. -/
def at0 (x : Context) (c : Cluster) : State := { State.reset with clusters := [(0, { c with ctx := [(0, x)], tlb1 := [page], tlb2 := [page] })] }
def c0 : Cluster := Cluster.reset
/-- Context 0 of cluster 0 about to issue. -/
def base : State := at0 runs c0
/-- The same in a handler. -/
def handler : State := at0 { runs with h := true } c0
/-- A command of Context 0, taken by its engine. -/
def cmd0 (e : Engine) (i : Instr) : Cmd :=
  { id := 7, ctx := 0, eng := e, instr := i, n := 0, regs := [], tok := 3, pc := 0x100, iter := 0, waits := [], inh := none, queued := false, logged := true,
    started := true, pos := 0, phase := 0, data := [], fault := false, delivered := none, notBefore := 0, remote := none }
/-- An operation under a Handle, its one packet outstanding. -/
def rem0 (h : Nat) : Remote :=
  { hnd := h, peer := none, peerIdx := 0, win := 0, off := 0, len := 0, localVa := 0, sent := 0, out := 1, failed := 0, dest := none, allSent := true,
    locDone := false, done := false }

/-! Witnesses: issues of the S slot. -/

theorem witness_ScalarResults :
    (∃ g d a b lat f, arithmeticRow (.add 0 3 1 2) = some (g, d, a, b, lat, f) ∧ base.issuing 0 0 = true ∧ (base.context 0 0).on g = true ∧
      (base.context 0 0).readyS a = true ∧ (base.context 0 0).readyS b = true ∧ (base.context 0 0).freeS d = true) ∧
    (∃ g d a b f, shiftRow (.bfx 0 31 1 true 63 0) = some (g, d, a, b, f) ∧ legal (.bfx 0 31 1 true 63 0) = true ∧ base.issuing 0 0 = true ∧
      (base.context 0 0).on g = true ∧ (base.context 0 0).readyS a = true ∧ (base.context 0 0).readyS b = true ∧ (base.context 0 0).freeS d = true) :=
  ⟨⟨_, _, _, _, _, _, rfl, by decide, by decide, by decide, by decide, by decide⟩,
   ⟨_, _, _, _, _, rfl, by decide, by decide, by decide, by decide, by decide, by decide⟩⟩

theorem witness_PredicateAndReadResults :
    (∃ g e as ps m, pairRow (base.context 0 0) (.cmp 0 14 1 2 .lt) = some (g, e, as, ps, m) ∧ legal (.cmp 0 14 1 2 .lt) = true ∧ base.issuing 0 0 = true ∧
      (base.context 0 0).on g = true ∧ (∀ a ∈ as, (base.context 0 0).readyS a = true) ∧ (∀ p ∈ ps, (base.context 0 0).readyP p = true)) ∧
    (let s := at0 { runs with mode := true } c0
     ∃ g e as ps m, pairRow (s.context 0 0) (.pand 0 8 2 3) = some (g, e, as, ps, m) ∧ legal (.pand 0 8 2 3) = true ∧ s.issuing 0 0 = true ∧ 8 ≤ e.toNat) ∧
    (∃ g d as ps bs v, readRow handler 0 0 (.ptest 0 5 1) = some (g, d, as, ps, bs, v) ∧ legal (.ptest 0 5 1) = true ∧ handler.issuing 0 0 = true ∧
      (handler.context 0 0).h = true ∧ (handler.context 0 0).on g = true ∧ (∀ a ∈ as, (handler.context 0 0).readyS a = true) ∧ ps = [] ∧ bs = [] ∧
      (handler.context 0 0).freeS d = true) :=
  ⟨⟨_, _, _, _, _, rfl, by decide, by decide, by decide, by decide, by decide⟩, ⟨_, _, _, _, _, rfl, by decide, by decide, by decide⟩,
   ⟨_, _, _, _, _, _, rfl, by decide, by decide, by decide, by decide, by decide, rfl, rfl, by decide⟩⟩

theorem witness_PredicateAndReadResults_stage :
    let s := at0 { runs with mode := true } c0
    let m : AMem := { g := 0, b := 1, w := .b64, ord := .plain, scope := 0, off := 0, step := 0 }
    let f : VF := { slot := .v0, g := 0, d := 0x40, s1 := 0, s2 := 1, s3 := 0, ty := 0, rnd := 0, ftz := false, peek := false, need := 0, imm := 0x84 }
    s.issuing 0 0 = true ∧ (s.context 0 0).mode = true ∧ legal (.ld m (.p 8)) = true ∧ legal (.vcmp f) = true ∧ 8 ≤ (immE f).toNat ∧
      ∃ g v p, compareRow (s.context 0 0) (.vcmp f) = some (g, v, p) := ⟨by decide, by decide, by decide, by decide, by decide, _, _, _, rfl⟩

theorem witness_ControlTransfers :
    (∃ g a n t l, branchRow (base.context 0 0) (.br 0 1 (-4)) = some (g, a, n, t, l) ∧ legal (.br 0 1 (-4)) = true ∧ base.issuing 0 0 = true ∧
      (base.context 0 0).on g = true ∧ (base.context 0 0).readyS a = true ∧ l = none ∧ (base.context 0 0).loops.length < n) ∧
    (∃ g a n t l, branchRow (base.context 0 0) (.br 0 0 2) = some (g, a, n, t, l) ∧ legal (.br 0 0 2) = true ∧ l = none ∧ t.toNat % 4 ≠ 0 ∧
      ¬(base.context 0 0).loops.length < n) ∧
    (∃ g a n t l, branchRow (base.context 0 0) (.call 0 31 8) = some (g, a, n, t, l) ∧ legal (.call 0 31 8) = true ∧ l = some 31 ∧
      (base.context 0 0).freeS 31 = true ∧ t.toNat % 4 = 0) ∧
    (∃ g a n st len y, loopRow (base.context 0 0) (.loopi 0 3 1 0) = some (g, a, n, st, len, y) ∧ legal (.loopi 0 3 1 0) = true ∧ n ≠ 0 ∧ len ≠ 0 ∧
      (base.context 0 0).loops.length < 4) ∧
    (let s := at0 { runs with s := [(4, 3)] } c0
     ∃ g a n st len y, loopRow (s.context 0 0) (.loopSwp 0 4 1 9 0x20) = some (g, a, n, st, len, y) ∧ legal (.loopSwp 0 4 1 9 0x20) = true ∧ n = 3 ∧ st = some 2 ∧
      len ≠ 0 ∧ (s.context 0 0).mode = false ∧ (s.context 0 0).readyS a = true ∧ s.issuing 0 0 = true) ∧
    (∃ g a n st len y, loopRow (base.context 0 0) (.loopi 0 0 1 0) = some (g, a, n, st, len, y) ∧ n = 0 ∧ len ≠ 0) ∧
    (let l : Level := { count := 2, start := 0, stop := 0x200, yield := 0, swp := false }
     let s := at0 { runs with loops := [l, l, l, l] } c0
     ∃ g a n st len y, loopRow (s.context 0 0) (.loopi 0 3 1 0) = some (g, a, n, st, len, y) ∧ n ≠ 0 ∧ 4 ≤ (s.context 0 0).loops.length ∧ s.issuing 0 0 = true) :=
  ⟨⟨_, _, _, _, _, rfl, by decide, by decide, by decide, by decide, rfl, by decide⟩, ⟨_, _, _, _, _, rfl, by decide, rfl, by decide, by decide⟩,
   ⟨_, _, _, _, _, rfl, by decide, rfl, by decide, by decide⟩, ⟨_, _, _, _, _, _, rfl, by decide, by decide, by decide, by decide⟩,
   ⟨_, _, _, _, _, _, rfl, by decide, by decide, by decide, by decide, by decide, by decide, by decide⟩,
   ⟨_, _, _, _, _, _, rfl, by decide, by decide⟩, ⟨_, _, _, _, _, _, rfl, by decide, by decide, by decide⟩⟩

/-- A Token under way and a Handle under way. -/
def pendingTok : Token := { Token.free with st := .pending, count := 1, seq := 1, cmds := [7] }
def pendingHnd : Handle := { Handle.free with st := .issued }

theorem witness_TaskEnds :
    (base.issuing 0 0 = true ∧ (base.context 0 0).on 0 = true ∧ (base.context 0 0).toks = [] ∧ (base.context 0 0).hnds = [] ∧ (base.context 0 0).parkReq = false ∧
      (base.cluster 0).kernel = none ∧ legal (.yield 0 8) = true ∧ (base.context 0 0).readyA 15 = true) ∧
    (let s := at0 { runs with toks := [(3, pendingTok)] } c0
     s.issuing 0 0 = true ∧ (s.context 0 0).on 0 = true ∧ (s.context 0 0).toks.any (fun p => decide (p.2.st = .pending)) = true) ∧
    (let s := at0 { runs with hnds := [(1, pendingHnd)] } c0
     s.issuing 0 0 = true ∧ (s.context 0 0).on 0 = true ∧ (s.context 0 0).toks = [] ∧ (s.context 0 0).hnds.any (fun p => p.2.st.pending) = true) ∧
    (let s : State := { at0 { runs with parkReq := true, leaf := true } { c0 with kernel := some 0 } with kernels := [(0, { KEntry.reset with st := .running })] }
     s.issuing 0 0 = true ∧ (s.context 0 0).parkReq = true ∧ (s.cluster 0).kernel = some 0 ∧ (s.context 0 0).leaf = true ∧ (s.kernel 0).ended ≠ BitVec.allOnes 32) ∧
    base.stoppingAt 0 = false ∧ nothingDue base 0 0 = true ∧ nothingDue (at0 runs { c0 with joins := [{ ctx := 0, va := 64, pa := 64, seq := 1 }] }) 0 0 = false := by
  decide

theorem witness_ControlRegisters :
    (legal (.mts 0 1 0x40) = true ∧ base.issuing 0 0 = true ∧ (base.context 0 0).h = false) ∧
    (legal (.mts 0 1 0x5A) = true ∧ handler.issuing 0 0 = true ∧ (handler.context 0 0).h = true ∧ (handler.context 0 0).on 0 = true ∧
      (handler.context 0 0).readyS 1 = true) ∧ (legal (.mts 0 1 0x01) = true ∧ (base.context 0 0).readyS 1 = true) ∧ (0x5A, 0xFFFF0031) ∈ readBackRows ∧
    (0x27, 0) ∈ readOnlyRows c0 runs 0 0 0x100 ∧ (0x00, 0x100) ∈ readOnlyRows c0 runs 0 0 0x100 := by
  decide

theorem witness_TrapsAndReturn :
    (base.issuing 0 0 = true ∧ (base.context 0 0).on 0 = true) ∧
    (let v : Saved := { sticky := StickySet.none, loops := [], bcount := 5, qpos := 0, pc := 0x40, xferred := false }
     let s := at0 { runs with h := true, saved := some v, epc := 0x40, estat := 0x200 } c0
     let u := at0 { runs with h := true, saved := some v, epc := 0x42 } c0
     s.issuing 0 0 = true ∧ (s.context 0 0).h = true ∧ (s.context 0 0).on 0 = true ∧ (s.context 0 0).saved = some v ∧ (s.context 0 0).epc.toNat % 4 = 0 ∧
       u.issuing 0 0 = true ∧ (u.context 0 0).saved = some v ∧ (u.context 0 0).epc.toNat % 4 ≠ 0) := by decide

theorem witness_TrapEntry :
    (let t := Trap.slotTrap cPRIV 4 63
     (base.context 0 0).h = false ∧ t.iter < 64 ∧ t.slot < 8 ∧ SMap.sorted 0 (base.cluster 0).dirty = true) ∧
    ((handler.context 0 0).h = true ∧ (handler.cluster 0).kernel = none ∧ (handler.die 0).wr - (handler.die 0).rd < 4096) ∧
    (let s : State := { at0 { runs with h := true } { c0 with kernel := some 0 } with kernels := [(0, { KEntry.reset with st := .running, clusters := [0] })] }
     (s.context 0 0).h = true ∧ (s.cluster 0).kernel = some 0 ∧ 0 ∈ (s.kernel 0).clusters) := by decide

/-! Witnesses: issues in general, waits, parking, images, records. -/

theorem witness_GuardsAndDecodeFaults :
    (slotOf (.add 1 3 1 2) = some .s ∧ legal (.add 1 3 1 2) = true ∧ base.issuing 0 0 = true ∧ decodeFault (base.context 0 0) .s (.add 1 3 1 2) 0 false = none ∧
      (base.context 0 0).off (guardOf (.add 1 3 1 2)) = true) ∧
    (let f : VF := { slot := .v0, g := 1, d := 0x40, s1 := 0, s2 := 0, s3 := 0, ty := 6, rnd := 0, ftz := false, peek := false, need := 0, imm := 0 }
     slotOf (.vfadd f) = some .v0 ∧ legal (.vfadd f) = true ∧ decodeFault (base.context 0 0) .v0 (.vfadd f) 0 false = none ∧
      (base.context 0 0).readyP (guardOf (.vfadd f)) = true ∧ (base.context 0 0).preg (guardOf (.vfadd f)) = 0) ∧
    (slotOf (.nop 1) = some .s ∧ legal (.nop 1) = true ∧ decodeFault (base.context 0 0) .s (.nop 1) 0 false = none) ∧
    ((slotOf (.cmp 0 5 1 2 .eq)).isSome = true ∧ legal (.cmp 0 5 1 2 .eq) = false) ∧
    ((slotOf (.eret 0)).isSome = true ∧ legal (.eret 0) = true ∧ privileged (.eret 0) = true ∧ (base.context 0 0).h = false) := by decide
/-- No release waits in the small states. -/
theorem witness_settledReleases : settledReleases base 0 ∧ settledReleases handler 0 ∧ ((handler.context 0 1).trapPending = none ∧ (handler.context 0 1).errors = []) := by
  unfold settledReleases; decide

theorem witness_OperandInterlock :
    (let s := at0 { runs with flights := [flightS 1 9 3] } c0
     s.issuing 0 0 = true ∧ (s.context 0 0).on 0 = true ∧ (s.context 0 0).flying (.s 1) = true) ∧
    (let o : Origin := { pc := 8, iter := 0, opcode := 1, handle := 0, addr := 64 }
     let s := at0 { runs with sBad := [(1, o)] } c0
     s.issuing 0 0 = true ∧ (s.context 0 0).on 0 = true ∧ (s.context 0 0).flying (.s 1) = false ∧ (s.context 0 0).freeS 1 = true ∧
       Machine.SMap.find (s.context 0 0).sBad 1 = some o) ∧
    (let o : Origin := { pc := 8, iter := 0, opcode := 1, handle := 0, addr := 64 }
     let s := at0 { runs with pBad := [(2, o)], aBad := [(4, o)], flights := [{ flightS 0 9 1 with dest := .p 3, load := true }, flightA 5 9 1], sWait := [(6, 0)] } c0
     s.issuing 0 0 = true ∧ (s.context 0 0).predLoading 3 = true ∧ (s.context 0 0).predLoading 2 = false ∧ Machine.SMap.find (s.context 0 0).pBad 2 = some o ∧
       (s.context 0 0).on 0 = true ∧ (s.context 0 0).flying (.a 5) = true ∧ (s.context 0 0).flying (.a 4) = false ∧
       Machine.SMap.find (s.context 0 0).aBad 4 = some o ∧ (s.context 0 0).flying (.s 6) = false ∧ (s.context 0 0).freeS 6 = false) ∧
    (∃ g as ps bs, operandRow base 0 0 (.sel 0 3 1 2 2) = some (g, as, ps, bs) ∧ as = [1, 2] ∧ ps = [2] ∧ slotOf (.sel 0 3 1 2 2) = some .s ∧ legal (.sel 0 3 1 2 2) = true ∧
      decodeFault (base.context 0 0) .s (.sel 0 3 1 2 2) 0 false = none) ∧
    (∃ g as ps bs, operandRow base 0 0 (.aofs 0 3 4 5) = some (g, as, ps, bs) ∧ bs = [4, 5] ∧ legal (.aofs 0 3 4 5) = true) ∧
    (∃ g as ps bs, operandRow base 0 0 (.sofa 0 15 3 7 10 false) = some (g, as, ps, bs) ∧ slotOf (.sofa 0 15 3 7 10 false) = some .a) ∧
    ∃ g as ps bs, operandRow base 0 0 (.bfx 1 31 1 true 63 0) = some (g, as, ps, bs) ∧ g = 1 ∧ as = [1, 0] :=
  ⟨by decide, by decide, by decide, ⟨_, _, _, _, rfl, rfl, rfl, by decide, by decide, by decide⟩, ⟨_, _, _, _, rfl, rfl, by decide⟩, ⟨_, _, _, _, rfl, by decide⟩,
   _, _, _, _, rfl, rfl, rfl⟩

theorem witness_IssueBookkeeping :
    base.issuing 0 0 = true ∧ (base.blank).after = .stay ∧ base.blank.ports = [] ∧ base.blank.gens.isEmpty = true ∧ base.blank.extra = 0 ∧ base.blank.idle = 0 ∧
      (base.blank.st.context 0 0).iter = 0 ∧ (base.blank.st.context 0 0).loops = [] := by
  refine ⟨by decide, rfl, rfl, rfl, rfl, rfl, rfl, rfl⟩

theorem witness_WaitsAndParking :
    (∃ g a ts loc hs, waitRow (base.context 0 0) (.twaitImm 0 1 0 0 63) = some (g, a, ts, loc, hs) ∧ legal (.twaitImm 0 1 0 0 63) = true ∧ base.issuing 0 0 = true ∧
      (base.context 0 0).on g = true ∧ (base.context 0 0).readyS a = true ∧ ts.all (tokenDone (base.context 0 0)) = true ∧
      (base.cluster 0).cmds.any (holdsHandle 0 loc hs) = false) ∧
    (let s := at0 { runs with toks := [(3, { Token.free with st := .pending, count := 1, seq := 1, cmds := [7] })] } c0
     ∃ g a ts loc hs, waitRow (s.context 0 0) (.twaitImm 0 3 0 0 0) = some (g, a, ts, loc, hs) ∧ s.issuing 0 0 = true ∧
      ts.any (fun t => !tokenDone (s.context 0 0) t && !((s.context 0 0).tok t).cmds.isEmpty) = true) ∧
    (let s := at0 runs { c0 with cmds := [{ cmd0 .network (.nopE 0) with remote := some (rem0 1) }] }
     ∃ g a ts loc hs, waitRow (s.context 0 0) (.hwaitImm 0 false 1 0 0 0) = some (g, a, ts, loc, hs) ∧ s.issuing 0 0 = true ∧
      (s.cluster 0).cmds.any (holdsHandle 0 loc hs) = true) ∧
    (handler.issuing 0 0 = true ∧ legal (.park 0 1 false) = true ∧ legal (.park 0 1 true) = true ∧ (handler.context 0 0).h = true ∧ (handler.context 0 0).on 0 = true ∧
      (handler.context 0 0).readyS 1 = true) :=
  ⟨⟨_, _, _, _, _, rfl, by decide, by decide, by decide, by decide, by decide, by decide⟩, ⟨_, _, _, _, _, rfl, by decide, by decide⟩,
   ⟨_, _, _, _, _, rfl, by decide, by decide⟩, by decide⟩

theorem witness_ContextImages :
    (handler.issuing 0 0 = true ∧ (handler.context 0 0).h = true ∧ (handler.context 0 0).on 0 = true ∧ (handler.context 0 0).readyS 1 = true ∧
      (handler.context 0 0).readyA 2 = true ∧ (handler.context 0 0).freeS 3 = true ∧ ((handler.context 0 0).areg 2).toNat % 4096 = 0 ∧
      ((handler.context 0 0).sreg 1).toNat % 4 = 0) ∧
    (let s : State := { State.reset with clusters := [(0, { c0 with ctx := [(0, { runs with h := true, s := [(1, 1)], a := [(2, 0x100000)] }), (1, { runs with st := .parked })],
                                                                       tlb1 := [page], tlb2 := [page] })] }
     s.issuing 0 0 = true ∧ ((s.context 0 0).sreg 1).toNat % 4 = 1 ∧ (s.context 0 1).shown = .parked ∧ (pendingToks (s.context 0 1)).isEmpty = true ∧
       (pendingHnds (s.context 0 1)).isEmpty = true ∧ (match (s.xlatRange 0 0x100000 imageBytes .write true true).1 with | .ok _ => true | .error _ => false) = true ∧
       (match s.xlatRange 0 0x100000 imageBytes .read true true with
        | (.ok cs, st) => !(st.cluster 0).chunksBad cs && unheld s 0 0 (.ctxload 0 3 1 2) false [cs] && unheld s 0 0 (.ctxsave 0 3 1 2) false [cs] | _ => false) = true) ∧
    (let x : Context := { runs with loops := [{ count := 2, start := 4, stop := 8, yield := 12, swp := true }] }
     x.loops.length ≤ 4 ∧ (∀ l ∈ x.loops, 0 < l.count ∧ l.count < 2 ^ 64 ∧ l.yield.getLsbD 0 = false)) := by decide +kernel

/-- A record at address 64: its CODE is 0x1000. -/
def recorded : Cluster := { c0 with mem := [(65, 0x10)] }

theorem witness_SpawnsAndJoins :
    (let s := at0 { runs with s := [(6, 64)] } recorded
     let i := Instr.spawnLocal 0 6 5 true
     ∃ cs w, legal i = true ∧ s.issuing 0 0 = true ∧ (s.context 0 0).on 0 = true ∧ (s.context 0 0).readyS 6 = true ∧ ((s.context 0 0).sreg 6).toNat % 64 = 0 ∧
       clear s 0 0 i 0 [(((s.context 0 0).sreg 6).toNat, 64)] = true ∧ translated s 0 0 i .read [(((s.context 0 0).sreg 6).toNat, 64)] cs w ∧
       (w.st.cluster 0).chunksBad cs.flatten = false ∧ (recCode (recOfBytes ((w.st.cluster 0).readChunks cs.flatten))).toNat % 4 = 0 ∧
       (s.cluster 0).heldWrites.any (fun h => h.ctx == 0) = false ∧
       ¬(64 + (s.cluster 0).ringSlots ≤ ((s.cluster 0).level 5).size + (s.cluster 0).reserved 5 ∨ (s.cluster 0).ringSlots ≤ ((s.cluster 0).level 5).len)) ∧
    (legal (.joinParent 0 0) = true ∧ (base.context 0 0).ppeer.getLsbD 12 = false ∧ (base.context 0 0).prec.setWidth 64 = (0 : Word)) ∧
    (let s := at0 { runs with s := [(6, 0x1010)] } c0
     legal (.joinRecord 0 6) = true ∧ s.issuing 0 0 = true ∧ (s.context 0 0).readyS 6 = true ∧ ((s.context 0 0).sreg 6).toNat % 64 ≠ 0) ∧
    (let s := at0 { runs with s := [(6, 64)] } c0
     ∃ ch w, s.issuing 0 0 = true ∧ translated s 0 0 (.joinRecord 0 6) .write [(64, 64)] [[ch]] w ∧ ch.pa = 64) :=
  ⟨⟨_, _, by decide, by decide, by decide, by decide, by decide, by decide, rfl, by decide, by decide +kernel, by decide, by decide⟩, by decide, by decide,
   ⟨_, _, by decide, rfl, rfl⟩⟩

theorem witness_RemoteOperationsOfTheSSlot :
    (let s := at0 { runs with ppeer := 0x1005, prec := 0x40 } c0
     s.issuing 0 0 = true ∧ (s.context 0 0).on 0 = true ∧ ((s.context 0 0).hnd 1).st.pending = false ∧ (s.context 0 0).ppeer.getLsbD 12 = true ∧
       (s.context 0 0).prec ≠ 0 ∧ (s.context 0 0).prec.toNat % 64 = 0 ∧ legal (.joinParent 0 1) = true) ∧
    (legal (.gbarArrive 0 5 4 3 1 0) = true ∧ (base.context 0 0).readyS 3 = true ∧ (base.context 0 0).freeS 4 = true ∧
      ((base.context 0 0).sreg 3).toNat / 2 ^ 24 % 64 = 0) ∧
    (let s := at0 { runs with s := [(6, 64)] } recorded
     let i := Instr.spawnRemote 0 1 6 7 5 true
     ∃ cs w, legal i = true ∧ s.issuing 0 0 = true ∧ (s.context 0 0).readyS 6 = true ∧ (s.context 0 0).readyS 7 = true ∧ ((s.context 0 0).sreg 6).toNat % 64 = 0 ∧
       clear s 0 0 i 0 [(((s.context 0 0).sreg 6).toNat, 64)] = true ∧ translated s 0 0 i .read [(((s.context 0 0).sreg 6).toNat, 64)] cs w ∧
       unheld s 0 0 i false cs = true ∧
       (w.st.cluster 0).chunksBad cs.flatten = false ∧ (recCode (recOfBytes ((w.st.cluster 0).readChunks cs.flatten))).toNat % 4 = 0) :=
  ⟨by decide, by decide, ⟨_, _, by decide, by decide, by decide, by decide, by decide, by decide, rfl, by decide, by decide, by decide +kernel⟩⟩

/-- A read of a Group barrier's record that has answered generation 6. -/
def polled (i : Instr) : Cmd := { cmd0 .barrier i with remote := some (rem0 0), phase := 1, data := [0x600000000] }

theorem witness_GroupBarrierInstructions :
    (base.issuing 0 0 = true ∧ (base.context 0 0).on 0 = true ∧ (base.context 0 0).readyS 1 = true ∧ (base.context 0 0).readyS 2 = true ∧
      ((base.context 0 0).sreg 1).toNat / 2 ^ 24 % 64 = 0 ∧ legal (.gbarWait 0 5 1 2) = true ∧ (base.slotView 0 0 (.gbarWait 0 5 1 2)).poll ((base.context 0 0).sreg 1) = none ∧
      legal (.gbar 0 5 1 1) = true ∧ Machine.SMap.find (base.context 0 0).tickets 1 = none ∧ (base.cluster 0).cmds = [] ∧ ((base.context 0 0).hnd 1).st.pending = false) ∧
    (let i := Instr.gbarWait 0 5 1 2
     let s := at0 runs { c0 with cmds := [polled i] }
     (s.slotView 0 0 i).poll ((s.context 0 0).sreg 1) = some (polled i) ∧ (polled i).phase = 1 ∧
       genReleased (((polled i).data.headD 0).toNat / 2 ^ 32) (((s.context 0 0).sreg 2).toNat % 2 ^ 32) = true) ∧
    (let i := Instr.gbar 0 5 1 1
     let s := at0 { runs with tickets := [(1, (0x100, 5))] } { c0 with cmds := [polled i] }
     Machine.SMap.find (s.context 0 0).tickets 1 = some ((s.context 0 0).pc, 5) ∧ (s.slotView 0 0 i).poll ((s.context 0 0).sreg 1) = some (polled i) ∧ genReleased (((polled i).data.headD 0).toNat / 2 ^ 32) 5 = true) := by
  decide

theorem witness_ContextImages_waits :
    (let s : State := { State.reset with clusters := [(0, { c0 with ctx := [(0, { runs with h := true, s := [(1, 1)], a := [(2, 0x100000), (4, 0x100040)] }),
                                                                      (1, { runs with st := .parked, toks := [(3, pendingTok)] })], tlb1 := [page], tlb2 := [page] })] }
     s.issuing 0 0 = true ∧ (s.context 0 0).h = true ∧ ((s.context 0 0).sreg 1).toNat % 4 = 1 ∧ (s.context 0 1).shown = .parked ∧ (pendingToks (s.context 0 1)).isEmpty = false ∧
       ((s.context 0 0).areg 2).toNat % 4096 = 0 ∧ ((s.context 0 0).areg 4).toNat % 4096 ≠ 0) ∧
    (let s := at0 { runs with ppeer := 0x1005, prec := 0x40, hnds := [(1, pendingHnd)] } c0
     s.issuing 0 0 = true ∧ ((s.context 0 0).hnd 1).st.pending = true ∧ (s.context 0 0).ppeer.getLsbD 12 = true ∧ (s.context 0 0).prec.toNat % 64 = 0 ∧ legal (.joinParent 0 1) = true) ∧
    (let e : EF := { g := 1, kp := 3, ka := 0, kb := 0, kc := 0 }
     slotOf (.wfence e 1 0) = some .e ∧ legal (.wfence e 1 0) = true ∧ decodeFault (base.context 0 0) .e (.wfence e 1 0) 0 false = none ∧
       (base.context 0 0).off (guardOf (.wfence e 1 0)) = true ∧ (epochRow (base.cluster 0) (base.context 0 0) (.wfence e 1 0)).isSome = true ∧ (base.context 0 0).epochs = []) := by
  decide

/-! Witnesses: the A slot. -/

/-- An address operand on a1. -/
def mem1 (w : Width) : AMem := { g := 0, b := 1, w := w, ord := .plain, scope := 0, off := 0, step := 0 }
/-- The same under p2, which enables lane 0 alone in `lane0`. -/
def mem2 (w : Width) : AMem := { mem1 w with g := 2 }
/-- A Port with entries that can be read. -/
def filled1 (n : Nat) (idx : Nat) (idxv : Bool) : Port :=
  { on := true, depth := 8, idx := idx, idxv := idxv, entries := (List.range n).map (fun i => { id := i, ready := true, poison := false, fromV := false, data := 0 }),
    nextId := n, gen := Gen.off }
def lane0 : Context := { runs with p := [(2, 1)], a := [(1, 0x1000)], ports := [(3, filled1 2 4 true), (4, filled1 2 0 false)] }
def memState : State := at0 lane0 c0

theorem witness_AddressResult :
    ∃ g d bs as v, addressRow (base.context 0 0) (.sofa 0 15 3 7 10 false) = some (g, d, bs, as, v) ∧ legal (.sofa 0 15 3 7 10 false) = true ∧
      base.issuing 0 0 = true ∧ (base.context 0 0).on g = true ∧ (∀ b ∈ bs, (base.context 0 0).readyA b = true) ∧ (∀ a ∈ as, (base.context 0 0).readyS a = true) :=
  ⟨_, _, _, _, _, rfl, by decide, by decide, by decide, by decide, by decide⟩

theorem witness_ScalarAccesses :
    (let s := at0 { runs with a := [(1, 0x1001)] } c0
     legal (.ld (mem1 .b64) (.s 5)) = true ∧ s.issuing 0 0 = true ∧ (s.context 0 0).on 0 = true ∧ (s.context 0 0).readyA 1 = true ∧ (s.context 0 0).freeS 5 = true ∧
       (s.context 0 0).mode = false ∧ SMap.sorted 0 (s.cluster 0).dirty = true ∧ (addressOf (s.context 0 0) (mem1 .b64)).toNat % 8 ≠ 0) ∧
    (let m : AMem := { mem1 .b64 with b := 14 }
     let s := at0 { runs with a := [(14, 0x1000)], splim := 0x1000 } c0
     s.issuing 0 0 = true ∧ spills (s.context 0 0) 14 [((addressOf (s.context 0 0) m).toNat, 8)] = true ∧ (s.context 0 0).readyA 14 = true) ∧
    (∃ ch w, legal (.ld (mem1 .b64) (.s 5)) = true ∧ memState.issuing 0 0 = true ∧ clear memState 0 0 (.ld (mem1 .b64) (.s 5)) 0 [(0x1000, 8)] = true ∧
      translated memState 0 0 (.ld (mem1 .b64) (.s 5)) .read [((addressOf (memState.context 0 0) (mem1 .b64)).toNat, scalarBytes (mem1 .b64) (.s 5))] [[ch]] w ∧
      memState.lags = [] ∧ (memState.cluster 0).acbase.getLsbD 0 = false ∧ (addressOf (memState.context 0 0) (mem1 .b64)).toNat = 0x1000 ∧
      spills (memState.context 0 0) 1 [(0x1000, 8)] = false ∧ unheld memState 0 0 (.ld (mem1 .b64) (.s 5)) false [[ch]] = true) ∧
    (∃ ch w, legal (.st (mem1 .b8) (.s 5)) = true ∧ (memState.context 0 0).readyS 5 = true ∧ clear memState 0 0 (.st (mem1 .b8) (.s 5)) 0 [(0x1000, 1)] = true ∧
      translated memState 0 0 (.st (mem1 .b8) (.s 5)) .write [((addressOf (memState.context 0 0) (mem1 .b8)).toNat, scalarBytes (mem1 .b8) (.s 5))] [[ch]] w ∧
      (memState.cluster 0).cmds = [] ∧ (memState.cluster 0).heldWrites = [] ∧ memState.storeLags.headD 0 = 0 ∧
      { memState with storeLags := [3] }.storeLags.head? = some (2 + 1) ∧ (mem1 .b8).ord = .plain ∧ pteSC ch.leaf = false) :=
  ⟨by decide, by decide, ⟨_, _, by decide, by decide, by decide, rfl, by decide, by decide, by decide, by decide, by decide⟩,
   ⟨_, _, by decide, by decide, by decide, rfl, by decide, by decide, by decide, by decide, by decide, by decide⟩⟩

theorem witness_VectorAccesses :
    (memState.issuing 0 0 = true ∧ (memState.context 0 0).readyA 1 = true ∧ (memState.context 0 0).readyP 2 = true ∧ (memState.context 0 0).preg 2 ≠ 0 ∧
      memState.lags = [] ∧ (memState.cluster 0).heldWrites = [] ∧ (memState.cluster 0).cmds = [] ∧ memState.storeLags.headD 0 = 0 ∧ SMap.sorted 0 (memState.cluster 0).dirty = true ∧
      (memState.cluster 0).acbase.getLsbD 0 = false ∧ (addressOf (memState.context 0 0) (mem2 .b32)).toNat % 64 = 0 ∧
      spills (memState.context 0 0) 1 [(0x1000, 4)] = false ∧ ((memState.context 0 0).port 3).on = true ∧ ((memState.context 0 0).port 3).idxv = true ∧
      ((memState.context 0 0).port 3).gen.active = false ∧ 1 ≤ (memState.context 0 0).room 3 ∧
      legal (.ldv (mem2 .b32) 3) = true ∧ legal (.ldg (mem2 .b16) 3) = true ∧ legal (.stv (mem2 .b32) 3) = true ∧ legal (.sts (mem2 .b16) 3) = true ∧
      clear memState 0 0 (.ldv (mem2 .b32) 3) 0 [(0x1000, 4)] = true ∧ clear memState 0 0 (.sts (mem2 .b16) 3) 0 [(0x1000, 2)] = true) ∧
    (let p := (memState.context 0 0).port 3
     ∃ cs w, xlatPieces (memState.slotView 0 0 (.ldv (mem2 .b32) 3)) .read [(0x1000, 4)] ((memState.does 0 0 (fun x => x.setPort 3 { p with
        entries := p.entries ++ [{ id := p.nextId, ready := false, poison := false, fromV := false, data := 0 }], nextId := p.nextId + 1 }))) = .ok (cs, w)) ∧
    (∃ xv w0 w1 cs w, (memState.slotView 0 0 (.ldg (mem2 .b16) 3)).alloc 3 false memState.blank = .ok (((memState.context 0 0).port 3).nextId, w0) ∧
      (memState.slotView 0 0 (.ldg (mem2 .b16) 3)).pop 4 w0 = .ok (xv, w1) ∧
      xlatPieces (memState.slotView 0 0 (.ldg (mem2 .b16) 3)) .read [(0x1000, 2)] w1 = .ok (cs, w) ∧ xv = 0) ∧
    (∃ v w1 cs w, (memState.slotView 0 0 (.stv (mem2 .b32) 3)).pop 3 memState.blank = .ok (v, w1) ∧
      xlatPieces (memState.slotView 0 0 (.stv (mem2 .b32) 3)) .write [(0x1000, 4)] w1 = .ok (cs, w)) ∧
    (∃ xv v w1 w2 cs w, (memState.slotView 0 0 (.sts (mem2 .b16) 3)).pop 3 memState.blank = .ok (v, w1) ∧
      (memState.slotView 0 0 (.sts (mem2 .b16) 3)).pop 4 w1 = .ok (xv, w2) ∧ xlatPieces (memState.slotView 0 0 (.sts (mem2 .b16) 3)) .write [(0x1000, 2)] w2 = .ok (cs, w)) ∧
    (let s := at0 { lane0 with ports := [(3, filled1 2 3 true)] } c0
     ∃ xv v w1 w2 cs w, ((s.context 0 0).port 3).idx = 3 ∧ (s.slotView 0 0 (.sts (mem2 .b16) 3)).pop 3 s.blank = .ok (xv, w1) ∧
      (s.slotView 0 0 (.sts (mem2 .b16) 3)).pop 3 w1 = .ok (v, w2) ∧ xlatPieces (s.slotView 0 0 (.sts (mem2 .b16) 3)) .write [(0x1000, 2)] w2 = .ok (cs, w)) :=
  ⟨by decide, ⟨_, _, rfl⟩, ⟨_, _, _, _, _, rfl, rfl, rfl, rfl⟩, ⟨_, _, _, _, rfl, rfl⟩, ⟨_, _, _, _, _, _, rfl, rfl, rfl⟩, ⟨_, _, _, _, _, _, rfl, rfl, rfl, rfl⟩⟩

theorem witness_BufferRowsAndHints :
    (memState.issuing 0 0 = true ∧ (memState.context 0 0).on 0 = true ∧ (memState.context 0 0).readyA 1 = true ∧ legal (.ldb (mem1 .b8) .wb 3) = true ∧
      legal (.stb (mem1 .b8) .ab 3) = true ∧ (addressOf (memState.context 0 0) (mem1 .b8)).toNat % 64 = 0 ∧
      clear memState 0 0 (.ldb (mem1 .b8) .wb 3) (bufSpace .wb) [(0x1000, 1024)] = true ∧
      clear memState 0 0 (.stb (mem1 .b8) .ab 3) (bufSpace .ab) [(0x1000, 1024)] = true ∧ spills (memState.context 0 0) 1 [(0x1000, 1024)] = false) ∧
    (let m : AMem := { mem1 .b8 with b := 14 }
     let s := at0 { runs with a := [(14, 0x1000)], splim := 0x1000 } c0
     s.issuing 0 0 = true ∧ (s.context 0 0).readyA 14 = true ∧ (addressOf (s.context 0 0) m).toNat % 64 = 0 ∧
       spills (s.context 0 0) 14 [((addressOf (s.context 0 0) m).toNat, 1024)] = true ∧ legal (.ldb m .wb 3) = true ∧ legal (.baste m) = true) ∧
    (memState.slotView 0 0 (.ldb (mem1 .b8) .wb 3)).portAlloc 3 = .ok () ∧
    (∃ v w1, (memState.slotView 0 0 (.stb (mem1 .b8) .ab 3)).pop 3 memState.blank = .ok (v, w1)) ∧
    (let s := at0 { runs with a := [(1, 0xFFFC01)] } c0
     (addressOf (s.context 0 0) (mem1 .b8)).toNat % 64 ≠ 0 ∧ s.issuing 0 0 = true) ∧
    (let s := at0 { runs with a := [(1, 0xFFFC40)] } c0
     (addressOf (s.context 0 0) (mem1 .b8)).toNat % 64 = 0 ∧ 0xFFFC00 < (addressOf (s.context 0 0) (mem1 .b8)).toNat ∧ s.issuing 0 0 = true) ∧
    (legal (.baste (mem1 .b8)) = true ∧ (memState.cluster 0).acbase.getLsbD 0 = false ∧ (memState.cluster 0).marked 0 0x1000 1024 = false) ∧
    (let s : State := { State.reset with clusters := [(0, { c0 with ctx := [(0, lane0)] })] }
     s.issuing 0 0 = true ∧ (match (s.xlatRange 0 0x1000 1024 .read false true).1 with | .error _ => true | .ok _ => false) = true) :=
  ⟨by decide, by decide, rfl, ⟨_, _, rfl⟩, by decide, by decide, by decide, by decide +kernel⟩

theorem witness_LocalAtomics :
    let f : AmoF := { g := 0, b := 1, w := .b32, ord := .plain, scope := 0, off := 0, d := 5, v := 6, c := 0 }
    ∃ ch w, legal (.amoAdd f) = true ∧ memState.issuing 0 0 = true ∧ (memState.context 0 0).on 0 = true ∧ (memState.context 0 0).readyA 1 = true ∧
      (memState.context 0 0).readyS 6 = true ∧ (memState.context 0 0).readyS 0 = true ∧ (memState.context 0 0).freeS 5 = true ∧
      clear memState 0 0 (.amoAdd f) 0 [(0x1000, 4)] = true ∧ ((memState.context 0 0).areg f.b + f.off.signExtend 64).toNat = 0x1000 ∧
      translated memState 0 0 (.amoAdd f) .write [(((memState.context 0 0).areg f.b + f.off.signExtend 64).toNat, 4)] [[ch]] w ∧
      spills (memState.context 0 0) 1 [(0x1000, 4)] = false ∧ (memState.cluster 0).cmds = [] ∧ (memState.cluster 0).heldWrites = [] ∧
      (memState.cluster 0).acbase.getLsbD 0 = false ∧ memState.lags = [] :=
  ⟨_, _, by decide, by decide, by decide, by decide, by decide, by decide, by decide, by decide, by decide, rfl, by decide, by decide, by decide, by decide, by decide⟩

theorem witness_FencesAndInvalidation :
    (memState.issuing 0 0 = true ∧ (memState.context 0 0).on 0 = true ∧ legal (.fence 0 .rel 9) = true ∧ legal (.fence 0 .acq 1) = true ∧
      (memState.cluster 0).cmds = [] ∧ (memState.cluster 0).heldWrites = [] ∧ (memState.context 0 0).loadAt ≤ (memState.cluster 0).clk) ∧
    (let s := at0 { lane0 with loadAt := 5 } c0
     s.issuing 0 0 = true ∧ (s.cluster 0).clk < (s.context 0 0).loadAt) ∧
    (let i := Instr.waitm 0 1 .b32 false 0 0 5 .eq
     ∃ cs w, legal i = true ∧ (memState.context 0 0).readyA 1 = true ∧ (memState.context 0 0).readyS 5 = true ∧
      clear memState 0 0 i 0 [(0x1000, 4)] = true ∧ translated memState 0 0 i .read [(0x1000, 4)] cs w ∧ unheld memState 0 0 i false cs = true ∧
      (w.st.cluster 0).chunksBad cs.flatten = false ∧ condHolds 32 .eq (leNat ((w.st.cluster 0).readChunks cs.flatten)) 0 = true ∧
      condHolds 32 .ne (leNat ((w.st.cluster 0).readChunks cs.flatten)) 0 = false) ∧
    (handler.issuing 0 0 = true ∧ (handler.context 0 0).h = true ∧ (handler.context 0 0).on 0 = true ∧ (handler.context 0 0).readyA 3 = true ∧
      legal (.tlbinv 0 3 0) = true ∧ legal (.tlbinvAll 0) = true ∧ legal (.tlbinvAsid 0 7) = true) :=
  ⟨by decide, by decide, ⟨_, _, by decide, by decide, by decide, by decide, rfl, by decide, by decide, by decide +kernel, by decide +kernel⟩, by decide⟩

theorem witness_PortsAndGenerators :
    (memState.slotView 0 0 (.padv 0 3 1)).portRead 3 = .ok () ∧
    (memState.issuing 0 0 = true ∧ (memState.context 0 0).on 0 = true ∧ legal (.pcfg 0 2 16 0 false) = true ∧ legal (.pcfg 0 2 0 0 false) = true ∧
      (((List.range 12).filter (fun q => decide (q ≠ 2))).map (fun q => ((memState.context 0 0).port q).depth)).foldl (· + ·) 0 + 16 ≤ 32 ∧
      legal (.padv 0 3 1) = true ∧ legal (.pwaitFill 0 3 2) = true ∧
      (memState.context 0 0).portOn 3 = true ∧ 2 ≤ (memState.context 0 0).fill 3 ∧ legal (.pwaitFree 0 3 6) = true ∧ 6 ≤ (memState.context 0 0).room 3 ∧
      (memState.context 0 0).room 3 < 7 ∧ 7 ≤ (memState.context 0 0).depth 3 ∧ legal (.pwaitFree 0 3 7) = true ∧ legal (.pwaitFill 0 12 1) = true ∧
      (memState.context 0 0).fill 12 < 1 ∧ (memState.context 0 0).portOn 12 = true) ∧
    (let s := at0 { runs with ports := [(3, { filled1 0 0 false with depth := 30 })] } c0
     s.issuing 0 0 = true ∧ 32 < (((List.range 12).filter (fun q => decide (q ≠ 2))).map (fun q => ((s.context 0 0).port q).depth)).foldl (· + ·) 0 + 4 ∧
       legal (.pcfg 0 2 4 0 false) = true ∧ legal (.agset 0 3 4 0) = true ∧ ((s.context 0 0).port 3).on = true ∧ ((s.context 0 0).port 3).entries = [] ∧
       ({ active := true, start := (s.context 0 0).areg 4, counts := (s.context 0 0).areg 5, strides := (s.context 0 0).areg 6, s0 := 0, since := 1, asked := 0, taken := 0 } : Gen).good = true ∧
       (s.context 0 0).readyA 4 = true ∧ (s.context 0 0).readyA 5 = true ∧ (s.context 0 0).readyA 6 = true) ∧
    (legal (.agset 0 9 4 0) = true ∧ ((memState.context 0 0).port 9).on = false ∧ legal (.agsetDetach 0 9) = true ∧ legal (.agsetDetach 0 3) = true) := ⟨rfl, by decide⟩

/-- Ports in every state that a read or a claim meets: empty, with a load's entry, with a vector result's, with a poisoned head, full, walking, off. -/
def portOf (es : List PEntry) : Port := { filled1 0 0 false with entries := es }
def loadEntry : PEntry := { id := 0, ready := false, poison := false, fromV := false, data := 0 }
def waitPorts : State :=
  at0 { lane0 with ports := [(1, portOf []), (2, portOf [loadEntry]), (3, portOf [{ loadEntry with fromV := true }]), (4, portOf [{ loadEntry with ready := true, poison := true }]),
                             (5, { portOf [loadEntry] with depth := 1 }), (6, { portOf [] with gen := { Gen.off with active := true } })] } c0

theorem witness_PortWaits :
    let x := waitPorts.context 0 0
    (waitPorts.issuing 0 0 = true ∧ x.on 2 = true ∧ legal (.stv (mem2 .b32) 1) = true ∧ portReadRow (.stv (mem2 .b32) 1) = some (2, 1, 1) ∧
      legal (.ldv (mem2 .b32) 5) = true ∧ portClaimRow (.ldv (mem2 .b32) 5) = some (2, 5) ∧ legal (.padv 0 1 2) = true ∧ portReadRow (.padv 0 1 2) = some (0, 1, 2)) ∧
    (∀ r, addressPasses x (.stv (mem2 .b32) r)) ∧ (∀ r, addressPasses x (.ldv (mem2 .b32) r)) ∧
    (x.portOn 9 = false ∧ x.portOn 1 = true ∧ x.fill 1 + x.pend 1 + (x.port 1).gen.left < 1) ∧
    (x.fill 2 < 1 ∧ 1 ≤ x.fill 2 + x.pend 2 + (x.port 2).gen.left ∧ ((x.port 2).entries.take 1).any (fun e => !e.ready && e.fromV) = false) ∧
    (x.fill 3 < 1 ∧ 1 ≤ x.fill 3 + x.pend 3 + (x.port 3).gen.left ∧ ((x.port 3).entries.take 1).any (fun e => !e.ready && e.fromV) = true) ∧
    (x.portOn 12 = true ∧ x.fill 12 < 1 ∧ legal (.stv (mem2 .b32) 12) = true) ∧
    (1 ≤ x.fill 4 ∧ ∃ e l, (x.port 4).entries = e :: l ∧ e.poison = true) ∧
    ((x.port 6).gen.active = true ∧ (x.port 5).on = true ∧ (x.port 5).gen.active = false ∧ x.room 5 = 0) := by
  refine ⟨by decide, fun _ => by simp only [addressPasses]; decide, fun _ => by simp only [addressPasses]; decide, by decide, by decide, by decide, by decide,
    ⟨by decide, _, _, rfl, rfl⟩, by decide⟩

theorem witness_VectorMoveFaults :
    (let s := at0 { lane0 with a := [(1, 0x1001)] } c0
     s.issuing 0 0 = true ∧ legal (.ldv (mem2 .b32) 3) = true ∧ legal (.sts (mem2 .b16) 3) = true ∧ (s.context 0 0).readyA 1 = true ∧ (s.context 0 0).readyP 2 = true ∧
       (s.context 0 0).preg 2 ≠ 0 ∧ (addressOf (s.context 0 0) (mem2 .b32)).toNat % 64 ≠ 0 ∧ (addressOf (s.context 0 0) (mem2 .b16)).toNat % 2 ≠ 0) ∧
    (let m : AMem := { mem2 .b32 with b := 14 }
     let s := at0 { lane0 with a := [(14, 0x1000)], splim := 0x1000 } c0
     (addressOf (s.context 0 0) m).toNat % 64 = 0 ∧ spills (s.context 0 0) 14 (laneWords (s.context 0 0) m) = true ∧ s.issuing 0 0 = true ∧
       ((s.context 0 0).port 9).on = false ∧ ((s.context 0 0).port 4).idxv = false) ∧
    (let m : AMem := { mem2 .b32 with b := 14 }
     let s := at0 { lane0 with a := [(14, 0x1000)], splim := 0x1000 } c0
     ∃ a w0 xv w1, legal (.ldg m 3) = true ∧ ((s.context 0 0).port 3).on = true ∧ ((s.context 0 0).port 3).idxv = true ∧
       (s.slotView 0 0 (.ldg m 3)).alloc 3 false s.blank = .ok (a, w0) ∧ (s.slotView 0 0 (.ldg m 3)).pop 4 w0 = .ok (xv, w1) ∧ xv = 0 ∧
       spills (s.context 0 0) 14 [((addressOf (s.context 0 0) m).toNat, 4)] = true) ∧
    (let m : AMem := { mem2 .b32 with b := 14 }
     let s := at0 { lane0 with a := [(14, 0x1000)], splim := 0x1000 } c0
     ∃ v w1 xv w2, legal (.sts m 3) = true ∧ ((s.context 0 0).port 3).idx ≠ 3 ∧ (s.slotView 0 0 (.sts m 3)).pop 3 s.blank = .ok (v, w1) ∧
       (s.slotView 0 0 (.sts m 3)).pop 4 w1 = .ok (xv, w2) ∧ xv = 0) :=
  ⟨by decide, by decide, ⟨_, _, _, _, by decide, by decide, by decide, rfl, rfl, rfl, by decide⟩, ⟨_, _, _, _, by decide, by decide, rfl, rfl, rfl⟩⟩

/-- A table of five levels at 0x100000 whose fifth holds one leaf, for the page of 0x3000; and a core that accesses it. -/
def walkTable : List Host.Cell :=
  [(0x100000, 1), (0x100001, 0x10), (0x100002, 0x10), (0x101000, 1), (0x101001, 0x20), (0x101002, 0x10), (0x102000, 1), (0x102001, 0x30), (0x102002, 0x10),
    (0x103000, 1), (0x103001, 0x40), (0x103002, 0x10)]
/-- The leaf of frame 0x200 that lets everything but a fetch through, and one that is not valid. -/
def leaf0 : List Host.Cell := [(0x104018, 0x0B), (0x104019, 8), (0x10401A, 0x20)]
def walks (leaf : List Host.Cell) (wr : BitVec 32) : State :=
  { State.reset with clusters := [(0, { c0 with ctx := [(0, { runs with a := [(1, 0x3120)] })], ptbase := 0x100000, asid := 7, mem := walkTable ++ leaf, frbase := 0x800003, frWr := wr })] }
/-- The entries that a walk to the page reads. -/
def walked (leaf : Word) : List (Nat × Word) := [(0x100000, 0x101001), (0x101000, 0x102001), (0x102000, 0x103001), (0x103000, 0x104001)] ++ [(0x104018, leaf)]

theorem walkReads_cons {c : Cluster} {k va level table at_ : Nat} {p : Word} {t : List (Nat × Word)}
    (ha : at_ = table + 8 * (if level = 1 then va / 2 ^ 48 % 256 else va / 2 ^ (12 + 9 * (5 - level)) % 512)) (hp : p = BitVec.ofNat 64 (leNat (c.l2Bytes at_ 8)))
    (hg : p.getLsbD 0 = true ∧ p.getLsbD 11 = false ∧ level ≠ 5 ∧ frameOf p / 2 ^ 22 = k ∧ frameOf p * 4096 % 2 ^ 34 + 4096 ≤ Config.metaBase)
    (ht : walkReads c k va (level + 1) (frameOf p * 4096 % 2 ^ 34) t) : walkReads c k va level table ((at_, p) :: t) := by
  obtain ⟨h0, h11, h5, hk, hm⟩ := hg
  refine ⟨ha, hp, fun _ => ⟨h0, h11, ?_, ht⟩⟩
  simp only [badEntry, strayFrame, h11, Bool.false_eq_true, if_false, h5, hk, ne_eq, not_true_eq_false, false_or]
  omega

theorem witness_PageTranslation :
    (∀ n ∈ [leaf0, []], let c := (walks n 0).cluster 0
      c.tlb1 = [] ∧ c.tlb2 = [] ∧ c.ptrs = [] ∧ c.dirty = [] ∧ c.acbase.getLsbD 0 = false ∧ ¬ strayFrame 0 (c.ptbase.toNat / 2 ^ 12 % 2 ^ 28) 4096) ∧
    walkReads ((walks leaf0 0).cluster 0) 0 0x3120 1 0x100000 (walked 0x20080B) ∧ walkReads ((walks [] 0).cluster 0) 0 0x3120 1 0x100000 (walked 0) ∧
    (let p : Word := 0x20080B
     p.getLsbD 0 = true ∧ ¬ badEntry 0 5 p ∧ p.getLsbD 11 = true ∧ p.getLsbD 8 = false ∧ accessCause p .write false = 0 ∧ accessCause p .fetch false = 4 ∧
       accessCause (p - 8) .read false = 3 ∧ badEntry 0 5 (p - 0x800) ∧ strayFrame 0 (2 ^ 22) 4096) ∧
    (page.asid.toNat = (base.cluster 0).asid.toNat % 2 ^ 16 ∧ (5 : Nat) / 2 ^ page.bits = page.base / 2 ^ page.bits ∧ accessCause page.leaf .write false = 0 ∧
      page.leaf.getLsbD 10 = true ∧ (base.cluster 0).tlb1 = [] ++ page :: []) := by
  refine ⟨?_, ?_, ?_, ?_, by decide +kernel⟩
  · unfold strayFrame
    decide +kernel
  · refine walkReads_cons ?_ ?_ ?_ (walkReads_cons ?_ ?_ ?_ (walkReads_cons ?_ ?_ ?_ (walkReads_cons ?_ ?_ ?_ ⟨?_, ?_, fun h => absurd rfl h⟩))) <;> decide +kernel
  · refine walkReads_cons ?_ ?_ ?_ (walkReads_cons ?_ ?_ ?_ (walkReads_cons ?_ ?_ ?_ (walkReads_cons ?_ ?_ ?_ ⟨?_, ?_, fun h => absurd rfl h⟩))) <;> decide +kernel
  · simp only [badEntry, strayFrame]
    decide +kernel

/-- An access above the addresses that a table maps, with a fault ring of eight entries. -/
def beyond (wr : BitVec 32) : State :=
  { State.reset with clusters := [(0, { c0 with ctx := [(0, { runs with a := [(1, BitVec.ofNat 64 (2 ^ 56))] })], frbase := 0x800003, frWr := wr })] }

theorem witness_AccessFaults :
    ∀ wr ∈ [0, 8], let s := beyond (BitVec.ofNat 32 wr)
      s.issuing 0 0 = true ∧ legal (.ld (mem1 .b64) (.s 5)) = true ∧ legal (.st (mem1 .b64) (.s 5)) = true ∧ (s.context 0 0).on 0 = true ∧ (s.context 0 0).readyA 1 = true ∧
        (s.context 0 0).mode = false ∧ (s.context 0 0).freeS 5 = true ∧ (s.context 0 0).readyS 5 = true ∧
        (addressOf (s.context 0 0) (mem1 .b64)).toNat = 2 ^ 56 ∧ spills (s.context 0 0) 1 [(2 ^ 56, 8)] = false ∧ clear s 0 0 (.ld (mem1 .b64) (.s 5)) 0 [(2 ^ 56, 8)] = true ∧
        (match s.xlatRange 0 (2 ^ 56) 8 .read false true with
         | (.error (1, 1, _), st) => (st.cluster 0).faults.isEmpty && (st.cluster 0).frWr == BitVec.ofNat 32 wr && (st.cluster 0).frbase == 0x800003
         | _ => false) = true := by decide +kernel

/-! Witnesses: the V slots. -/

/-- Two sources from queue entries, a named destination, every lane. -/
def vf : VF := { slot := .v0, g := 0, d := 0x40, s1 := 0, s2 := 1, s3 := 0, ty := 0, rnd := 0, ftz := false, peek := false, need := 0, imm := 0 }
/-- The same with one source. -/
def v1f : VF := { vf with s2 := 0 }
/-- Ports to read and to fill. -/
def vx : Context := { runs with p := [(2, 1)], ports := [(3, filled1 2 0 false)] }
def vState : State := at0 vx c0

theorem witness_VectorIssueCompletes :
    (∃ srcs L scs ps, vectorRow (.vadd vf) = some (vf, srcs, L, scs, ps) ∧ vectorReady base 0 0 (.vadd vf) vf srcs scs ps) ∧
    (let f : VF := { vf with g := 2, d := 0x13, s1 := 0x13, s2 := 0xC1 }
     ∃ srcs L scs ps, vectorRow (.vadd f) = some (f, srcs, L, scs, ps) ∧ vectorReady vState 0 0 (.vadd f) f srcs scs ps ∧
       ((vState.context 0 0).preg f.g).getLsbD 255 = false ∧ ((vState.context 0 0).preg f.g).getLsbD 0 = true) :=
  ⟨⟨_, _, _, _, rfl, by decide, by decide, by decide, by decide, by decide, by decide, by decide, by decide, fun h => absurd h (by decide), fun ⟨_, h⟩ => nomatch h⟩,
   ⟨_, _, _, _, rfl, ⟨by decide, by decide, by decide, by decide, by decide, by decide, by decide, by decide, fun _ => rfl, fun ⟨_, h⟩ => nomatch h⟩, by decide, by decide⟩⟩

theorem witness_VectorResults :
    (∃ srcs L scs ps h, vectorRow (.vmulh vf) = some (vf, srcs, L, scs, ps) ∧ integerRow (.vmulh vf) = some (vf, h) ∧ vectorReady base 0 0 (.vmulh vf) vf srcs scs ps) ∧
    (let f : VF := { vf with s2 := 0xC1 }
     ∃ srcs L scs ps h, vectorRow (.vbcast f) = some (f, srcs, L, scs, ps) ∧ moveRow (base.context 0 0) (.vbcast f) = some (f, h) ∧ vectorReady base 0 0 (.vbcast f) f srcs scs ps) :=
  ⟨⟨_, _, _, _, _, rfl, rfl, by decide, by decide, by decide, by decide, by decide, by decide, by decide, by decide, fun h => absurd h (by decide), fun ⟨_, h⟩ => nomatch h⟩,
   ⟨_, _, _, _, _, rfl, rfl, by decide, by decide, by decide, by decide, by decide, by decide, by decide, by decide, fun h => absurd h (by decide), fun ⟨_, h⟩ => nomatch h⟩⟩

theorem witness_VectorComparesAndReductions :
    (let f : VF := { vf with imm := 0x22 }
     ∃ srcs L scs ps h d, vectorRow (.vcmp f) = some (f, srcs, L, scs, ps) ∧ compareRow (base.context 0 0) (.vcmp f) = some (f, h, d) ∧ vectorReady base 0 0 (.vcmp f) f srcs scs ps ∧
       immE f ≠ 0) ∧
    vectorReady base 0 0 (.vred v1f) v1f [v1f.s1] [] [] ∧ vectorReady base 0 0 (.vscan v1f) v1f [v1f.s1] [] [] ∧ vectorReady base 0 0 (.vsort v1f) v1f [v1f.s1] [] [] ∧
    (vectorReady base 0 0 (.vsegsum vf) vf [vf.s1, vf.s2] [] [] ∧ vf.ty ≠ 6 ∧ vf.imm = 0) :=
  ⟨⟨_, _, _, _, _, _, rfl, rfl, ⟨by decide, by decide, by decide, by decide, by decide, by decide, by decide, by decide, fun h => absurd h (by decide), fun ⟨_, h⟩ => nomatch h⟩, by decide⟩,
   ⟨by decide, by decide, by decide, by decide, by decide, by decide, by decide, by decide, fun h => absurd h (by decide), fun ⟨_, h⟩ => nomatch h⟩,
   ⟨by decide, by decide, by decide, by decide, by decide, by decide, by decide, by decide, fun h => absurd h (by decide), fun ⟨_, h⟩ => nomatch h⟩,
   ⟨by decide, by decide, by decide, by decide, by decide, by decide, by decide, by decide, fun h => absurd h (by decide), fun ⟨_, h⟩ => nomatch h⟩,
   ⟨by decide, by decide, by decide, by decide, by decide, by decide, by decide, by decide, fun h => absurd h (by decide), fun ⟨_, h⟩ => nomatch h⟩, by decide, by decide⟩

theorem witness_VectorFloatingResult :
    (let f : VF := { vf with ty := 6 }
     ∃ srcs L scs ps h, vectorRow (.vfadd f) = some (f, srcs, L, scs, ps) ∧ floatingRow (.vfadd f) = some (f, h) ∧ vectorReady base 0 0 (.vfadd f) f srcs scs ps) ∧
    (let f : VF := { v1f with ty := 9 }
     ∃ srcs L scs ps w h, vectorRow (.vbmax f) = some (f, srcs, L, scs, ps) ∧ scaledRow (base.context 0 0) (base.cluster 0).latch (.vbmax f) = some (f, w, h) ∧
       vectorReady base 0 0 (.vbmax f) f srcs scs ps) ∧
    (let f : VF := { v1f with ty := 6 }
     vectorReady base 0 0 (.vfred f) f [f.s1] [] [] ∧ vectorReady base 0 0 (.vfscan f) f [f.s1] [] []) :=
  ⟨⟨_, _, _, _, _, rfl, rfl, by decide, by decide, by decide, by decide, by decide, by decide, by decide, by decide, fun h => absurd h (by decide), fun ⟨_, h⟩ => nomatch h⟩,
   ⟨_, _, _, _, _, _, rfl, rfl, by decide, by decide, by decide, by decide, by decide, by decide, by decide, by decide, fun h => absurd h (by decide), fun ⟨_, h⟩ => nomatch h⟩,
   ⟨by decide, by decide, by decide, by decide, by decide, by decide, by decide, by decide, fun h => absurd h (by decide), fun ⟨_, h⟩ => nomatch h⟩,
   ⟨by decide, by decide, by decide, by decide, by decide, by decide, by decide, by decide, fun h => absurd h (by decide), fun ⟨_, h⟩ => nomatch h⟩⟩

theorem witness_ExactArithmetic :
    (∃ f ∈ formats, f.finite 1 = true) ∧
    (∃ a b d x y z, Ex.rat a = some x ∧ Ex.rat b = some y ∧ Ex.rat d = some z) ∧
    (∀ b, (Ex.fin false 3 0 false).stands b 3) ∧ (Ex.fin true (2 ^ 25) 0 true).stands (fF32.man + 2) (-33554432.5) ∧
    fF32.finite 0x3F800000 = true ∧ (fF32.decode 0x3F800000).rat = some 1 :=
  ⟨⟨_, List.mem_cons_self .., by decide⟩, ⟨.fin false 3 0 false, .fin true 5 (-1) false, .fin false 0 0 false, _, _, _, rfl, rfl, rfl⟩,
   fun _ => by simp [Ex.stands], by norm_num [Ex.stands, fF32, abs_lt, abs_of_neg], by decide, by
     rw [show fF32.decode 0x3F800000 = .fin false 8388608 (-23) false by decide]
     norm_num [Ex.rat]⟩

/-- A transpose engine of 32-bit elements that closes its tile with the second row. -/
def pleat0 : Pleat := { Pleat.off with on := true, h := 2 }

theorem witness_PleatPushes :
    (let s := at0 { runs with pleat := pleat0 } c0
     vectorReady s 0 0 (.vxpush v1f) v1f [v1f.s1] [] [] ∧ (s.context 0 0).pleat.filling.length + 1 < (s.context 0 0).pleat.h) ∧
    (let s := at0 { runs with pleat := { pleat0 with filling := [5] } } c0
     vectorReady s 0 0 (.vxpush v1f) v1f [v1f.s1] [] [] ∧ (s.context 0 0).pleat.h ≤ (s.context 0 0).pleat.filling.length + 1) ∧
    (legal (.vxpush v1f) = true ∧ base.issuing 0 0 = true ∧ (base.context 0 0).readyP v1f.g = true ∧ (base.context 0 0).preg v1f.g ≠ 0 ∧
      sourceReady base 0 0 (.vxpush v1f) v1f.s1 = true ∧ isPort v1f.d = false ∧ (base.context 0 0).pleat.on = false) ∧
    (let f : VF := { v1f with ty := 7, g := 1, imm := 6 }
     legal (.vcvts f) = true ∧ (base.context 0 0).readyP f.g = true ∧ (base.context 0 0).preg f.g = 0) :=
  ⟨⟨⟨by decide, by decide, by decide, by decide, by decide, by decide, by decide, by decide, fun h => absurd h (by decide), fun _ => by decide⟩, by decide⟩,
   ⟨⟨by decide, by decide, by decide, by decide, by decide, by decide, by decide, by decide, fun h => absurd h (by decide), fun _ => by decide⟩, by decide⟩, by decide, by decide⟩

theorem witness_PowersLogarithmsSigmoids :
    fF32 ∈ formats ∧ fF32.finite 0x3F000000 = true ∧ (fF32.decode 0x3F000000).rat = some (1 / 2) ∧ fF32.finite 0x46000000 = true ∧ (fF32.decode 0x46000000).rat = some (2 ^ 13) ∧
      fF32.finite 0 = true ∧ (fF32.decode 0).rat = some 0 := by
  refine ⟨by decide, by decide, ?_, by decide, ?_, by decide, ?_⟩
  · rw [show fF32.decode 0x3F000000 = .fin false 8388608 (-24) false by decide]
    norm_num [Ex.rat]
  · rw [show fF32.decode 0x46000000 = .fin false 8388608 (-10) false by decide]
    norm_num [Ex.rat]
  · rw [show fF32.decode 0 = .fin false 0 (-149) false by decide]
    norm_num [Ex.rat]

/-! Witnesses: the E slot. -/

def ef : EF := { g := 0, kp := 3, ka := 4, kb := 0, kc := 0 }
/-- A Token whose one command is 7. -/
def busyTok : Token := { Token.free with st := .pending, count := 1, seq := 1, cmds := [7] }
def rf : RF := { e := ef, n := 1, b := 4, order := .plain, ord := false, scope := 0, s := 0 }
def raf : RaF := { e := ef, n := 1, d := 5, a := 6, x := 1, w := false, order := .plain, scope := 0, ord := false }
/-- A memory window of the cluster, and one of messages. -/
def sel0 (kind : Nat) : Sel :=
  { win := 9, desc := BitVec.ofNat 512 (2 ^ 132 * kind + 2 ^ 134), ep := .closed, fgen := 0, marks := [], nextMarks := [], held := [], fence := none, posted := [],
    holders := [], waiters := [] }
/-- A transfer of 64 bytes from 0x2000 to offset 128 of window 9 of peer 2. -/
def sends : State := at0 { runs with a := [(4, 0x2000), (5, 0x80009002), (6, 64)], s := [(6, 0x80009002)] } c0

theorem witness_EngineCommands :
    (∃ eng e rs regs al q, commandRow (base.context 0 0) (.wexpose ef 9 4) = some (eng, e, rs, regs, al, q) ∧ legal (.wexpose ef 9 4) = true ∧ base.issuing 0 0 = true ∧
      (base.context 0 0).on e.g = true ∧ rs.all (base.context 0 0).readyA = true ∧ (∀ a n, al = some (a, n) → a.toNat % n = 0) ∧
      noRoom (base.cluster 0) 0 eng (.wexpose ef 9 4) q = false) ∧
    (∃ eng e rs regs al q, commandRow (base.context 0 0) (.mxgo ef 1) = some (eng, e, rs, regs, al, q) ∧ legal (.mxgo ef 1) = true ∧
      noRoom { c0 with cmds := List.replicate 32 { cmd0 .matrix (.mxgo ef 1) with queued := true, started := false } } 0 eng (.mxgo ef 1) q = true) ∧
    (let s := at0 { runs with a := [(4, 32)] } c0
     ∃ eng e rs regs a n q, commandRow (s.context 0 0) (.chq ef 0 4 false 0) = some (eng, e, rs, regs, some (a, n), q) ∧ legal (.chq ef 0 4 false 0) = true ∧
      s.issuing 0 0 = true ∧ a.toNat % n ≠ 0) ∧
    (legal (.tjoin ef) = true ∧ base.issuing 0 0 = true ∧ (base.context 0 0).on ef.g = true ∧ ((base.context 0 0).tok 3).st ≠ .pending) ∧
    (let s := at0 { runs with toks := [(4, busyTok)] } c0
     s.issuing 0 0 = true ∧ ((s.context 0 0).tok 4).st = .pending ∧ ((s.context 0 0).tok 4).cmds.isEmpty = false) :=
  ⟨⟨_, _, _, _, _, _, rfl, by decide, by decide, by decide, by decide, (fun a n h => by cases h; decide), by decide⟩, ⟨_, _, _, _, _, _, rfl, by decide, by decide⟩,
   ⟨_, _, _, _, _, _, _, rfl, by decide, by decide, by decide⟩, by decide, by decide⟩

theorem witness_RemoteCommandsIssue :
    (transferRow (.put rf) = some (rf, false, 0) ∧ legal (.put rf) = true ∧ legal (.get rf) = true ∧ legal (.acc rf) = true ∧ sends.issuing 0 0 = true ∧
      (sends.context 0 0).on 0 = true ∧ (sends.context 0 0).readyA 4 = true ∧ (sends.context 0 0).readyA 5 = true ∧ (sends.context 0 0).readyA 6 = true ∧
      ((sends.context 0 0).areg 6).toNat % 4 = 0 ∧ ((sends.context 0 0).areg 6).toNat ≠ 0 ∧ ((sends.context 0 0).areg 6).toNat < 2 ^ 24 ∧
      ((sends.context 0 0).areg 5).toNat / 2 ^ 24 % 4 = 0 ∧ (sends.cluster 0).acquiring 0 = [] ∧ (sends.cluster 0).atomicsUnder 0 1 = false) ∧
    (∃ cs st, sends.xlatRange 0 0x2000 64 .read false true = (.ok cs, st) ∧ noRoom (st.cluster 0) 0 .network (.put rf) true = false) ∧
    (legal (.ramo raf) = true ∧ (∃ rs vs, remoteAtomicRow (sends.context 0 0) (.ramo raf) = some (raf, rs, vs) ∧ rs.all (sends.context 0 0).readyS = true) ∧
      (sends.context 0 0).readyS 6 = true ∧ (sends.context 0 0).freeS 5 = true ∧ ((sends.context 0 0).sreg 6).toNat / 2 ^ 24 % 8 = 0 ∧
      ((sends.context 0 0).hnd 1).st.pending = false ∧ noRoom (sends.cluster 0) 0 .network (.ramo raf) true = false) ∧
    legal (.ramo { raf with w := true }) = false ∧
    (let s := at0 { runs with hnds := [(1, { Handle.free with st := .issued, left := 1 })] } c0
     ((s.context 0 0).hnd 1).st.pending = true ∧ s.issuing 0 0 = true) :=
  ⟨by decide, ⟨_, _, rfl, by decide⟩, ⟨by decide, ⟨_, _, rfl, by decide⟩, by decide, by decide, by decide, by decide, by decide⟩, by decide, by decide⟩

theorem witness_EpochInstructions :
    (let s := at0 runs { c0 with sel := [sel0 0] }
     epochRow (s.cluster 0) (s.context 0 0) (.wfence ef 9 0) = some (ef, [], none) ∧ legal (.wfence ef 9 0) = true ∧ s.issuing 0 0 = true ∧ (s.context 0 0).on 0 = true ∧
       noRoom (s.cluster 0) 0 .network (.wfence ef 9 0) true = false ∧ epochRow (s.cluster 0) (s.context 0 0) (.wwait ef 9) = some (ef, [], some cILLEGAL)) ∧
    (let s := at0 { runs with a := [] } { c0 with sel := [sel0 1] }
     epochRow (s.cluster 0) (s.context 0 0) (.wpost ef 9 5) = some (ef, [5], none) ∧ legal (.wpost ef 9 5) = true ∧ (s.context 0 0).readyS 5 = true) ∧
    (epochRow (base.cluster 0) (base.context 0 0) (.wfence ef 9 0) = some (ef, [], some cWINDOW) ∧
      epochRow (base.cluster 0) (base.context 0 0) (.wlock ef 9 5 false) = some (ef, [5], none) ∧
      epochRow (base.cluster 0) (base.context 0 0) (.wunlock ef 9 5) = some (ef, [5], some cILLEGAL) ∧
      epochRow (base.cluster 0) (base.context 0 0) (.wcomplete ef 9) = some (ef, [], some cILLEGAL)) ∧
    (let s := at0 { runs with epochs := [(0x100, 0, 7, false)] } c0
     s.issuing 0 0 = true ∧ (s.context 0 0).epochs.find? (fun p => decide (p.1 = (s.context 0 0).pc ∧ p.2.1 = 0)) = some ((s.context 0 0).pc, 0, 7, false)) ∧
    (let s := at0 { runs with epochs := [(0x100, 0, 7, true)] } c0
     s.issuing 0 0 = true ∧ (s.context 0 0).epochs.find? (fun p => decide (p.1 = (s.context 0 0).pc ∧ p.2.1 = 0)) = some ((s.context 0 0).pc, 0, 7, true)) :=
  ⟨by decide, by decide, by decide, by decide, by decide⟩

/-! Witnesses: engines' events. -/

/-- A command of an engine that stands at the head of its queue. -/
def queued0 (e : Engine) (i : Instr) (regs : List Word) : Cmd := { cmd0 e i with started := false, queued := true, regs := regs }
/-- An event about command 7 of cluster 0, whose one command it is. -/
def about (x : Context) (c : Cluster) (m : Cmd) : State := { at0 x { c with cmds := [m] } with arg := { Arg.zero with i := 7 } }
/-- A table's image: BF16 by BF16, one level of three steps. -/
def image0 : BitVec 2048 := BitVec.ofNat 2048 (0x77 + 2 * 2 ^ 512)
def table0 (st : NestState) (sv : ShadowState) (step : Nat) : Nest := { Nest.reset with active := image0, shadow := image0, st := st, sv := sv, step := step }
def walk0 (t : Nest) (m : Cmd) : State := about runs { c0 with nests := [(0, t)] } m

theorem witness_NestEvents_load :
    (let s := about runs { c0 with mem := [(0x1000, 0x77), (0x1040, 2)] } (queued0 .matrix (.mxcfgLoad ef 0 4 0) [0x1000])
     aboutCmd s 0 (queued0 .matrix (.mxcfgLoad ef 0 4 0) [0x1000]) ∧ (s.cluster 0).atHead (queued0 .matrix (.mxcfgLoad ef 0 4 0) [0x1000]) = true ∧
     (queued0 .matrix (.mxcfgLoad ef 0 4 0) [0x1000]).started = false) ∧
    (let m : Cmd := { queued0 .matrix (.mxcfgLoad ef 0 4 0) [0x1000] with started := true }
     let s := about runs { c0 with mem := [(0x1000, 0x77), (0x1040, 2)] } m
     aboutCmd s 0 m ∧ (s.cluster 0).cmds.find? (fun q => q.started && isLoad q.instr) = some m ∧
     ∃ bs bad u, s.engineRead 0 0x1000 256 4 = (.ok (bs, bad), u) ∧ nestBad (BitVec.ofNat 2048 (leNat bs)) = 0) ∧
    (let m : Cmd := { queued0 .matrix (.mxcfgLoad ef 0 4 0) [0x1000] with started := true }
     let s := about runs c0 m
     (s.cluster 0).cmds.find? (fun q => q.started && isLoad q.instr) = some m ∧
     ∃ bs bad u, s.engineRead 0 0x1000 256 4 = (.ok (bs, bad), u) ∧ nestBad (BitVec.ofNat 2048 (leNat bs)) ≠ 0) ∧
    (let s := about runs c0 (queued0 .matrix (.mxcfgStore ef 0 4 0) [0x1000])
     (s.cluster 0).seqReady (queued0 .matrix (.mxcfgStore ef 0 4 0) [0x1000]) = true ∧
     ∃ u, s.engineWrite 0 0x1000 4 (bytesLE 256 (storeImage ((s.cluster 0).nest 0)).toNat) false = (.ok (), u)) :=
  ⟨by decide, ⟨by decide, by decide, _, _, _, rfl, by decide +kernel⟩, ⟨by decide, _, _, _, rfl, by decide +kernel⟩, by decide, _, rfl⟩

theorem witness_NestEvents_walk :
    (let m := queued0 .matrix (.mxgo ef 0) []
     (∀ t ∈ [table0 .empty .valid 0, table0 .ready .bad 0, table0 .ready .none 0, table0 .stopped .none 1, table0 .invalid .none 0],
       aboutCmd (walk0 t m) 0 m ∧ ((walk0 t m).cluster 0).seqReady m = true ∧ ((walk0 t m).cluster 0).nest 0 = t)) ∧
    (let m := cmd0 .matrix (.mxgo ef 0)
     let s := walk0 (table0 .running .none 0) m
     let n := nestOf ((s.cluster 0).nest 0).active
     aboutCmd s 0 m ∧ ((s.cluster 0).nest 0).st = .running ∧ n.asrc = false ∧ n.bsrc = false ∧ n.T ≤ 1024 ∧ (s.cluster 0).abPoison = [] ∧ (s.cluster 0).wbPoison = [] ∧
       (List.range n.T).any (fun j => ((s.cluster 0).tile (n.tile (stepIndices n.levels 0) j)).i32 != n.integer) = false) ∧
    (let m := cmd0 .matrix (.mxgo ef 0)
     let s := about { runs with stopf := true } { c0 with nests := [(0, table0 .running .none 1)] } m
     aboutCmd s 0 m ∧ m.pos < ((s.cluster 0).nest 0).step ∧ ((s.cluster 0).nest 0).step % 4 ^ (nestOf ((s.cluster 0).nest 0).active).gran = 0 ∧ (s.context 0 0).stopf = true ∧
       m.data ≠ [BitVec.ofNat 64 ((s.cluster 0).nest 0).step]) ∧
    (let m := cmd0 .matrix (.mxgo ef 0)
     let s := about runs { c0 with nests := [(0, table0 .running .none 0)], tiles := [(0, { Tile.reset with i32 := true })] } m
     let n := nestOf ((s.cluster 0).nest 0).active
     (List.range n.T).any (fun j => ((s.cluster 0).tile (n.tile (stepIndices n.levels 0) j)).i32 != n.integer) = true) := by decide +kernel

/-- A run of segments of a buffer is always read. -/
theorem segsRead_buffer (k : Nat) (u : Buf) (n : Nat) : ∀ l s, ∃ bs p, segsRead k u false n l s bs p s := by
  intro l
  induction l with
  | nil => exact fun s => ⟨[], none, rfl, rfl, rfl⟩
  | cons a l ih =>
    intro s
    obtain ⟨bs, p, h⟩ := ih s
    exact ⟨_, _, _, bs, _, p, s, rfl, rfl, h, fun h => absurd h (by decide), fun _ => ⟨rfl, rfl, rfl⟩⟩
/-- The state after the reads of segments of the slice, where all succeed. -/
def readRows (k n : Nat) : List Nat → State → Option State
  | [], s => some s
  | a :: l, s => match s.engineRead k a n 0 with | (.ok _, v) => readRows k n l v | _ => none
theorem segsRead_slice (k : Nat) (u : Buf) (n : Nat) : ∀ l s, (readRows k n l s).isSome = true → ∃ bs p t, segsRead k u true n l s bs p t := by
  intro l
  induction l with
  | nil => exact fun s _ => ⟨[], none, s, rfl, rfl, rfl⟩
  | cons a l ih =>
    intro s h
    simp only [readRows] at h
    split at h
    · rename_i b v e
      obtain ⟨bs, p, t, w⟩ := ih v h
      exact ⟨_, _, t, b.1, bs, _, p, v, rfl, rfl, w, fun _ => ⟨b.2, e, rfl⟩, fun h => absurd h (by decide)⟩
    · cases h

theorem witness_NestStepEvent :
    (let m := cmd0 .matrix (.mxgo ef 0)
     let s := walk0 (table0 .running .none 0) m
     let n := nestOf ((s.cluster 0).nest 0).active
     (aboutCmd s 0 m ∧ n.asrc = false ∧ n.bsrc = false ∧ (∀ p ∈ (s.cluster 0).cmds, p.eng = .matrix → p.started = true → p.fault = false) ∧ m.delivered = none) ∧
       (∃ as pa, segsRead 0 .ab n.asrc 64 ((List.range 32).map (fun r => segAddr n.abase (strideSum n.levels (stepIndices n.levels 0) (·.sa)) r n.lda)) s as pa s) ∧
       ∃ bs pb, segsRead 0 .wb n.bsrc n.segBytes ((List.range n.segs).map (fun r => segAddr n.bbase (strideSum n.levels (stepIndices n.levels 0) (·.sb)) r n.ldb)) s bs pb s) ∧
    (let m := cmd0 .matrix (.mxgo ef 0)
     let p : Cmd := { cmd0 .matrix (.mxcfgLoad ef 1 4 0) with id := 8, fault := true }
     let s : State := { at0 runs { c0 with cmds := [m, p], nests := [(0, table0 .running .none 0)] } with arg := { Arg.zero with i := 7 } }
     aboutCmd s 0 m ∧ ((s.cluster 0).nest 0).st = .running ∧ p ∈ (s.cluster 0).cmds) ∧
    (let m := { cmd0 .matrix (.mxgo ef 0) with delivered := some 4 }
     aboutCmd (walk0 (table0 .running .none 1) m) 0 m) ∧
    (let t := { table0 .running .none 0 with active := image0 ||| BitVec.ofNat 2048 (2 ^ 20) }
     let m := cmd0 .matrix (.mxgo ef 0)
     let n := nestOf t.active
     let s : State := { State.reset with clusters := [(0, { c0 with ctx := [(0, runs)], cmds := [m], nests := [(0, t)] })], arg := { Arg.zero with i := 7 } }
     n.asrc = true ∧ aboutCmd s 0 m ∧ (∃ f u, s.engineRead 0 n.abase 64 0 = (.error f, u)) ∧
       ∃ as pa w, segsRead 0 .ab true 64 ((List.range 32).map (fun r => segAddr n.abase (strideSum n.levels (stepIndices n.levels 0) (·.sa)) r n.lda)) (walk0 t m) as pa w) ∧
    (let z : Tile := { Tile.reset with marks := 1 }
     let n := nestOf image0
     n.zeroStart (stepIndices n.levels 0) = false ∧ z.marks.getLsbD 0 = true ∧ (List.range 16).any (fun i => decide (i / 64 < z.rows ∧ i % 64 < z.cols)) = true ∧ n.total = 3) :=
  ⟨⟨by decide +kernel, segsRead_buffer .., segsRead_buffer ..⟩, by decide, by decide, ⟨by decide +kernel, by decide, ⟨_, _, rfl⟩, segsRead_slice _ _ _ _ _ (by decide +kernel)⟩, by decide +kernel⟩

theorem witness_TileEvents :
    (∀ i ∈ [Instr.mxzero ef 0 3 0, .mxshape ef 0 31 63 false 0, .mxdrainC12 ef 0 true 0, .mxdrainAb ef 0 true 4 0, .mxflag ef 0 0, .mxtw ef 0 false 15, .mxbf ef 0 4 false 0,
        .mxbf ef 0 4 true 0],
      let m := queued0 .matrix i [0x1000]
      aboutCmd (about runs c0 m) 0 m ∧ ((about runs c0 m).cluster 0).seqReady m = true ∧ ((about runs c0 m).context 0 0).drain = []) ∧
    (planOk 1 0 = true ∧ planOk 0 0 = false ∧ abSourceBad 0x1000 0x1000 = false ∧ 0x1001 % 64 ≠ 0 ∧ Tile.reset.i32 = false ∧ (Tile.reset.shaped true 1 1).i32 = true) ∧
    (Tile.reset.rows ≤ 32 ∧ Tile.reset.cols ≤ 64 ∧ Tile.reset.drop < 2 ^ 16) ∧
    (let m := queued0 .pleat (.xcfg ef 31 false) []
     aboutCmd (about runs c0 m) 0 m ∧ ((about runs c0 m).cluster 0).atHead m = true) ∧
    (let s := at0 { runs with drain := [{ id := 7, ready := true, poison := false, fromV := false, data := 5 }] } { c0 with cmds := [cmd0 .matrix (.mxflag ef 0 0)] }
     s.arg.k = 0 ∧ (s.context 0 s.arg.c).drain ≠ [] ∧ ((s.context 0 s.arg.c).port 12).entries.length < 16 ∧ (s.cluster 0).cmd 7 = some (cmd0 .matrix (.mxflag ef 0 0))) := by
  decide +kernel

/-- A transfer record of two rows of 64 bytes from 0x8000 to 0x9000. -/
def record0 : BitVec 512 := BitVec.ofNat 512 (2 ^ 64 + 0x8000 * 2 ^ 128 + 0x9000 * 2 ^ 192 + 64 * 2 ^ 256 + 2 ^ 288 + 64 * 2 ^ 320 + 64 * 2 ^ 352)
/-- The cells of a record at an address. -/
def cellsOf (a : Nat) (r : BitVec 512) : List Host.Cell := (((List.range 64).map (fun j => (a + j, r.extractLsb' (8 * j) 8))).filter (fun p => p.2 != 0))
/-- A walk at the record's first row. -/
def walkRow (st : ChState) (rcd : Option (BitVec 512)) (first : Bool) : Channel :=
  { Channel.reset with head := 0x1000, st := st, cmd := some 7, rcd := rcd, row := 0, first := first }
def chain0 (x : Context) (h : Channel) : State := about x { c0 with chans := [(0, h)], mem := cellsOf 0x1000 record0 } (cmd0 .channel (.chgo ef 0))

theorem witness_CopyChannelEvents :
    (let m := queued0 .channel (.chset ef 0 4 0) [0x1000, 0x2000, 0x3000]
     aboutCmd (about runs c0 m) 0 m ∧ ((about runs c0 m).cluster 0).chanReady m = true) ∧
    (let m := queued0 .channel (.chset ef 0 4 0) [0x1001, 0x2000, 0x3000]
     aboutCmd (about runs c0 m) 0 m ∧ ((about runs c0 m).cluster 0).chanReady m = true ∧ (m.regs.headD 0).toNat % 64 ≠ 0) ∧
    (let m := queued0 .channel (.chq ef 0 4 false 0) [0x1000]
     let s := about runs c0 m
     aboutCmd s 0 m ∧ (s.cluster 0).chanReady m = true ∧
     ∃ u, s.engineWrite 0 0x1000 4 ((((s.cluster 0).snapshot 0 m.id).map (fun w => bytesLE 8 w.toNat)).flatten) false = (.ok (), u)) ∧
    (let m := queued0 .channel (.chgo ef 0) []
     let s := about runs { c0 with chans := [(0, { Channel.reset with head := 0x1000 })], mem := cellsOf 0x1000 record0 } m
     let h := (s.cluster 0).chan 0
     let s1 := s.setCluster 0 (((s.cluster 0).setChan 0 { h with st := .walk, ctx := m.ctx, cmd := some m.id, rcd := none, row := 0, first := true, done := 0 }).setCmd m.taken)
     aboutCmd s 0 m ∧ m.started = false ∧ (s.cluster 0).chanReady m = true ∧ ∃ r u, s1.readRecord false 0 0 = (.ok r, u) ∧ trOwn r = true ∧ trBad r = false) ∧
    (let m := cmd0 .channel (.chgo ef 0)
     let s := chain0 runs (walkRow .walk (some record0) true)
     (aboutCmd s 0 m ∧ (s.cluster 0).walking m .walk = true ∧ 0 < trRows record0) ∧ ∃ u, State.copySegs false 0 m record0 0 (trRowb record0 / 64) 0 s = (none, u)) ∧
    (let m := cmd0 .channel (.chgo ef 0)
     let s := chain0 runs { walkRow .walk (some record0) true with row := 1 }
     (aboutCmd s 0 m ∧ ((s.cluster 0).chan 0).row = trRows record0 ∧ trEnd record0 = false) ∧ ∃ u u2 u3, State.copySegs false 0 m record0 1 (trRowb record0 / 64) 0 s = (none, u) ∧
       (u.modCluster 0 (fun c => c.setChan 0 (rowMarked (c.chan 0) record0 1))).engineWrite 0 0x1008 1 (bytesLE 8 (2 * (record0.toNat / 2 ^ 65 % 16))) false = (.ok (), u2) ∧
       u2.engineWrite 0 0x1030 1 [0, 0] false = (.ok (), u3)) ∧
    (let m := cmd0 .channel (.chgo ef 0)
     let s := chain0 { runs with stopf := true } (walkRow .walk (some record0) false)
     (aboutCmd s 0 m ∧ (s.cluster 0).walking m .walk = true ∧ (s.context 0 m.ctx).stopf = true) ∧ ∃ u, s.writeDone 0 0 0 = (.ok (), u)) ∧
    (let m := cmd0 .channel (.chgo ef 0)
     let s : State := { about runs { c0 with chans := [(0, walkRow .firmware none false)] } m with arg := { Arg.zero with i := 7, j := 1, w := 5 } }
     (aboutCmd s 0 m ∧ (s.cluster 0).walking m .firmware = true ∧ s.arg.j = 1) ∧ ∃ r u, s.readRecord true 0 0 = (.ok r, u) ∧ trOwn r = false) ∧
    (let m := cmd0 .channel (.chgo ef 0)
     let s : State := { about runs { c0 with chans := [(0, walkRow .firmware none false)] } m with arg := { Arg.zero with i := 7, w := cPAGE.setWidth 64 } }
     aboutCmd s 0 m ∧ (s.cluster 0).walking m .firmware = true ∧ s.arg.w.setWidth 16 = cPAGE) ∧
    (let m : Cmd := { cmd0 .channel (.chgo ef 0) with delivered := some 4 }
     let s : State := about runs { c0 with chans := [(0, walkRow .walk (some record0) true)] } m
     aboutCmd s 0 m ∧ (s.cluster 0).walking m .walk = true ∧ ((s.cluster 0).chan 0).rcd = some record0) ∧
    (let m := cmd0 .channel (.chgo ef 0)
     let s : State := { chain0 runs (walkRow .firmware none false) with arg := { Arg.zero with i := 7, j := 1 } }
     (aboutCmd s 0 m ∧ (s.cluster 0).walking m .firmware = true ∧ ((s.cluster 0).chan 0).rcd = none ∧ s.arg.j = 1) ∧
       ∃ r u, s.readRecord true 0 0 = (.ok r, u) ∧ trOwn r = true ∧ trBad r = false) :=
  ⟨by decide, by decide, ⟨by decide, by decide, _, rfl⟩, ⟨by decide, by decide, by decide, _, _, rfl, by decide +kernel, by decide +kernel⟩,
   ⟨by decide, _, rfl⟩, ⟨by decide +kernel, _, _, _, rfl, rfl, rfl⟩, ⟨by decide, _, rfl⟩, ⟨by decide, _, _, rfl, by decide +kernel⟩, by decide, by decide,
   ⟨by decide, _, _, rfl, by decide +kernel, by decide +kernel⟩⟩

theorem witness_CommandEndings :
    (∃ s m, aboutCmd s 0 m ∧ m.waits = [] ∧ m.instr = .tjoin ef ∧ m.inh = none) ∧
    (let m := { queued0 .matrix (.mxgo ef 0) [] with inh := some cPAGE }
     let s := about runs c0 m
     aboutCmd s 0 m ∧ m.waits = [] ∧ m.started = false ∧ m.isPoll = false ∧ gatedArrival m.instr = false ∧ m.remote = none ∧ (s.cluster 0).queueHead m = true) ∧
    (let m := cmd0 .matrix (.mxgo ef 0)
     let s := about { runs with toks := [(3, busyTok)] } c0 m
     m.tok ≠ 0 ∧ ((s.context 0 m.ctx).tok m.tok).cmds = [m.id] ∧ ((s.context 0 m.ctx).tok m.tok).count = 1 ∧ ((s.context 0 m.ctx).tok m.tok).errSeen = false) :=
  ⟨⟨about runs c0 (cmd0 .matrix (.tjoin ef)), cmd0 .matrix (.tjoin ef), by decide, by decide, rfl, rfl⟩, by decide, by decide⟩

/-! Witnesses: packets and requests. -/

/-- A request from cluster 1 of the own device to byte 0x40 of window 9. -/
def pkt0 (kind : BitVec 8) : Packet :=
  { kind := kind, ordered := false, rpl := false, pois := false, sdev := 0, scl := 1, ddev := 0, dcl := 0, hop := 0, via := 0, ph := false, rtag := 0, win := 9, wid := 0,
    oseq := 0, off := 0x40, elems := 2, arg := 0, payload := List.replicate 32 1, tag := 0, acq := false, adm := false }
/-- A window of the bytes 0x2000 to 0x2FFF with every right, open to all. -/
def selAll (kind : Nat) (ep : EpState) : Sel := { sel0 kind with desc := BitVec.ofNat 512 (0x2000 + 4096 * 2 ^ 64 + 15 * 2 ^ 128 + kind * 2 ^ 132 + 2 ^ 134), ep := ep }
/-- Cluster 0 with one packet in its inbox and a table of one window. -/
def arrived (p : Packet) (e : List Sel) (c : Cluster) : State := at0 runs { c with inbox := [p], sel := e }
def lock0 : LockReq := { dev := 0, cl := 1, ctx := 0, ex := true, reply := pkt0 kGRANT }

theorem witness_RequestsArePerformed_verdicts :
    (∀ v ∈ [(kPUT, [selAll 0 .opened], Verdict.perform), (kGETREQ, [selAll 0 .opened], .perform), (kMARKER, [selAll 0 .gather], .perform), (kPOST, [], .perform),
        (kLOCK, [selAll 2 .closed], .perform), (kPUT, [{ selAll 0 .gather with fgen := 0xFF }], .hold), (kPUT, [], .refuse cWINDOW), (kUNLOCK, [selAll 2 .closed], .refuse cWINDOW)],
      let s := arrived (pkt0 v.1) v.2.1 c0
      inboxAt s 0 (pkt0 v.1) ∧ (pkt0 v.1).rpl = false ∧ (pkt0 v.1).adm = false ∧ (pkt0 v.1).ordered = false ∧ (pkt0 v.1).sdev = s.deviceNo ∧ (s.cluster 0).verdict (pkt0 v.1) = v.2.2) ∧
    (let s := arrived (pkt0 kPOST) [] { c0 with notices := List.replicate 64 (9, 0, 1) }
     inboxAt s 0 (pkt0 kPOST) ∧ (s.cluster 0).verdict (pkt0 kPOST) = .drop) := by decide +kernel

/-- The clauses of the verdict on an access, each at an entry and a packet. -/
theorem witness_RequestsArePerformed_rights :
    let c := { c0 with sel := [selAll 0 .opened, { selAll 1 .closed with win := 8, posted := [(0, 1)] }] }
    c.winid = (pkt0 kPUT).wid.toNat ∧ (pkt0 kPUT).win ≠ 4095 ∧ kPUT ∈ accessKinds ∧ withinRights (selAll 0 .opened) (pkt0 kPUT) ∧ (pkt0 kPUT).tag = (selAll 0 .opened).fgen ∧
    ¬withinRights (selAll 0 .opened) { pkt0 kPUT with off := 0xFFC } ∧ withinRights (selAll 0 .opened) { pkt0 kPUT with off := 0xFF8 } ∧
    c.sel.find? (fun e => e.win == 9) = some (selAll 0 .opened) ∧ (selAll 0 .opened).desc.getLsbD 134 = true ∧
    c.sel.find? (fun e => e.win == 8) = some { selAll 1 .closed with win := 8, posted := [(0, 1)] } ∧ (selAll 1 .closed).desc.toNat / 2 ^ 132 % 4 = 1 ∧ (selAll 2 .closed).desc.toNat / 2 ^ 132 % 4 = 2 ∧
    { pkt0 kPUT with tag := 1 }.tag = (selAll 0 .closing).fgen + 1 ∧ c.winid ≠ { pkt0 kPUT with wid := 5 }.wid.toNat := by
  unfold withinRights
  decide +kernel

/-- An admitted request. -/
def adm0 (kind : BitVec 8) : Packet := { pkt0 kind with adm := true }

theorem witness_RequestsArePerformed :
    (∀ kind ∈ [kSPAWN, kPOST, kJOIN, kPUT, kGETREQ, kACCF, kACCI, kRAMO, kRCAS, kARRIVE, kMARKER, kCOMPLETE, kLOCK, kUNLOCK],
      let s := arrived (adm0 kind) [selAll 0 .opened] c0
      performable s 0 (adm0 kind) ∧ (s.cluster 0).pushes = [] ∧ (s.cluster 0).selOf 9 = some (selAll 0 .opened) ∧ (selAll 0 .opened).fence = none ∧ (selAll 0 .opened).valid = true ∧
        ((adm0 kind).arg.setWidth 8 : BitVec 8) = (selAll 0 .opened).fgen ∧ (adm0 kind).arg.toNat / 32 % 4 ≠ 1 ∧ (selAll 0 .opened).holders = [] ∧
        (selAll 0 .opened).waiters = []) ∧
    (let s := arrived (adm0 kUNLOCK) [{ selAll 2 .closed with holders := [lock0] }] c0
     performable s 0 (adm0 kUNLOCK) ∧ lock0.dev = (adm0 kUNLOCK).sdev ∧ lock0.cl = (adm0 kUNLOCK).scl ∧ lock0.ctx = (adm0 kUNLOCK).rtag / 256) ∧
    (let u := withoutPacket (arrived (adm0 kJOIN) [selAll 0 .opened] c0) 0
     ∃ ch v, u.xlatRange 0 (adm0 kJOIN).off 64 .write false false = (.ok [ch], v)) ∧
    (let p := adm0 kPUT
     let u := withoutPacket (arrived p [selAll 0 .opened] c0) 0
     (∃ cs v, u.xlatRange 0 ((selAll 0 .opened).base + p.off) (4 * p.elems) .write false false = (.ok cs, v)) ∧
     (∃ cs v, u.xlatRange 0 ((selAll 0 .opened).base + p.off) (4 * p.elems) .read false false = (.ok cs, v)) ∧
     (∃ ch v, u.xlatRange 0 ((selAll 0 .opened).base + p.off) (packetLength (adm0 kRAMO)) .write false false = (.ok [ch], v) ∧ ch.off = 0 ∧ ch.len = packetLength (adm0 kRAMO)) ∧
     (∃ ch v, u.xlatRange 0 ((selAll 0 .opened).base + p.off) 16 .write false false = (.ok [ch], v) ∧ ch.off = 0 ∧ ch.len = 16)) ∧
    (let p := adm0 kACCF
     let s := arrived p [selAll 0 .opened] c0
     wholly s p ∧ ∃ ch v, (withoutPacket s 0).xlatRange 0 ((selAll 0 .opened).base + p.off) (4 * p.elems) .write false false = (.ok [ch], v) ∧ ch.off = 0 ∧ ch.len = 4 * p.elems) ∧
    (let p := adm0 kPUT
     let s : State := { arrived p [selAll 0 .opened] c0 with arg := { Arg.zero with j := 1 } }
     performable s 0 p ∧ 0 < s.arg.j ∧ p.part + s.arg.j < p.elems ∧ ∃ cs v, (withoutPacket s 0).xlatRange 0 ((selAll 0 .opened).base + p.off + 4 * p.part) (4 * s.arg.j) .write false false = (.ok cs, v)) ∧
    (c0.revoked.contains 9 = false) :=
  ⟨by decide +kernel, by decide +kernel, ⟨_, _, rfl⟩, ⟨⟨_, _, rfl⟩, ⟨_, _, rfl⟩, ⟨_, _, rfl, rfl, rfl⟩, _, _, rfl, rfl, rfl⟩, ⟨by decide, _, _, rfl, rfl, rfl⟩, ⟨by decide +kernel, by decide, by decide, _, _, rfl⟩, by decide⟩

/-- A local join of Context 0, its word at 0x1000. -/
def join0 : Join := { ctx := 0, va := 0x1000, pa := 0x1000, seq := 3 }
/-- A write of Context 0 that is still to take effect. -/
def late0 : HeldWrite := { ctx := 0, va := 64, pa := 64, len := 1, bytes := [(64, 7)], rmw := none, l2 := false, scope := 0, ops := [], seq := 0, late := some 3 }
/-- An operation with a release at a scope, to cluster 1. -/
def releases0 (sc : BitVec 4) : Cmd :=
  { queued0 .network (.put { rf with order := .rel, scope := sc }) [64] with remote := some { rem0 1 with peer := some (0, 1, 0), len := 64, localVa := 0x2000, out := 0, allSent := false, win := 9 }, data := [0x2000] }

theorem witness_RequestsRefusedAndOrdered :
    (∀ v ∈ [(kPUT, []), (kPUT, [{ selAll 0 .opened with desc := BitVec.ofNat 512 (2 ^ 134) }]), (kCOMPLETE, [])],
      let s := arrived (pkt0 v.1) v.2 c0
      inboxAt s 0 (pkt0 v.1) ∧ (pkt0 v.1).rpl = false ∧ (pkt0 v.1).adm = false ∧ (pkt0 v.1).ordered = false ∧
        (s.cluster 0).verdict (pkt0 v.1) = .refuse (if v.2 = [] then cWINDOW else cPERM)) ∧
    (∃ ch u, base.xlatRange 0 (countsAt (base.cluster 0) 9) 8 .write false false = (.ok [ch], u) ∧ ch.off = 0 ∧ ch.len = 8) ∧
    (∀ p ∈ [{ adm0 kMARKER with arg := 1 }, { adm0 kMARKER with arg := 5 }], performable (arrived p [selAll 0 .gather] c0) 0 p ∧
      (p.arg.setWidth 8 : BitVec 8) ≠ (selAll 0 .gather).fgen ∧ (p.arg = 1 → (p.arg.setWidth 8 : BitVec 8) = (selAll 0 .gather).fgen + 1)) ∧
    (∀ ex ∈ [true, false], let e := { selAll 2 .closed with holders := [{ lock0 with ex := ex, cl := 2 }] }
      performable (arrived { adm0 kLOCK with acq := ex } [e] c0) 0 { adm0 kLOCK with acq := ex } ∧ e.desc.getLsbD 134 = true ∧ e.waiters = []) ∧
    (let e := { selAll 2 .closed with holders := [lock0], waiters := [{ lock0 with cl := 2 }] }
     performable (arrived (adm0 kUNLOCK) [e] c0) 0 (adm0 kUNLOCK) ∧ e.holders = [lock0] ∧ lock0.reply.sdev = (arrived (adm0 kUNLOCK) [e] c0).deviceNo) ∧
    (let s := arrived (adm0 kJOIN) [selAll 0 .opened] c0
     (performable s 0 (adm0 kJOIN) ∧ (s.cluster 0).pushes = []) ∧ ∃ ch v, (withoutPacket s 0).xlatRange 0 (adm0 kJOIN).off 64 .write false false = (.ok [ch], v) ∧
       leNat (((v.cluster 0).writeBack (linesOf ch.pa 64)).l2Bytes (ch.pa + 16) 4) = 0) ∧
    (let s := at0 runs { c0 with joins := [join0] }
     (s.cluster 0).joinDue = some join0 ∧ leNat (((s.cluster 0).writeBack (linesOf join0.pa 64)).l2Bytes (join0.pa + 16) 4) = 0) ∧
    (let p := { adm0 kGETREQ with acq := true }
     let s := arrived p [selAll 0 .opened] c0
     (performable s 0 p ∧ wholly s p ∧ (selAll 0 .opened).fence = none) ∧
       ∃ cs v z, (withoutPacket s 0).xlatRange 0 ((selAll 0 .opened).base + p.off) (4 * p.elems) .read false false = (.ok cs, v) ∧
         (v.modCluster 0 (fun c => c.countChunks 2 cs)).xlatRange 0 ((selAll 0 .opened).base + p.off) (4 * p.elems) .read false false = (.ok cs, z)) ∧
    (let p := { adm0 kRAMO with arg := 32 }
     let s := arrived p [selAll 0 .opened] c0
     (performable s 0 p ∧ p.arg.toNat / 2 ^ 5 % 4 = 1) ∧
       ∃ ch v, (withoutPacket s 0).xlatRange 0 ((selAll 0 .opened).base + p.off) (packetLength p) .write false false = (.ok [ch], v) ∧ ch.off = 0 ∧ ch.len = packetLength p) := by
  refine ⟨by decide +kernel, ⟨_, _, rfl, rfl, rfl⟩, by decide +kernel, by decide +kernel, by decide +kernel, ⟨by decide +kernel, _, _, rfl, by decide +kernel⟩, by decide +kernel,
    ⟨by decide +kernel, _, _, _, rfl, rfl⟩, by decide +kernel, _, _, rfl, rfl, rfl⟩

theorem witness_RequestsRefusedAndOrdered_release :
    (let m := releases0 3
     let s := about runs { c0 with dirty := [(64, 5)] } m
     aboutCmd s 0 m ∧ m.delivered = none ∧ m.eng = .network ∧ m.started = false ∧ carriesRelease m.instr = some 3 ∧ s.maySend 0 m (m.remote.getD (rem0 0)) = true ∧
       ((s.cluster 0).freePlace m.ctx).isSome = true ∧ orderedOp m.instr = false ∧ SMap.sorted 0 (s.cluster 0).dirty = true ∧ 0 = s.deviceNo) ∧
    (let m := releases0 3
     late0.before m = true ∧ ((at0 runs { c0 with joins := [join0] }).cluster 0).joinsBefore m = true) ∧
    (let m := { releases0 3 with id := 9 }
     let q : Cmd := { cmd0 .network (.put rf) with remote := some { rem0 1 with peer := some (0, 2, 0) } }
     let s : State := { at0 runs { c0 with cmds := [q, m] } with arg := { Arg.zero with i := 9 } }
     aboutCmd s 0 m ∧ q ∈ (s.cluster 0).cmds ∧ q.ctx = m.ctx ∧ q.id < m.id ∧ q.isPoll = false ∧ scopeCovers 3 (s.cluster 0).device.toNat 0 (0, 1) (0, 2)) := by
  unfold scopeCovers
  decide +kernel

/-- An operation toward cluster 1 that has sent nothing yet. -/
def fresh0 : Remote := { rem0 1 with peer := some (0, 1, 0), len := 64, localVa := 0x2000, out := 0, allSent := false, win := 9 }
/-- A reply to the request in place 0, of command 7. -/
def reply0 (kind : BitVec 8) : Packet := { pkt0 kind with rpl := true, scl := 1 }
def replied (p : Packet) (x : Context) (m : Cmd) (q : Packet) : State :=
  at0 x { c0 with inbox := [p], cmds := [m], places := [(0, { cmd := 7, pkt := q, retry := none })] }

theorem witness_RemoteOperationsProgress :
    (∀ m ∈ [{ cmd0 .network (.put rf) with remote := some fresh0, data := [0x2000], regs := [64] }, { cmd0 .network (.ramo raf) with remote := some fresh0, regs := [1, 0] },
        { cmd0 .barrier (.gbarWait 0 0 4 5) with remote := some fresh0 }],
      let s := about runs c0 m
      aboutCmd s 0 m ∧ m.delivered = none ∧ gatedArrival m.instr = false ∧ s.maySend 0 m fresh0 = true ∧ 0 = s.deviceNo ∧ (s.cluster 0).freePlace m.ctx = some 0 ∧
        orderedOp m.instr = false) ∧
    ({ cmd0 .barrier (.gbarWait 0 0 4 5) with remote := some fresh0 }.isPoll = true ∧ { cmd0 .network (.put rf) with remote := some fresh0 }.isPoll = false) ∧
    (∀ kind ∈ [kDONE, kGETDATA, kATOMRET, kFAIL],
      let r : Remote := { rem0 1 with dest := some 5, localVa := 0x2000, off := 0x40 }
      let m : Cmd := { cmd0 .network (.get rf) with remote := some r, data := [0x2000] }
      let s := replied (reply0 kind) { runs with hnds := [(1, { Handle.free with st := .issued, left := 1 })], sWait := [(5, 7)] } m (pkt0 kGETREQ)
      lastReply s 0 (reply0 kind) { cmd := 7, pkt := pkt0 kGETREQ, retry := none } m r ∧ (reply0 kind).pois = false ∧
        localPieces m.data r.localVa.toNat (((pkt0 kGETREQ).off + 2 ^ 40 - r.off) % 2 ^ 40) (4 * (pkt0 kGETREQ).elems) = [(0x2000, 8)] ∧
        ((s.context 0 m.ctx).hnd r.hnd).left = 1 ∧ ((s.context 0 m.ctx).hnd r.hnd).errs = false) ∧
    (let m : Cmd := { cmd0 .network (.wlock ef 9 5 true) with regs := [2] }
     let s := replied (reply0 kGRANT) runs m (pkt0 kLOCK)
     inboxAt s 0 (reply0 kGRANT) ∧ (s.cluster 0).cmd 7 = some m) ∧
    (let s := replied (reply0 kENACK) runs (cmd0 .network (.put rf)) (pkt0 kPUT)
     inboxAt s 0 (reply0 kENACK) ∧ Machine.SMap.find (s.cluster 0).places (reply0 kENACK).rtag = some { cmd := 7, pkt := pkt0 kPUT, retry := none }) ∧
    (let pl : Place := { cmd := 7, pkt := pkt0 kPUT, retry := some 0 }
     let s := at0 runs { c0 with places := [(0, pl)] }
     s.arg.k = 0 ∧ Machine.SMap.find (s.cluster 0).places s.arg.i = some pl ∧ 0 ≤ (s.cluster 0).clk ∧ pl.pkt.ddev = s.deviceNo) := by
  and_intros <;> decide +kernel

theorem witness_ResultsLand :
    ∀ f ∈ [flightS 5 9 0, flightV (.vec 64 1) 9 0, flightV (.port 3 1) 9 0, flightPair 4 1 1, flightPair 4 0xF 1],
      ∃ g, (at0 { runs with flights := [{ f with remain := 0 }], ports := [(3, filled1 2 0 false)] } c0).arg.k = 0 ∧
        ((at0 { runs with flights := [{ f with remain := 0 }], ports := [(3, filled1 2 0 false)] } c0).cluster 0).dueFlight = some (0, g) ∧ g.dest = f.dest := by
  intro f hf
  exact ⟨{ f with remain := 0 }, by revert f; decide +kernel⟩

/-! Witnesses: what stands before an issue, units, firmware, the Queue. -/

def some0 : Trap := Trap.slotTrap cPAGE 7 0
/-- A task record with a code address and a level. -/
def task0 (prio : Nat) : BitVec 512 := BitVec.ofNat 512 (0x1000 + prio * 2 ^ 320)

theorem witness_CoreAndUnitEvents :
    (let s := at0 { runs with pc := 2 } c0
     s.arg.k = 0 ∧ (s.cluster 0).runCtx = some 0 ∧ (s.context 0 0).pc.toNat % 4 ≠ 0) ∧
    (let s : State := { State.reset with clusters := [(0, { c0 with ctx := [(0, runs)] })] }
     ∃ va u, s.fetch 0 0 = (.error (.page va), u)) ∧
    (let s : State := { State.reset with clusters := [(0, { c0 with ctx := [(0, runs)], mem := [(0, 1), (1, 0x10), (0x1000, 1), (0x1001, 0x20), (0x2000, 1), (0x2001, 8)] })] }
     ∃ va u, s.fetch 0 0 = (.error (.perm va), u)) ∧
    (let s := at0 { runs with trapPending := some some0, errors := [some0] } c0
     (s.cluster 0).runCtx = some 0 ∧ (s.context 0 0).errors = [some0] ∧ (s.context 0 0).h = false) ∧
    (let s := at0 { runs with trapPending := some some0 } c0
     (s.cluster 0).runCtx = some 0 ∧ (s.context 0 0).trapPending = some some0 ∧ (s.context 0 0).errors = []) ∧
    (let s := at0 { runs with st := .blocked, cause := some .token } c0
     (s.context 0 s.arg.c).st = .blocked ∧ (s.context 0 s.arg.c).cause ≠ some .memory ∧ s.stillBlocks 0 0 = false) ∧
    (let s := at0 { runs with st := .ready, release := 4 } c0
     (s.cluster 0).runCtx = none ∧ leastBy (s.cluster 0) (fun x => decide (x.st = .ready)) (·.release) 0 ∧ s.hemStops = false) ∧
    (let s := at0 runs { c0 with latchFlights := [(0, 0, 5, 1)] }
     s.arg.k = 0 ∧ (s.cluster 0).latchFlights = [(0, 0, 5, 1)]) ∧
    (let q : PleatTile := { remain := 0, rows := [1, 2] }
     let s := at0 { runs with pleat := { Pleat.off with on := true, tiles := [q] } } c0
     (s.context 0 s.arg.c).pleat.tiles = [q] ∧ q.remain = 0) ∧
    (let g : Gen := { active := true, start := 0, counts := 1, strides := 0, s0 := 0, since := 1, asked := 0, taken := 0 }
     let s := at0 { runs with ports := [(3, { filled1 0 0 false with gen := g })] } { c0 with clk := 9, agClk := 5 }
     (s.cluster 0).agClk < (s.cluster 0).clk ∧ (s.cluster 0).agBusy ≠ some (s.cluster 0).agClk ∧ (s.cluster 0).requesters (s.cluster 0).agClk = [16 * 0 + 3]) :=
  ⟨by decide +kernel, ⟨_, _, rfl⟩, ⟨_, _, rfl⟩, by and_intros <;> decide +kernel⟩

/-- A fault with ID 5. -/
def fault0 (w : Waiter) : PFault := { id := some 5, waiter := w, va := 0x3000, info := 0, pc := 0x100, pos := 0, answer := none }

theorem witness_FirmwareAndErrorEvents :
    (let s := at0 { runs with st := .double } c0
     s.arg.k = 0 ∧ (s.context 0 s.arg.c).st = .double) ∧
    (let s : State := { at0 { runs with st := .fault } { c0 with faults := [fault0 (.ctx 0)] } with arg := { Arg.zero with w := 5, v := 9 } }
     (s.cluster 0).faults.find? (fun f => f.id == some (s.arg.w.setWidth 16)) = some (fault0 (.ctx 0)) ∧ (s.context 0 0).st = .fault) ∧
    (let m : Cmd := { cmd0 .matrix (.mxgo ef 0) with fault := true }
     let s : State := { at0 runs { c0 with faults := [fault0 (.cmd 7)], cmds := [m] } with arg := { Arg.zero with w := 5, v := 9 } }
     (s.cluster 0).faults.find? (fun f => f.id == some (s.arg.w.setWidth 16)) = some (fault0 (.cmd m.id)) ∧ m ∈ (s.cluster 0).cmds) ∧
    (let m : Cmd := cmd0 .channel (.chgo ef 0)
     let s : State := { at0 runs { c0 with faults := [fault0 (.chan 0)], cmds := [m], chans := [(0, { Channel.reset with st := .firmware, cmd := some 7 })] } with
       arg := { Arg.zero with w := 5, v := 9 } }
     (s.cluster 0).faults.find? (fun f => f.id == some (s.arg.w.setWidth 16)) = some (fault0 (.chan 0)) ∧ ((s.cluster 0).chan 0).st = .firmware ∧
       ((s.cluster 0).chan 0).cmd = some m.id ∧ m ∈ (s.cluster 0).cmds) ∧
    (let s := at0 runs { c0 with acNotices := [(3, 1)], dirty := [(64, 5)] }
     s.arg.flag = false ∧ (s.cluster 0).acNotices = [(3, 1)] ∧ SMap.sorted 0 (s.cluster 0).dirty = true) ∧
    (let h : HeldWrite := { ctx := 0, va := 64, pa := 64, len := 1, bytes := [(64, 7)], rmw := none, l2 := false, scope := 0, ops := [], seq := 0, late := some 3 }
     let s : State := { at0 runs { c0 with heldWrites := [h], clk := 3 } with arg := { Arg.zero with flag := true } }
     s.arg.flag = true ∧ (s.cluster 0).heldWrites = [h] ∧ h.late = some 3 ∧ 3 ≤ (s.cluster 0).clk ∧ (s.cluster 0).cmds = [] ∧ SMap.sorted 0 (s.cluster 0).dirty = true) ∧
    (let s := base
     s.arg.flag = false ∧ s.arg.i < 15 ∧ SMap.get 0 (s.die 0).counts s.arg.i ≠ BitVec.allOnes 32) ∧
    (∀ i ∈ [0, 6, 7], let s : State := { base with arg := { Arg.zero with flag := true, i := i, j := 0x3000 } }
      s.arg.flag = true ∧ s.arg.i = i ∧ (SMap.find (s.cluster 0).l2 (s.arg.j / 64)).isSome = false ∧ s.arg.bytes = [] ∧
        (s.die (dieOf 0)).wr - (s.die (dieOf 0)).rd < 4096) ∧
    (∀ q ∈ [(0, 0, 2 ^ 34), (4, 0, 2 ^ 24), (6, 0, 2 ^ 23), (7, 0, 128), (7, 4, 0), (8, 0, 1024)],
      let s : State := { base with arg := { Arg.zero with flag := true, i := q.1, c := q.2.1, j := q.2.2 } }
      s.arg.flag = true ∧ (s.arg.i ≤ 3 ∨ s.arg.i = 9 → 2 ^ 34 ≤ s.arg.j) ∧ (s.arg.i = 4 ∨ s.arg.i = 5 → 2 ^ 24 ≤ s.arg.j) ∧ (s.arg.i = 6 → 2 ^ 23 ≤ s.arg.j) ∧
        (s.arg.i = 7 → 4 ≤ s.arg.c ∨ 128 ≤ s.arg.j) ∧ (s.arg.i = 8 → 4 ≤ s.arg.c ∨ 1024 ≤ s.arg.j)) := by
  and_intros <;> decide +kernel

theorem witness_QueueEvents :
    (let s := at0 { Context.reset with freeAt := 3 } { c0 with levels := [(2, { QLevel.empty with chip := [task0 2] })], clk := 5, qclk := 5, qphase := 1 }
     s.arg.k = 0 ∧ (s.cluster 0).queueAt 1 = true ∧
       leastBy (s.cluster 0) (fun x => decide (x.st = .free) && !x.parkReq && decide (x.freeAt ≤ (s.cluster 0).qclk)) (·.freeAt) 1 ∧
       ((s.cluster 0).level 2).chip = [task0 2] ∧ ((s.cluster 0).level 2).len = 0 ∧ (∀ n, n < 2 → ((s.cluster 0).level n).size = 0) ∧
       (∀ n, n < 8 → 2 < n → ((s.cluster 0).level n).size = 0)) ∧
    (let s := at0 runs { c0 with levels := [(2, { QLevel.empty with chip := [task0 2] })], agelo := BitVec.allOnes 64, clk := 2 ^ 32, qclk := 2 ^ 32, qphase := 2 }
     ((s.cluster 0).level 2).chip = [task0 2] ∧ ((s.cluster 0).level 2).len = 0 ∧ (s.cluster 0).ageTime 2 ≠ 0 ∧
       recStamp (task0 2) ≤ (s.cluster 0).qclk ∧ (s.cluster 0).ageTime 2 * 126000 ≤ clockTime 60 (s.cluster 0).steps (recStamp (task0 2)) (s.cluster 0).qclk ∧ (s.cluster 0).queueAt 2 = true ∧ (s.cluster 0).reserved 3 = 0) ∧
    (let p : Push := { src := .spawn, rcd := task0 2, since := some 0 }
     let s := at0 runs { c0 with pushes := [p], qphase := 3 }
     (s.cluster 0).queueAt 3 = true ∧ (s.cluster 0).pushes = [p] ∧ 0 ≤ (s.cluster 0).qclk ∧ ((s.cluster 0).level (recPrio p.rcd)).len = 0 ∧ ((s.cluster 0).level (recPrio p.rcd)).chip.length < 64) ∧
    (let s := at0 runs { c0 with levels := [(2, { QLevel.empty with len := 1 })] }
     (((s.cluster 0).level 2).len ≠ 0 ∧ ((s.cluster 0).level 2).chip.length < 64 ∧ (s.cluster 0).faults = [] ∧ (s.cluster 0).queueAt 0 = true) ∧
       ∃ bs b u, s.engineRead 0 ((s.cluster 0).ringSlot 2 ((s.cluster 0).level 2).first) 64 4 = (.ok (bs, b), u)) ∧
    (let s := at0 { runs with st := .yield, cont := some (task0 2) } { c0 with qphase := 3 }
     (s.cluster 0).queueAt 3 = true ∧ (s.context 0 s.arg.c).freeAt ≤ (s.cluster 0).qclk ∧ (s.context 0 s.arg.c).st = .yield ∧ (s.context 0 s.arg.c).cont = some (task0 2) ∧ (s.cluster 0).reserved (recPrio (task0 2)) = 0 ∧
       ((s.cluster 0).level (recPrio (task0 2))).len = 0 ∧ ((s.cluster 0).level (recPrio (task0 2))).chip.length < 64) ∧
    (let q : Join := { ctx := 0, va := 0x1000, pa := 0x1000, seq := 3 }
     let s := at0 runs { c0 with joins := [q], mem := [(0x1010, 1)] }
     (s.cluster 0).joinDue = some q ∧ leNat (((s.cluster 0).writeBack (linesOf 0x1000 64)).l2Bytes (0x1000 + 16) 4) = 1) :=
  ⟨by decide +kernel, by decide +kernel, by decide +kernel, ⟨by decide +kernel, _, _, _, rfl⟩, by decide +kernel, by decide +kernel⟩

theorem witness_RankingOfKeys : topIndexes 2 [(0, Ex.fin false 3 0 false), (1, Ex.invalid), (2, Ex.fin false 3 0 false)] = [0, 2] := by decide +kernel

/-! Witnesses: stack engines, dispatch, Hem. -/

def nmPage : TlbEntry := { page with leaf := 0xC2F }
/-- A started command with a descriptor. -/
def started0 (i : Instr) (d : List Word) (pos phase : Nat) : Cmd := { cmd0 .stack i with regs := [0x1000], data := d, pos := pos, phase := phase }
def stack0 (leaf : Word) (m : Cmd) : State :=
  { State.reset with clusters := [(0, { c0 with ctx := [(0, runs)], tlb1 := [{ page with leaf := leaf }], tlb2 := [{ page with leaf := leaf }], cmds := [m] })],
                     arg := { Arg.zero with i := 7 } }
def topk0 : List Word := [0x2000, 64, 1, 0x3000, 0x4000, 0, 0, 0]
/-- Two experts, one winner a row, two rows, lists of four places. -/
def topk1 : List Word := [0x2000, 64 + 2 ^ 32, 1 + 2 ^ 34, 0x3000, 0x4000, 0x5000, 0, 0]

theorem witness_StackEngineEvents_forward :
    (let m := queued0 .stack (.nmfence ef) []
     aboutCmd (stack0 0xC2F m) 0 m ∧ ((stack0 0xC2F m).cluster 0).mayForward m = true) ∧
    (let m := { queued0 .stack (.nmbias ef 4) [0x1000] with delivered := some cPAGE }
     aboutCmd (stack0 0xC2F m) 0 m ∧ ((stack0 0xC2F m).cluster 0).mayForward m = true ∧ isFence m.instr = false) ∧
    (let m := queued0 .stack (.nmtopk ef 4 0) [0x1000]
     (aboutCmd (stack0 0xC2F m) 0 m ∧ ((stack0 0xC2F m).cluster 0).mayForward m = true ∧ m.delivered = none) ∧
       ∃ bs bad u, (stack0 0xC2F m).engineRead 0 0x1000 64 4 = (.ok (bs, bad), u) ∧ nmJob m.instr (words8 bs) = none) ∧
    (let m := queued0 .stack (.nmbias ef 4) [0x1000]
     ∃ bs bad u j l v l' v', (stack0 0xC2F m).engineRead 0 0x1000 64 4 = (.ok (bs, bad), u) ∧ nmJob m.instr (words8 bs) = some j ∧
       State.nmXlat 0 (fun _ => .read) (j.ranges 0x1000) u = (.ok l, v) ∧ (∀ p ∈ l, pteNM p.2.2.leaf = true ∧ (p.2.1 = true → pteW p.2.2.leaf = true)) ∧
       State.nmXlat 0 (fun wr => if wr then .write else .read) (j.ranges 0x1000) v = (.ok l', v') ∧ m ∈ (v'.cluster 0).cmds) ∧
    (let m := queued0 .stack (.nmbias ef 4) [0x1000]
     ∃ bs bad u j l v, (stack0 0xC0F m).engineRead 0 0x1000 64 4 = (.ok (bs, bad), u) ∧ nmJob m.instr (words8 bs) = some j ∧
       State.nmXlat 0 (fun _ => .read) (j.ranges 0x1000) u = (.ok l, v) ∧ ∃ p ∈ l, pteNM p.2.2.leaf = false) ∧
    (let m := queued0 .stack (.nmbias ef 4) [0x1000]
     ∃ bs bad u j l v, (stack0 0xC2D m).engineRead 0 0x1000 64 4 = (.ok (bs, bad), u) ∧ nmJob m.instr (words8 bs) = some j ∧
       State.nmXlat 0 (fun _ => .read) (j.ranges 0x1000) u = (.ok l, v) ∧ (∀ p ∈ l, pteNM p.2.2.leaf = true) ∧ ∃ p ∈ l, p.2.1 = true ∧ pteW p.2.2.leaf = false) ∧
    (∀ n ∈ [0, 1], let m : Cmd := { cmd0 .stack (.nmfence ef) with notBefore := n }
      aboutCmd (stack0 0xC2F m) 0 m ∧ m.started = true ∧ (if n = 0 then m.notBefore ≤ ((stack0 0xC2F m).cluster 0).clk else ((stack0 0xC2F m).cluster 0).clk < m.notBefore)) :=
  ⟨by decide, by decide, ⟨by decide, _, _, _, rfl, by decide +kernel⟩, ⟨_, _, _, .bias 0 1 false, _, _, _, _, rfl, by decide +kernel, rfl, by decide +kernel, rfl, by decide +kernel⟩,
   ⟨_, _, _, .bias 0 1 false, _, _, rfl, by decide +kernel, rfl, by decide +kernel⟩, ⟨_, _, _, .bias 0 1 false, _, _, rfl, by decide +kernel, rfl, by decide +kernel⟩, by decide⟩

theorem witness_StackEngineEvents_serve :
    (let m := started0 (.nmtopk ef 4 0) topk0 0 0
     served (stack0 0xC2F m) 0 m (.topk 0x2000 64 1 1 2 0 0x3000 0x4000 0 false) ∧ m.phase = 0 ∧ m.pos + 1 < 2) ∧
    (let m := { started0 (.nmtopk ef 4 0) topk0 0 1 with regs := [0x1000, 0, 0] }
     served (stack0 0xC2F m) 0 m (.topk 0x2000 64 1 1 2 0 0x3000 0x4000 0 false) ∧ m.phase ≠ 0 ∧ m.pos + 1 < 2 ∧
       (((stack0 0xC2F m).cluster 0).nmRead m (0x2000 + m.pos * 64) 4).2 = false ∧ ((stack0 0xC2F m).engine (stackOf 0)).bads (m.regs.getD 1 0 == 1) = []) ∧
    (let m := { started0 (.nmtopk ef 4 0) topk0 1 1 with regs := [0x1000, 0, 0] }
     served (stack0 0xC2F m) 0 m (.topk 0x2000 64 1 1 2 0 0x3000 0x4000 0 false) ∧ m.phase ≠ 0 ∧ m.pos + 1 = 2) ∧
    (let m := started0 (.nmbias ef 4) [0, 0, 0, 0, 0, 0, 0, 0] 0 0
     served (stack0 0xC2F m) 0 m (.bias 0 1 false)) ∧
    (let m := started0 (.nmpk ef 4 0) [0, 0, 0, 0, 0, 0, 2 ^ 32, 0] 0 0
     served (stack0 0xC2F m) 0 m (.pk 0 0 0 0 0 0 16 1 1 1 16 2 false) ∧ m.pos + 1 < 2) ∧
    (let m := started0 (.nmpk ef 4 0) [0, 0, 0, 0, 0, 0, 0, 0] 0 0
     served (stack0 0xC2F m) 0 m (.pk 0 0 0 0 0 0 16 1 1 1 16 1 false) ∧ m.pos + 1 = 1) ∧
    (let m := started0 (.nmadd ef 4 0) [0, 0, 0, 0, 0, 0, 0, 0] 0 0
     served (stack0 0xC2F m) 0 m (.add 0 0 0 1 1 16) ∧ (stack0 0xC2F m).arg.j = 0 ∧ m.pos + (1 * (16 / 8) - m.pos) = 1 * (16 / 8)) ∧
    (let m := started0 (.nmadd ef 4 0) [0, 0, 0, 0, 0, 0, 0, 0] 0 0
     let s : State := { stack0 0xC2F m with arg := { Arg.zero with i := 7, j := 1 } }
     served s 0 m (.add 0 0 0 1 1 16) ∧ m.pos + s.arg.j < 1 * (16 / 8)) ∧
    (let m := { started0 (.nmtopk ef 4 0) topk1 0 1 with regs := [0x1000, 0, 0, 0, 0] }
     served (stack0 0xC2F m) 0 m (.topk 0x2000 64 2 1 2 4 0x3000 0x4000 0x5000 false) ∧ m.regs.length = 2 + 3 ∧ ∀ i, i < 2 → (m.regs.getD (3 + i) 0).toNat % 2 ^ 32 + 1 < 2 ^ 32) := by
  and_intros <;> decide +kernel

/-- A dispatch of one expert at some phase. -/
def disp0 (phase : Nat) (ns : List Word) : Cmd :=
  { queued0 .queue (.gdisp ef 4 0 2 false) [0x1000, 0x2000, 0x3000, 0x4000, 0, 0, 0, 0] with
    phase := phase, started := decide (phase ≠ 0), data := if phase = 1 then ns else gus0 ++ ns }
where
  /-- A table of two buckets, of 0 and of 10 rows. -/
  gus0 : List Word := [0x5000, 64 + 2 ^ 32, 0, 0x100, 10, 0x200] ++ List.replicate 26 0
def g0 : Gdisp := { counts := 0x1000, table := 0x2000, status := 0x3000, parent := 0x4000, experts := 1, prio := 2, lvls := 0, tail := false }

theorem witness_ExpertDispatch :
    (∀ p ∈ [0, 1, 2, 3, 4], let m := disp0 p [3]
      aboutCmd (about runs c0 m) 0 m ∧ m.gdisp = some g0 ∧ ((about runs c0 m).cluster 0).queueHead m = true ∧ m.delivered = none ∧ (((about runs c0 m).cluster 0).mayStart m = true ∨ m.started = true) ∧
        gdispMisaligned g0 = none) ∧
    (let m := { disp0 0 [] with regs := [0x1001, 0x2000, 0x3000, 0x4000, 0, 0, 0, 0] }
     ∃ g, m.gdisp = some g ∧ gdispMisaligned g = some 0x1001 ∧ ((about runs c0 m).cluster 0).mayStart m = true ∧
       ((about runs { c0 with joins := [{ join0 with seq := 1 }] } m).cluster 0).mayStart m = false) ∧
    (let s := about runs c0 (disp0 0 [])
     ∃ bs u, s.queueRead 0 0 0x1000 4 = (.ok bs, u) ∧ disp0 0 [] ∈ (u.cluster 0).cmds) ∧
    (let s := about runs c0 (disp0 1 [3])
     ∃ bs u, s.queueRead 0 0 0x2000 256 = (.ok bs, u) ∧ disp0 1 [3] ∈ (u.cluster 0).cmds ∧ gusBad (bytesWords bs) = true) ∧
    (gusBad (disp0.gus0) = false ∧ expertRows disp0.gus0 3 ≠ 0 ∧ gusCap disp0.gus0 (gusNB disp0.gus0) = 10 ∧ expertRows disp0.gus0 0 = 0) ∧
    (let s := about runs c0 (disp0 2 [3])
     ∃ u, State.writeDescriptors 0 g0 disp0.gus0 [3] 0 s = (.ok (), u) ∧ disp0 2 [3] ∈ (u.cluster 0).cmds) ∧
    (let s := about runs c0 (disp0 3 [3])
     ∃ cs u, s.xlatRange 0 0x3000 24 .write false false = (.ok cs, u) ∧ disp0 3 [3] ∈ (u.cluster 0).cmds) ∧
    (let m := disp0 4 []
     ((m.data.drop 32).map (·.toNat))[m.pos]? = none ∧ ((about runs c0 m).cluster 0).pushes = []) ∧
    (∀ n ∈ [0, 3], let m := disp0 4 [BitVec.ofNat 64 n]
     ((m.data.drop 32).map (·.toNat))[m.pos]? = some n ∧ ((about runs { c0 with qphase := 3 } m).cluster 0).pushes.any (fun p => p.src == .gdisp m.id) = false ∧
       ((about runs { c0 with qphase := 3 } m).cluster 0).queueAt 3 = true ∧ m.notBefore ≤ ((about runs { c0 with qphase := 3 } m).cluster 0).qclk ∧
       (expertRows (m.data.take 32) n = 0 ↔ n = 0)) ∧
    (let m := disp0 4 [3]
     let p : Push := { src := .gdisp 7, rcd := task0 2, since := some 0 }
     let s := about runs { c0 with qphase := 3, pushes := [p] } m
     aboutCmd s 0 m ∧ (s.cluster 0).queueAt 3 = true ∧ (s.cluster 0).pushes = [p] ∧ p.src = .gdisp m.id ∧ 0 ≤ (s.cluster 0).qclk ∧
       ((s.cluster 0).level (recPrio p.rcd)).len = 0 ∧ ((s.cluster 0).level (recPrio p.rcd)).chip.length < 64) ∧
    (g0.parent ≠ 0 ∧ ∃ ch u, (about runs c0 (disp0 4 [0])).xlatRange 0 g0.parent 64 .write false false = (.ok [ch], u)) :=
  ⟨by decide +kernel, ⟨_, rfl, by decide, by decide⟩, ⟨_, _, rfl, by decide +kernel⟩, ⟨_, _, rfl, by decide +kernel, by decide +kernel⟩, by decide +kernel, ⟨_, rfl, by decide +kernel⟩,
   ⟨_, _, rfl, by decide +kernel⟩, by decide +kernel, by decide +kernel, by decide +kernel, by decide, _, _, rfl⟩

/-- Cluster 0 in the round. -/
def inRound : Cluster := { c0 with hemcfg := 1, hemcfgRound := 1 }

def hem0 : Cmd := queued0 .barrier (.hem ef) []
def arriving (cfg : Word) : State := about runs { inRound with hemcfgRound := cfg } hem0
def arrivedHem (cfg : Word) : State :=
  (arriving cfg).setCluster 0 ((((arriving cfg).cluster 0).writeBackAll).setCmd { hem0 with started := true, phase := 1, pos := 1 })

theorem witness_HemEvents :
    (let m := queued0 .barrier (.hem ef) []
     aboutCmd (about runs c0 m) 0 m ∧ m.isHem = true ∧ m.phase = 0 ∧ ((about runs c0 m).cluster 0).atHead m = true ∧ ((about runs c0 m).cluster 0).hemOn = false) ∧
    (aboutCmd (arriving 0x1) 0 hem0 ∧ (arriving 0x1).hemBegun = true ∧ ((arriving 0x1).cluster 0).hemOn = true ∧ ((arriving 0x1).cluster 0).hemDrains hem0 = false ∧ (arrivedHem 0x1).hemComplete = true) ∧
    (((arriving 0x11).cluster 0).hemOn = true ∧ (arrivedHem 0x11).hemComplete = false) ∧
    (let m : Cmd := { cmd0 .barrier (.hem ef) with phase := 2, pos := 1 }
     ∀ p ∈ [(inRound, true), (c0, false)], let s := about runs p.1 m
     aboutCmd s 0 m ∧ m.isHem = true ∧ m.phase = 2 ∧ s.hemBegun = true ∧ (s.cluster 0).heldFirst m = true ∧ (s.cluster 0).hemOn = p.2 ∧
       (p.2 = true → ((s.cluster 0).hems 1).length < (s.cluster 0).hemNeed)) ∧
    (let m : Cmd := { cmd0 .barrier (.hem ef) with phase := 1 }
     let s := about { runs with stopf := true } { inRound with hemcfgRound := 0x11 } m
     s.hemBegun = true ∧ (s.cluster 0).hemOn = true ∧ m ∈ (s.cluster 0).hems 1 ∧ s.hemComplete = false ∧ (s.context 0 0).stopf = true ∧ ∀ j, j < 48 → (s.cluster j).hems 2 = []) ∧
    (let m : Cmd := { cmd0 .barrier (.hem ef) with phase := 2 }
     let s := about { runs with stopf := true } inRound m
     s.hemBegun = true ∧ s.hemComplete = false ∧ (∀ j, j < 48 → (s.cluster j).hems 2 = if j = 0 then [m] else []) ∧ (s.cluster 0).hemOn = true ∧
       ((s.cluster 0).hems 1).length < (s.cluster 0).hemNeed ∧ (s.setCluster 0 ((s.cluster 0).setCmd { m with phase := 1 })).hemComplete = true) := by
  and_intros <;> decide +kernel

/-! Witnesses: Kernels. -/

/-- A good record: one instance, one for each cluster, frames of 64 bytes. -/
def launch0 : BitVec 2048 := ((0x21000000 : BitVec 2048) <<< 1024) ||| ((64 : BitVec 2048) <<< 128)
def entry0 (st : KState) : KEntry := { KEntry.reset with table := launch0, rcd := launch0, st := st }
/-- Entry 0 of the kernel table, its Kernel on cluster 0 if it has one, with a Context. -/
def kern (e : KEntry) (x : Context) (a : Arg) : State :=
  { at0 x { c0 with kernel := if e.clusters = [] then none else some 0 } with stage := 3, kernels := [(0, e)], arg := a, hostUp := true, qps := [(0, { on := true, psn := 0, msg := none })] }
def on0 (st : KState) : KEntry := { entry0 st with clusters := [0] }
def kctl (op : Nat) : Arg := { Arg.zero with w := BitVec.ofNat 64 (256 * op) }

theorem witness_KernelEvents_submission :
    (let s := kern (entry0 .free) Context.reset { Arg.zero with bytes := [1, 2], i := 65535 }
     controlTaken s s.arg.bytes.length ∧ s.arg.i = 65535 ∧ (s.kernel ((65535 + 0) / 256)).st = .free ∧ 65535 + 0 < 65536 ∧ 0 < s.arg.bytes.length) ∧
    (let s := kern (entry0 .free) Context.reset Arg.zero
     controlTaken s 8 ∧ s.stage = 3 ∧ s.arg.w = BitVec.ofNat 64 0 ∧ (s.kernel 0).st = .free ∧ State.badField { s.acked with hostSeq := s.hostSeq + 1 } s.arg.k (s.kernel 0).table = none) ∧
    (let s := kern KEntry.reset Context.reset Arg.zero
     controlTaken s 8 ∧ s.stage = 3 ∧ (s.kernel 0).st = .free ∧ State.badField { s.acked with hostSeq := s.hostSeq + 1 } s.arg.k (s.kernel 0).table = some 2) ∧
    ((kern (entry0 .done) Context.reset Arg.zero).kernel 0).st ≠ .free ∧
    (let s : State := { kern (entry0 .free) Context.reset Arg.zero with stage := 2 }
     controlTaken s 8 ∧ s.stage ≠ 3) := by
  and_intros <;> decide +kernel

theorem witness_KernelEvents_life :
    (let s := kern (entry0 .submitted) Context.reset Arg.zero
     (s.kernel s.arg.i).st = .submitted ∧ s.clustersFree s.arg.i (s.kernelClusters s.arg.k (s.kernel s.arg.i).rcd) = true) ∧
    (let s := { kern (entry0 .submitted) Context.reset Arg.zero with clusters := [(0, { c0 with kernel := some 3 })] }
     (s.kernel s.arg.i).st = .submitted ∧ s.clustersFree s.arg.i (s.kernelClusters s.arg.k (s.kernel s.arg.i).rcd) = false) ∧
    (let s := kern { on0 .running with place := [(0, task0 2)] } Context.reset Arg.zero
     (s.kernel s.arg.i).st = .running ∧ s.arg.k ∉ (s.kernel s.arg.i).loading ∧ (s.kernel s.arg.i).place.find? (fun p => p.1 == s.arg.k) = some (0, task0 2)) ∧
    (let s := kern (on0 .running) Context.reset Arg.zero
     (s.kernel s.arg.i).place = [] ∧ (s.kernel s.arg.i).saved = [] ∧ (s.kernel s.arg.i).drained = [] ∧ (s.kernel s.arg.i).loading = [] ∧ (∀ k ∈ (s.kernel s.arg.i).clusters, (s.cluster k).liveCount = 0)) ∧
    (let s := kern (on0 .running) runs Arg.zero
     ∃ k ∈ (s.kernel s.arg.i).clusters, (s.cluster k).liveCount ≠ 0) ∧
    ((kern (entry0 .submitted) Context.reset Arg.zero).kernel 0).heldClusters = [] ∧
    (kctlFor (kern (on0 .running) Context.reset (kctl 2)) 0 2 ∧ kctlFor (kern (entry0 .done) Context.reset (kctl 3)) 0 3 ∧ kctlFor (kern (on0 .running) Context.reset (kctl 3)) 0 3) := by
  and_intros <;> decide +kernel

theorem witness_InstancesOfALevel : ∃ l U, 0 < U ∧ (kLevel launch0 0) = l ∧ l.pad = false ∧ { l with pad := true }.pad = true ∧ U = 48 :=
  ⟨_, 48, by decide, rfl, by decide +kernel, rfl, rfl⟩

theorem witness_StopsAndResumptions :
    (kctlFor (kern (entry0 .submitted) Context.reset (kctl 0)) 0 0 ∧ ((kern (entry0 .submitted) Context.reset (kctl 0)).kernel 0).st = .submitted) ∧
    (let s := kern (on0 .running) runs (kctl 0)
     kctlFor s 0 0 ∧ s.arg.i = 0 ∧ (s.kernel 0).st = .running ∧ ∀ k ∈ (s.kernel 0).clusters, ∀ c, c < 4 → (s.context k c).st ≠ .blocked ∧ (s.context k c).st ≠ .parked) ∧
    (let s := kern (on0 .parked) Context.reset (kctl 1)
     kctlFor s 0 1 ∧ (s.kernel 0).st = .parked ∧ (s.kernel 0).clusters ≠ [] ∧ s.clustersFree 0 (s.kernel 0).clusters = true) ∧
    (let s := { kern (on0 .parked) Context.reset (kctl 1) with clusters := [(0, { c0 with kernel := some 3 })] }
     (s.kernel 0).clusters ≠ [] ∧ s.clustersFree 0 (s.kernel 0).clusters = false) ∧
    (((kern (entry0 .parked) Context.reset (kctl 1)).kernel 0).clusters = []) ∧
    (let s := kern { on0 .parked with wanted := true } Context.reset (kctl 1)
     kctlFor s 0 1 ∧ s.arg.i = 0 ∧ (s.kernel 0).st = .parked ∧ (s.kernel 0).wanted = true ∧ (s.kernel 0).clusters ≠ [] ∧ s.clustersFree 0 (s.kernel 0).clusters = true) ∧
    (((kern (on0 .parked) Context.reset Arg.zero).kernel 0).st = .parked ∧ ((kern (on0 .parked) Context.reset Arg.zero).kernel 0).wanted = false) ∧
    (let x := { runs with st := .blocked, cause := some .token, toks := [(3, busyTok)] }
     let s : State := kern { on0 .stopping with stopAt := [(0, 0)] } x Arg.zero
     let s : State := s.modCluster 0 (fun c => { c with clk := 2 ^ 40 })
     let e := s.kernel 0
     e.st = .stopping ∧ 0 ∈ e.clusters ∧ (0, 0) ∉ e.saved ∧ e.stopAt.find? (fun p => p.1 == 0) = some (0, 0) ∧ 0 + 2 * tEng e.rcd ≤ (s.cluster 0).clk ∧ (s.context 0 0).st = .blocked ∧
       (s.context 0 0).live = true ∧ pendingToks (s.context 0 0) ≠ []) ∧
    (let s := kern (on0 .stopping) runs Arg.zero
     (s.kernel 0).st = .stopping ∧ (s.context 0 0).st = .run) ∧
    (let s := kern (on0 .stopping) { runs with st := .parked } Arg.zero
     (s.context 0 0).st = .parked ∧ (s.context 0 0).live = true ∧ pendingToks (s.context 0 0) = [] ∧ pendingHnds (s.context 0 0) = []) ∧
    ((kern (on0 .stopping) Context.reset Arg.zero).stopComplete 0 = true ∧ (kern (on0 .stopping) runs Arg.zero).stopComplete 0 = false) := by
  and_intros <;> decide +kernel

/-- A Context of the Kernel, blocked with a cause, in a stop whose time is not over. -/
def waits0 (q : Cause) : Context := { runs with st := .blocked, cause := some q, awaits := [7] }
theorem witness_StopsAndResumptions_causes :
    (∀ q ∈ [Cause.handle, .portEmpty], let s := kern { on0 .stopping with stopAt := [(0, 0)] } (waits0 q) Arg.zero
     (s.kernel 0).st = .stopping ∧ 0 ∈ (s.kernel 0).clusters ∧ (0, 0) ∉ (s.kernel 0).saved ∧ s.context 0 0 = waits0 q ∧ (s.cluster 0).clk < 0 + 2 * tEng (s.kernel 0).rcd) ∧
    (∀ c : Cluster, (∀ q, q = Cause.handle ∨ q = .barrier ∨ q = .window ∨ q = .memory ∨ q = .portFull → parksAtOnce c (waits0 q)) ∧ ¬parksAtOnce c (waits0 .portEmpty)) ∧
    parksAtOnce { c0 with cmds := [cmd0 .network (.put rf)] } (waits0 .token) := by
  refine ⟨by decide +kernel, fun c => ⟨?_, by simp [parksAtOnce, waits0]⟩, .inr (.inr ⟨rfl, _, List.mem_singleton.2 rfl, by decide, rfl, fun _ _ _ => by simp [cmd0], fun _ _ => by simp [cmd0]⟩)⟩
  rintro q (rfl | rfl | rfl | rfl | rfl) <;> simp [parksAtOnce, waits0]

/-- A Kernel whose stop is complete, and one whose stop is not, stay STOPPING while their levels are emptied. -/
theorem witness_StopsAndResumptions_parked :
    ∀ p ∈ [(Context.reset, true), (runs, false)], let s := kern (on0 .stopping) p.1 Arg.zero
      let u := ((s.stopContexts 0).kernel 0).clusters.foldl (fun s k => s.drainQueue 0 k) (s.stopContexts 0)
      let v := (u.kernel 0).clusters.foldl (fun s k => s.saveQueue 0 k) (u.modKernel 0 (fun e => { e with leafs := [] }))
      (u.kernel 0).st = .stopping ∧ u.stopComplete 0 = p.2 ∧ (v.kernel 0).st = .stopping := by decide +kernel

theorem bytesLE_length : ∀ n v : Nat, (bytesLE n v).length = n
  | 0, _ => rfl
  | n + 1, v => by simp [bytesLE, bytesLE_length n]

/-- The image of the parked Context has its full length. -/
theorem image_length : (ctxImage { runs with st := .parked }).length = imageBytes := by
  unfold ctxImage
  rw [List.length_append]
  have h2 : ∀ x : Context, ((List.range 128).map (fun i => bytesLE 1024 (x.vec i).toNat)).flatten.length = 131072 := by
    intro x
    simp [List.length_flatten, bytesLE_length, Function.comp_def]
  rw [h2]
  decide +kernel

/-- Cluster 0 with the parked Context of a Kernel that stops. -/
def parking : State := kern (on0 .stopping) { runs with st := .parked } Arg.zero

theorem parking_reaches : (match (parking.xlatRange 0 0 139264 .write false false).1 with | .ok _ => true | .error _ => false) = true := by decide +kernel

theorem witness_StopsAndResumptions_save :
    ∃ u, parking.engineWrite 0 (kSave (parking.kernel 0).rcd + imageBytes * 0) 4 (ctxImage (parking.context 0 0)) false = (.ok (), u) := by
  have ha : kSave (parking.kernel 0).rcd + imageBytes * 0 = 0 := by decide +kernel
  have hx : parking.context 0 0 = { runs with st := .parked } := rfl
  have h := parking_reaches
  rw [ha, State.engineWrite, hx, image_length, show imageBytes = 139264 from rfl]
  revert h
  cases parking.xlatRange 0 0 139264 .write false false with
  | mk r v => cases r <;> simp

/-! Witnesses: outside accesses, firmware, ports, steps. -/

/-- The module in a stage, with an aperture of cluster 0 and an event's numbers. -/
def outside (a : Arg) : State :=
  { State.reset with stage := 3, apertures := [(0, (0, 0x10000))], arg := a, hostUp := true, qps := [(0, { on := true, psn := 0, msg := none })] }
def bytes4 : List Byte := [1, 2, 3, 4]
/-- The host's queue pair 0 within a message. -/
def inMessage (left : Nat) (a : Arg) : State :=
  { outside a with qps := [(0, { on := true, psn := 0, msg := some { k := 0, pa := 64, left := left, id := 1, each := false } })] }
/-- A write that waits in the staging buffer. -/
def staged (bs : List Byte) : Ingress := { seq := 1, pa := 0, bytes := bs, msg := 1, last := true }

theorem witness_HostAccesses :
    (let s := outside { Arg.zero with bytes := bytes4, w := 64 }
     inTurn s ∧ s.arg.bytes.length ≤ 4096 ∧ (s.qpair 0).msg = none ∧ s.stage = 3 ∧ s.keyOk 1 = true ∧ s.keyOk 0 = true ∧ s.apertureOk 0 64 4 = true ∧
       (s.qpair 0).psn < 2 ^ 24 ∧ s.arg.flag = false ∧ s.stagingBuf = [] ∧ (s.cluster 0).ingressUsed + 4 ≤ Config.ingressBytes) ∧
    (∀ n ∈ [2, 4, 64], let s := inMessage n { Arg.zero with bytes := bytes4, flag := true }
     inTurn s ∧ (s.qpair s.arg.c).msg = some { k := 0, pa := 64, left := n, id := 1, each := false } ∧ (n < s.arg.bytes.length ↔ n = 2) ∧
       (s.cluster 0).ingressUsed + n ≤ Config.ingressBytes ∧ s.stagingBuf = []) ∧
    (let s : State := { inMessage 64 { Arg.zero with bytes := bytes4, flag := true } with stagingBuf := [(0, staged [])] }
     inTurn s ∧ s.stagingBuf.filter (fun p => p.1 == 0) ≠ [] ∧ (s.cluster 0).ingress = [] ∧ s.stagingUsed + 4 ≤ Config.stagingBytes) ∧
    (let s : State := { outside Arg.zero with clusters := [(0, { Cluster.reset with ingress := [staged bytes4] })], stagingBuf := [(0, { staged bytes4 with psns := [7], len := 4 })],
                                                   qps := [(0, { on := true, psn := 8, msg := none, held := [(7, false)] })] }
     (∀ c, c < 4 → (s.context 0 c).st ≠ .run ∧ (s.context 0 c).st ≠ .ready ∧ (s.context 0 c).st ≠ .blocked) ∧ ((s.cluster 0).ingress.filter (·.last)) ≠ [] ∧
       (((s.cluster 0).ingress.filter (fun g => !g.last)).map (·.len)).foldl (· + ·) 0 + 4 ≤ Config.ingressBytes ∧ (s.qpair 0).held = [(7, false)]) ∧
    (let s : State := { outside { Arg.zero with i := 8, j := 2 ^ 24 - 1 } with qps := [(0, { on := true, psn := 5, msg := none, held := [(4, false)] })] }
     onPair s ∧ 2 ^ 23 < (s.arg.j + 2 ^ 24 - (s.qpair 0).psn) % 2 ^ 24 ∧ (s.qpair 0).psn < 2 ^ 24 ∧ s.arg.j < 2 ^ 24 ∧ ((4 : Nat), false) ∈ (s.qpair 0).held) ∧
    (let s : State := { outside { Arg.zero with bytes := bytes4, w := 64 } with qps := [(0, { on := true, psn := 0, msg := none, held := [(2 ^ 24 - 1, false)] })] }
     inTurn s ∧ (s.qpair 0).msg = none ∧ (s.qpair 0).held = [(2 ^ 24 - 1, false)] ∧ 2 ^ 24 - 1 ≠ (s.qpair 0).psn ∧ (s.cluster 0).ingressUsed + 4 ≤ Config.ingressBytes) ∧
    (let s := outside { Arg.zero with i := 8 }
     inTurn s ∧ (s.qpair 0).msg = none ∧ s.keyOk 1 = true ∧ s.arg.i ≤ 2 ^ 31 ∧ s.stage = 3 ∧ s.apertureOk 0 0 8 = true ∧ (s.cluster 0).relSets = []) ∧
    ((base.context 0 0).st = .run ∧ State.reset.hostUp = false ∧ (outside { Arg.zero with c := 64 }).hostUp = true ∧ ((outside { Arg.zero with c := 1 }).qpair 1).on = false) ∧
    (∀ n ∈ [1, 2 ^ 23], 0 < (n + 2 ^ 24 - 0) % 2 ^ 24 ∧ (n + 2 ^ 24 - 0) % 2 ^ 24 ≤ 2 ^ 23) ∧ (∀ n ∈ [2 ^ 23 + 1, 2 ^ 24 - 1], 2 ^ 23 < (n + 2 ^ 24 - 0) % 2 ^ 24) ∧
    (let s : State := { outside { Arg.zero with bytes := bytes4, w := 64 } with keys := [(1, 5)] }
     s.keyOk 1 = false) ∧
    (let s : State := { outside Arg.zero with keys := [(0, 5)] }
     inTurn s ∧ (s.qpair s.arg.c).msg = none ∧ s.keyOk 0 = false) := by
  and_intros <;> decide +kernel

theorem witness_AccessesFromOutside :
    (let s := outside { Arg.zero with bytes := bytes4, w := 0xFFFD }
     s.apertureOk 0 0xFFFD 4 = false ∧ s.apertureOk 0 0xFFFC 4 = true ∧ s.apertureOk 1 0 4 = false) ∧
    (dieMayReach 0x1000 4 = true ∧ dieMayReach Config.metaBase 1 = false ∧ dieMayReach (Config.metaBase - 1) 1 = true ∧ dieMayReach (48 * 2 ^ 34) 1 = false ∧
      (State.reset.die 0).wr - (State.reset.die 0).rd < 4096) :=
  ⟨by decide +kernel, by decide +kernel⟩

/-- A write of four bytes finds the staging buffer full. -/
theorem witness_AccessesFromOutside_full :
    let s : State := { outside { Arg.zero with bytes := bytes4 } with stagingBuf := [(0, staged (List.replicate Config.stagingBytes 0))] }
    s.apertureOk 0 0 4 = true ∧ ¬ (∀ p ∈ s.stagingBuf, p.1 ≠ 0) ∧ Config.stagingBytes < s.stagingUsed + 4 := by
  refine ⟨by decide +kernel, by simp, ?_⟩
  simp only [State.stagingUsed, staged, List.map_cons, List.map_nil, List.foldl_cons, List.foldl_nil, List.length_replicate]
  omega

theorem witness_ControlRegionAndRegisters :
    (let k := 2
     let base := 2 * 2 ^ 34 + 4096
     let size := Config.metaBase - 4096
     k < 48 ∧ base / 2 ^ 34 = k ∧ base % 4096 = 0 ∧ size % 4096 = 0 ∧ base % 2 ^ 34 + size ≤ Config.metaBase) ∧
    (outside Arg.zero).firmware = true ∧ State.reset.firmware = false ∧
    (∀ j ∈ [0, 1, 2, 4, 5, 6, 7, 8, 9, 10, 11, 12, 13], ∃ s : State, s.arg.j = j ∧ s.arg.i = 5 ∧ s.firmware = true ∧ s.hostUp = true) ∧
    ({ outside Arg.zero with stranded := [pkt0 kPUT] } : State).stranded = [pkt0 kPUT] ∧
    (let s : State := { outside { Arg.zero with j := 9 } with
       stage := 2
       clusters := (List.range 48).map (fun k => (k, { c0 with dashed := [0x05, 0x40, 0x41, 0x43, 0x44, 0x4B, 0x50, 0x51, 0x52, 0x53, 0x55] }))
       ports := (List.range 35).map (fun k => (k, { FPort.reset with st := .train })) }
     s.firmware = true ∧ s.stage = 2 ∧ (∀ q, q < 48 → ∀ r ∈ [0x05, 0x40, 0x41, 0x43, 0x44, 0x4B, 0x50, 0x51, 0x52, 0x53, 0x55], r ∈ (s.cluster q).dashed) ∧
       ∀ p, p < 35 → (s.port p).st ≠ .down) :=
  ⟨by decide, by decide, by decide, fun j _ => ⟨outside { Arg.zero with j := j, i := 5 }, rfl, rfl, rfl, rfl⟩, rfl, by decide +kernel⟩

theorem witness_DeviceEvents :
    (State.reset.stage = 0 ∧ State.reset.tripped = false) ∧
    (let s : State := { outside { Arg.zero with w := 1, bytes := bytes4 } with stage := 1 }
     controlTaken s s.arg.bytes.length ∧ controlTaken s 8 ∧ s.stage = 1 ∧ s.arg.w = 1 ∧ s.verifying = false ∧ s.arg.flag = false) ∧
    (let s : State := { outside { Arg.zero with w := 5 } with svn := 5 }
     controlTaken s 8 ∧ s.fsvn.toNat < s.arg.w.toNat ∧ s.arg.w.toNat ≤ s.svn.toNat) ∧
    (imgNat [] 0 4 ≠ 0x47504231) ∧
    (let s : State := { outside { Arg.zero with bytes := 1 :: List.replicate 35 0 } with stage := 2 }
     inTurn s ∧ (s.qpair s.arg.c).msg = none ∧ s.stage = 2 ∧ s.arg.bytes.length = 36 ∧ leNat (s.arg.bytes.take 4) = 1) ∧
    (let s := outside { Arg.zero with bytes := bytes4 }
     inTurn s ∧ s.stage = 3 ∧ s.arg.bytes.length ≠ 36 ∧ s.arg.bytes.length ≤ 4096 ∧ s.mailbox.length < 64) ∧
    (∀ v ∈ [1000, 2800], ({ State.reset with arg := { Arg.zero with w := BitVec.ofNat 64 v } } : State).arg.w.toNat % 2 ^ 12 = v) ∧
    (∀ n ∈ [94, 95, 119, 120, 2800, 2801], ({ State.reset with tripped := true, arg := { Arg.zero with i := n } } : State).arg.i = n) := by decide +kernel

/-- A verification runs, and may end, in recovery; a staging write and a module reset reach it. -/
theorem witness_DeviceEvents_verifying :
    (let s : State := { outside { Arg.zero with flag := true, bytes := bytes4 } with stage := 1, verifying := true }
     controlTaken s s.arg.bytes.length ∧ s.stage = 1 ∧ s.verifying = true ∧ s.arg.flag = true) ∧
    (let s : State := { outside { Arg.zero with w := 0x52535431 } with stage := 1, verifying := true }
     controlTaken s 8) := by decide +kernel

theorem witness_PacketHeaders :
    (pkt0 kPUT).fits ∧ (pkt0 kGETREQ).payload.length ≠ 32 * beats kGETREQ 2 ∧ { pkt0 kGETREQ with payload := [] }.fits ∧ { pkt0 0xFF with dcl := 48, payload := [] }.fits ∧
      knownKind 0xFF = false := by decide +kernel

/-- Port 0 about to receive bytes. -/
def atPort (st : PortState) (a : Arg) : State := { State.reset with ports := [(0, { FPort.reset with st := st })], arg := a }
/-- A PUT of the device's own cluster 1 as a request to cluster 0. -/
def sent0 (seq : BitVec 16) (p : Packet) : State := atPort .up { Arg.zero with bytes := wire seq 0 p }

theorem witness_PacketReception :
    ((atPort .down Arg.zero).port 0).st ≠ .up ∧ (((atPort .up Arg.zero).port 0).st = .up ∧ wireGood (atPort .up { Arg.zero with bytes := bytes4 }).arg.bytes = false) ∧
    (let p := pkt0 kPUT
     let s := sent0 0 p
     let u := (portClock s 0).ackReceived 0 0 false
     (s.port 0).st = .up ∧ p.fits ∧ s.arg.w.setWidth 8 = p.tag ∧ s.arg.flag = p.acq ∧ (0 : BitVec 16) = (u.port 0).exp ∧
       (u.port 0).classUsed (p.hop + 4 * bnat p.rpl) + p.bytes ≤ 65536 ∧ knownKind p.kind = true ∧ p.kind ≠ kACK ∧ p.kind ≠ kLINKID ∧ p.ddev ≤ Config.maxDevice ∧ p.dcl ≤ 47 ∧ p.ddev = u.deviceNo ∧ p.kind ≠ kMGMT) ∧
    (let u := (portClock (sent0 1 (pkt0 kPUT)) 0).ackReceived 0 0 false
     (1 : BitVec 16) ≠ (u.port 0).exp ∧ ((1 : BitVec 16) - (u.port 0).exp).toNat ≤ 32767 ∧ 32767 < ((0xFFFF : BitVec 16) - (u.port 0).exp).toNat) ∧
    (let s := atPort .train { Arg.zero with bytes := controlWire 0 false kLINKID 1057 }
     (s.port 0).st = .train ∧ s.arg.bytes = controlWire 0 false kLINKID 1057 ∧ wireGood s.arg.bytes = true) ∧
    (let u := (portClock (atPort .up { Arg.zero with bytes := controlWire 0 false 0xFF 1057 }) 0).ackReceived 0 0 false
     beats 0xFF 1 = 0 ∧ (u.die 0).wr - (u.die 0).rd < 4096) ∧
    ((atPort .train { Arg.zero with bytes := bytes4 }).port 0).st = .train ∧ wireGood bytes4 = false ∧
    47 < { pkt0 kPUT with dcl := 48 }.dcl ∧ { pkt0 kPUT with dcl := 48 }.fits :=
  by
  and_intros <;> decide +kernel

/-- A class whose buffer is full refuses a packet. -/
theorem witness_PacketReception_full :
    let q : Packet := { pkt0 kPUT with ddev := 5, via := 5, elems := 64, payload := List.replicate 256 0 }
    let s : State := { sent0 0 (pkt0 kPUT) with routes := [(5, 0x81)], ports := [(0, { FPort.reset with st := .up, input := List.replicate 240 (0, q) })] }
    let u := (portClock s 0).ackReceived 0 0 false
    (0 : BitVec 16) = (u.port 0).exp ∧ 65536 < (u.port 0).classUsed ((pkt0 kPUT).hop + 4 * bnat (pkt0 kPUT).rpl) + (pkt0 kPUT).bytes := by decide +kernel

theorem witness_PortAndLinkEvents :
    ((∀ st ∈ [PortState.down, .train, .up, .failed], ((atPort st Arg.zero).port 0).st = st)) ∧
    (let s : State := { State.reset with ports := [(0, { FPort.reset with st := .up, unacked := 64, replay := [{ seq := 0, pkt := pkt0 kPUT }], rounds := 32 })],
                                         arg := { Arg.zero with v := 4096 } }
     let x := (portClock s 0).port 0
     64 ≤ x.unacked ∧ x.unackedSince + 128 ≤ x.time ∧ x.replay ≠ [] ∧ x.ackTime + 4096 ≤ x.time ∧ 32 ≤ (s.port 0).rounds) ∧
    (let x := (portClock (atPort .up Arg.zero) 0).port 0
     x.unacked < 64 ∧ x.unacked = 0 ∧ x.time < x.ackTime + 4096 ∧ ((atPort .up Arg.zero).port 0).rounds < 32 ∧ ((atPort .up Arg.zero).port 0).waiting = [] ∧
       ∀ i, i < 36 → ((atPort .up Arg.zero).port i).input = []) ∧
    (let pl : Place := { cmd := 7, pkt := { pkt0 kPUT with ddev := 5 }, retry := none }
     let s : State := { State.reset with clusters := [(0, { c0 with places := [(0, pl)] })], arg := { Arg.zero with flag := true, i := 5 } }
     (s.cluster 0).places = [(0, pl)] ∧ pl.pkt.ddev = s.arg.i ∧ (∀ j, j < 48 → j ≠ 0 → (s.cluster j).places = [])) ∧
    (let s : State := { State.reset with ports := [(0, { FPort.reset with waiting := [pkt0 kPUT] })] }
     (s.port s.arg.k).waiting = [pkt0 kPUT] ∧ (s.port s.arg.k).replay = [] ∧ (s.port s.arg.k).input = [] ∧ (pkt0 kPUT).sdev = s.deviceNo ∧ (pkt0 kPUT).rpl = false ∧
       { pkt0 kPUT with sdev := 5 }.sdev ≠ s.deviceNo ∧ s.arg.flag = false) := by
  and_intros <;> decide +kernel

theorem witness_FrameOfScalarInstructions :
    base.issuing 0 0 = true ∧ slotOf (.add 0 3 1 2) ≠ none ∧ registerOnly base 0 0 (.add 0 3 1 2) = true ∧ (base.context 0 0).loops = [] ∧
      (match exec (.add 0 3 1 2) base with | .next t => decide ((t.context 0 0).flights.length = 1) | _ => false) = true := by decide +kernel

/-- A bundle of one NOP with two issues. -/
def idle2 : Bundle := { Bundle.single .a ((encode (.nopA 0)).getD (.a, 0)).2 with rep := 1 }

theorem witness_BundlesIssueOrPass :
    (running base 0 0 idle2.rep.toNat ∧ (∀ n, n < 4 → (base.context 0 n).unparked = none) ∧ (base.context 0 0).loops = []) ∧ idleBundle (base.context 0 0) idle2 ∧
    { idle2 with rsv := 1 }.rsv ≠ 0 ∧ (∃ r, decodeWord .s 0x0FFF_FFFF_FFFF_FFFF = .error r) ∧
    skippable (base.cluster 0) (base.context 0 0) (Bundle.single .s ((encode (.add 1 3 1 2)).getD (.s, 0)).2) = true ∧
    skippable (base.cluster 0) (base.context 0 0) (Bundle.single .s ((encode (.add 0 3 1 2)).getD (.s, 0)).2) = false := by
  refine ⟨by decide +kernel, ⟨by decide, by decide, by decide, by decide, ?_⟩, by decide, ⟨_, rfl⟩, by decide +kernel, by decide +kernel⟩
  intro p hp
  refine ⟨.nopA 0, ?_, rfl, by decide⟩
  have : p = (.a, 0) := by
    revert p
    decide
  subst this
  rfl

/-- A Context with a level that ends behind a bundle of 12 bytes. -/
def looping (n : Nat) (x : Context) : Context := { x with loops := [{ count := n, start := 0x100, stop := 0x10C, yield := 0x200, swp := true }], mode := true }

theorem witness_BundlesIssueOrPass_loops :
    (∃ l r, (looping 2 runs).loops = [] ++ l :: r ∧ 2 ≤ l.count ∧ runs.pc + BitVec.ofNat 64 11 = l.stop - 1) ∧
    (∃ l, (looping 1 runs).loops = [l] ∧ l.count = 1 ∧ runs.pc + BitVec.ofNat 64 11 = l.stop - 1) ∧
    (running (at0 (looping 2 { runs with stopf := true }) c0) 0 0 0 ∧ (base.context 0 0).rest = ((at0 (looping 2 runs) c0).context 0 0).rest) ∧
    (let s := at0 { runs with bcount := 4 } { c0 with smax := 4 }
     onTurn s 0 0 ∧ (s.context 0 0).iter = 0 ∧ (s.context 0 0).h = false ∧ (s.cluster 0).smax ≠ 0 ∧ (s.cluster 0).smax.toNat ≤ (s.context 0 0).bcount.toNat ∧
       runaway (s.cluster 0) (s.context 0 0) = true) ∧
    idle2.rep.toNat < ((at0 { runs with iter := 2 } c0).context 0 0).iter :=
  ⟨⟨_, _, rfl, by decide, rfl⟩, ⟨_, rfl, rfl, rfl⟩, by decide +kernel, by decide +kernel, by decide⟩

/-- The word of an instruction, and a bundle of an S and an A word. -/
def wordIn (i : Instr) : Word := ((encode i).getD (.a, 0)).2
def pairOf (v w : Word) : Bundle := { Bundle.single .s v with a := some w }
/-- The address a1 + 8, stepping. -/
def stepping (g : Reg4) : AMem := { g := g, b := 1, w := .b64, ord := .plain, scope := 0, off := 8, step := 2 }
/-- A bundle of no words that re-issues the sticky ones. -/
def kept : Bundle := { Bundle.single .a 0 with a := none, keep := true }

theorem witness_BundlesIssueOrPass_slots :
    (let b := pairOf (wordIn (.add 0 3 1 2)) (wordIn (.aadd (stepping 0) 4))
     running base 0 0 b.rep.toNat ∧ b.words = [(.s, wordIn (.add 0 3 1 2)), (.a, wordIn (.aadd (stepping 0) 4))] ∧ b.rsv = 0 ∧ b.hwin = false ∧ b.keep = false ∧ b.rep = 0 ∧
       decodeWord .s (wordIn (.add 0 3 1 2)) = .ok (.add 0 3 1 2) ∧ decodeWord .a (wordIn (.aadd (stepping 0) 4)) = .ok (.aadd (stepping 0) 4) ∧
       (base.context 0 0).readyA 1 = true ∧ ((at0 { runs with flights := [flightA 1 9 3] } c0).context 0 0).flying (.a 1) = true) ∧
    (let b := pairOf (wordIn (.twaitImm 0 3 0 0 0)) (BitVec.allOnes 64)
     let s := at0 { runs with toks := [(3, pendingTok)] } c0
     running s 0 0 b.rep.toNat ∧ decodeWord .s (wordIn (.twaitImm 0 3 0 0 0)) = .ok (.twaitImm 0 3 0 0 0) ∧
       (∃ f, decodeWord .a (BitVec.allOnes 64) = .error f) ∧ [3].any (fun t => !tokenDone (s.context 0 0) t && !((s.context 0 0).tok t).cmds.isEmpty) = true) :=
  ⟨by decide +kernel, by decide +kernel, rfl, ⟨_, rfl⟩, by decide⟩

theorem witness_BundlesIssueOrPass_sticky :
    let w := wordIn (.aadd (stepping 0) 4)
    let x : Context := { runs with a := [(1, 0x1000)], sticky := { StickySet.none with a := some { word := w, n := 4 } } }
    let y : Context := { runs with iter := 1 }
    issuesOnly x kept .a w 5 true ∧ issuesOnly y { Bundle.single .a w with rep := 1 } .a w 1 false ∧ decodeWord .a w = .ok (.aadd (stepping 0) 4) ∧
      decodeFault x .a (.aadd (stepping 0) 4) 0 true = none ∧ running (at0 x c0) 0 0 kept.rep.toNat ∧ x.on 0 = true ∧ x.on 1 = false ∧ x.readyP 1 = true := by
  refine ⟨⟨rfl, rfl, by decide, .inr ⟨rfl, rfl, rfl, 4, rfl, ?_⟩⟩, ⟨rfl, rfl, by decide, .inl ⟨rfl, rfl, rfl, rfl⟩⟩, rfl, by decide, by decide +kernel, by decide⟩
  intro q
  cases q <;> rfl

/-- A core with the words of `add` at its PC. -/
def fetching : State := base.withFetchWord 96 (0x80000000 + 2 ^ 32 * ((encode (.add 0 3 1 2)).getD (.s, 0)).2.toNat)

theorem witness_StepRunsWhatIsNext :
    (fetching.agenda = [] ∧ fetching.tripped = false ∧ fetching.cur < Config.clusters ∧ fetching.urgent fetching.cur = none ∧
      (fetching.cluster fetching.cur).runCtx = some 0 ∧ (fetching.context fetching.cur 0).trapPending = none ∧ (fetching.context fetching.cur 0).errors = []) ∧
    (∃ bs u b, fetching.fetch fetching.cur 0 = (.ok bs, u) ∧ decodeBundle bs = some (b, []) ∧ b.instr = .ok (.add 0 3 1 2) ∧
      skippable (u.cluster fetching.cur) (u.context fetching.cur 0) b = false) ∧
    (let s : State := { base with agenda := [.event .idleClk Arg.zero] }
     s.agenda = [.event .idleClk Arg.zero] ∧ isEvent .idleClk = true ∧ namesPart .idleClk Arg.zero = true ∧ s.tripped = false) ∧
    namesPart .idleClk { Arg.zero with k := 48 } = false ∧
    (let s : State := at0 { runs with trapPending := some some0, errors := [some0] } c0
     s.agenda = [] ∧ s.tripped = false ∧ s.cur < Config.clusters ∧ s.urgent s.cur = none ∧ (s.cluster s.cur).runCtx = some 0 ∧ (s.context s.cur 0).errors ≠ [] ∧ (s.context s.cur 0).h = false) :=
  ⟨by decide +kernel, ⟨_, _, _, rfl, rfl, by decide +kernel, by decide +kernel⟩, by decide, by decide, by decide +kernel⟩

theorem witness_StepsKeepMemoryCanonical : State.reset.memoriesCanonical ∧ (match step fetching with | .next _ => true | _ => false) = true :=
  ⟨fun _ => ⟨rfl, rfl, rfl, rfl⟩, by decide +kernel⟩

theorem witness_DecodingInvertsEncoding :
    (∃ sl w, encode (.add 0 3 1 2) = some (sl, w) ∧ legal (.add 0 3 1 2) = true ∧ decodeWord sl w = .ok (.add 0 3 1 2)) := ⟨_, _, rfl, by decide, rfl⟩

theorem witness_MinimumVersionNeverFalls : ∃ t, step fetching = .next t := by
  have h : (match step fetching with | .next _ => true | _ => false) = true := by decide +kernel
  revert h
  cases step fetching with
  | next t => exact fun _ => ⟨t, rfl⟩
  | fault _ => simp
  | refused _ => simp

/-! Words of every slot instruction, written field by field from the manual's formats (03 R67-R73), codes (04 R88-R91) and tables (05 R115, 06 R128, 08 R189, 09 R227, 10 R248, 11 R258, R273, 12 R283, 14 R307, 15 R320, 17 R365, R367, 18 R369, 19 R403). -/

/-- An S word: guard, opcode, destination, sources a and b, sub-function, immediate. -/
def wS (g op d a b sub imm : Nat) : Word := BitVec.ofNat 64 (g * 2 ^ 60 + op * 2 ^ 52 + d * 2 ^ 47 + a * 2 ^ 42 + b * 2 ^ 37 + sub * 2 ^ 32 + imm)
/-- An A word: guard, opcode, data operand, base, kind, width, ordering, scope, offset, step. -/
def wA (g op data base kind w ord scope off step : Nat) : Word :=
  BitVec.ofNat 64 (g * 2 ^ 60 + op * 2 ^ 52 + data * 2 ^ 47 + base * 2 ^ 43 + kind * 2 ^ 40 + w * 2 ^ 38 + ord * 2 ^ 36 + scope * 2 ^ 32 + off * 2 ^ 12 + step)
/-- A V word: guard, opcode, destination, sources 1 to 3, type, rounding, FTZ, PEEK, NEED, IMM. -/
def wV (g op d s1 s2 s3 ty rnd ftz peek need imm : Nat) : Word :=
  BitVec.ofNat 64 (g * 2 ^ 60 + op * 2 ^ 52 + d * 2 ^ 44 + s1 * 2 ^ 36 + s2 * 2 ^ 28 + s3 * 2 ^ 20 + ty * 2 ^ 16 + rnd * 2 ^ 13 + ftz * 2 ^ 12 + peek * 2 ^ 11 + need * 2 ^ 8 + imm)
/-- An E word: guard, opcode, Token produced, Tokens consumed, command fields. -/
def wE (g op kp ka kb kc cmd : Nat) : Word := BitVec.ofNat 64 (g * 2 ^ 60 + op * 2 ^ 52 + kp * 2 ^ 46 + ka * 2 ^ 40 + kb * 2 ^ 34 + kc * 2 ^ 28 + cmd)

theorem test_words_s0 :
    decodeWord .s (wS 5 0x00 0 0 0 0 0x0) = .ok (.nop 5) ∧
    decodeWord .s (wS 5 0x01 3 0 0 0 0x89ABCDEF) = .ok (.li 5 3 0x89ABCDEF) ∧
    decodeWord .s (wS 5 0x02 3 1 0 0 0x12345678) = .ok (.lih 5 3 1 0x12345678) ∧
    decodeWord .s (wS 5 0x03 3 1 0 0 0x0) = .ok (.mov 5 3 1) ∧
    decodeWord .s (wS 5 0x04 3 1 31 0 0x0) = .ok (.add 5 3 1 31) ∧
    decodeWord .s (wS 5 0x06 3 1 31 0 0x0) = .ok (.sub 5 3 1 31) ∧
    decodeWord .s (wS 5 0x07 3 1 31 0 0x0) = .ok (.mul 5 3 1 31) ∧
    decodeWord .s (wS 5 0x08 3 1 31 0 0x0) = .ok (.mulh 5 3 1 31) ∧
    decodeWord .s (wS 5 0x09 3 1 31 0 0x0) = .ok (.mulhn 5 3 1 31) ∧
    decodeWord .s (wS 5 0x0A 3 1 31 0 0x0) = .ok (.div 5 3 1 31) ∧
    decodeWord .s (wS 5 0x0B 3 1 31 0 0x0) = .ok (.divn 5 3 1 31) ∧
    decodeWord .s (wS 5 0x0C 3 1 31 0 0x0) = .ok (.rem 5 3 1 31) ∧
    decodeWord .s (wS 5 0x0D 3 1 31 0 0x0) = .ok (.remn 5 3 1 31) ∧
    decodeWord .s (wS 5 0x0E 3 1 31 0 0x0) = .ok (.and 5 3 1 31) :=
  ⟨rfl, rfl, rfl, rfl, rfl, rfl, rfl, rfl, rfl, rfl, rfl, rfl, rfl, rfl⟩

theorem test_words_s1 :
    decodeWord .s (wS 5 0x10 3 1 31 0 0x0) = .ok (.or 5 3 1 31) ∧
    decodeWord .s (wS 5 0x12 3 1 31 0 0x0) = .ok (.xor 5 3 1 31) ∧
    decodeWord .s (wS 5 0x14 3 1 31 0 0x0) = .ok (.shl 5 3 1 31) ∧
    decodeWord .s (wS 5 0x16 3 1 31 0 0x0) = .ok (.shr 5 3 1 31) ∧
    decodeWord .s (wS 5 0x18 3 1 31 0 0x0) = .ok (.sar 5 3 1 31) ∧
    decodeWord .s (wS 5 0x1A 3 1 31 0 0x0) = .ok (.min 5 3 1 31) ∧
    decodeWord .s (wS 5 0x1B 3 1 31 0 0x0) = .ok (.minn 5 3 1 31) ∧
    decodeWord .s (wS 5 0x1C 3 1 31 0 0x0) = .ok (.max 5 3 1 31) ∧
    decodeWord .s (wS 5 0x1D 3 1 31 0 0x0) = .ok (.maxn 5 3 1 31) ∧
    decodeWord .s (wS 5 0x05 3 1 0 0 0xFFFFFFFE) = .ok (.addi 5 3 1 0xFFFFFFFE) ∧
    decodeWord .s (wS 5 0x0F 3 1 0 0 0xFFFFFFFE) = .ok (.andi 5 3 1 0xFFFFFFFE) ∧
    decodeWord .s (wS 5 0x11 3 1 0 0 0xFFFFFFFE) = .ok (.ori 5 3 1 0xFFFFFFFE) ∧
    decodeWord .s (wS 5 0x13 3 1 0 0 0xFFFFFFFE) = .ok (.xori 5 3 1 0xFFFFFFFE) ∧
    decodeWord .s (wS 5 0x15 3 1 0 0 0x3F) = .ok (.shli 5 3 1 63) :=
  ⟨rfl, rfl, rfl, rfl, rfl, rfl, rfl, rfl, rfl, rfl, rfl, rfl, rfl, rfl⟩

theorem test_words_s2 :
    decodeWord .s (wS 5 0x17 3 1 0 0 0x3F) = .ok (.shri 5 3 1 63) ∧
    decodeWord .s (wS 5 0x19 3 1 0 0 0x3F) = .ok (.sari 5 3 1 63) ∧
    decodeWord .s (wS 5 0x1E 3 1 0 0 0x0) = .ok (.clz 5 3 1) ∧
    decodeWord .s (wS 5 0x1F 3 1 0 0 0x0) = .ok (.ctz 5 3 1) ∧
    decodeWord .s (wS 5 0x20 3 1 0 0 0x0) = .ok (.popc 5 3 1) ∧
    decodeWord .s (wS 5 0x21 3 1 0 1 0x704) = .ok (.bfx 5 3 1 true 4 7) ∧
    decodeWord .s (wS 5 0x22 3 1 31 0 0x704) = .ok (.bfi 5 3 1 31 4 7) ∧
    decodeWord .s (wS 5 0x23 3 1 31 1 0x0) = .ok (.adds 5 3 1 31 true) ∧
    decodeWord .s (wS 5 0x24 3 1 31 9 0x0) = .ok (.sel 5 3 1 31 9) ∧
    decodeWord .s (wS 5 0x28 6 1 31 9 0x0) = .ok (.cmp 5 6 1 31 .gtn) ∧
    decodeWord .s (wS 5 0x29 6 1 0 2 0x64) = .ok (.cmpi 5 6 1 .lt 100) ∧
    decodeWord .s (wS 5 0x2A 6 1 15 0 0x0) = .ok (.pand 5 6 1 15) ∧
    decodeWord .s (wS 5 0x2B 6 1 15 0 0x0) = .ok (.por 5 6 1 15) ∧
    decodeWord .s (wS 5 0x2C 6 1 15 0 0x0) = .ok (.pxor 5 6 1 15) :=
  ⟨rfl, rfl, rfl, rfl, rfl, rfl, rfl, rfl, rfl, rfl, rfl, rfl, rfl, rfl⟩

theorem test_words_s3 :
    decodeWord .s (wS 5 0x2D 6 1 15 0 0x0) = .ok (.pandn 5 6 1 15) ∧
    decodeWord .s (wS 5 0x2E 6 0 0 0 0x10000) = .ok (.psetImm 5 6 0 256) ∧
    decodeWord .s (wS 5 0x2E 6 7 0 1 0x0) = .ok (.psetReg 5 6 7) ∧
    decodeWord .s (wS 5 0x2F 3 9 0 0 0x0) = .ok (.pcnt 5 3 9) ∧
    decodeWord .s (wS 5 0x30 0 0 0 2 0xFFFFFFF0) = .ok (.br 5 2 0xFFFFFFF0) ∧
    decodeWord .s (wS 5 0x31 0 4 0 1 0x0) = .ok (.brx 5 4 1) ∧
    decodeWord .s (wS 5 0x32 3 0 0 0 0x40) = .ok (.call 5 3 0x40) ∧
    decodeWord .s (wS 5 0x33 3 4 0 0 0x0) = .ok (.callx 5 3 4) ∧
    decodeWord .s (wS 5 0x34 0 4 0 0 0x0) = .ok (.ret 5 4) ∧
    decodeWord .s (wS 5 0x35 0 4 0 0 0x90020) = .ok (.loop 5 4 9 0x20) ∧
    decodeWord .s (BitVec.ofNat 64 (5 * 2 ^ 60 + 0x36 * 2 ^ 52 + 0x7FFF * 2 ^ 37 + 9 * 2 ^ 16 + 0x20)) = .ok (.loopi 5 0x7FFF 9 0x20) ∧
    decodeWord .s (wS 5 0x37 0 4 0 1 0x90020) = .ok (.loopSwp 5 4 1 9 0x20) ∧
    decodeWord .s (wS 5 0x40 0 6 0 13 0x0) = .ok (.spawnLocal 5 6 5 true) ∧
    decodeWord .s (wS 5 0x40 2 6 7 21 0x0) = .ok (.spawnRemote 5 2 6 7 5 false) :=
  ⟨rfl, rfl, rfl, rfl, rfl, rfl, rfl, rfl, rfl, rfl, rfl, rfl, rfl, rfl⟩

theorem test_words_s4 :
    decodeWord .s (wS 5 0x41 2 0 0 0 0x0) = .ok (.joinParent 5 2) ∧
    decodeWord .s (wS 5 0x41 0 6 0 1 0x0) = .ok (.joinRecord 5 6) ∧
    decodeWord .s (wS 5 0x42 0 0 0 0 0x0) = .ok (.endt 5) ∧
    decodeWord .s (wS 5 0x43 0 0 0 0 0xFFFFFFF0) = .ok (.yield 5 0xFFFFFFF0) ∧
    decodeWord .s (wS 5 0x48 3 0 0 0 0x9) = .ok (.mfs 5 3 0x09) ∧
    decodeWord .s (wS 5 0x49 0 4 0 0 0x9) = .ok (.mts 5 4 0x09) ∧
    decodeWord .s (wS 5 0x4A 0 0 0 0 0xABCD) = .ok (.trap 5 0xABCD) ∧
    decodeWord .s (wS 5 0x4B 0 0 0 0 0x0) = .ok (.eret 5) ∧
    decodeWord .s (wS 5 0x4C 0 0 0 0 0xABCD) = .ok (.sys 5 0xABCD) ∧
    decodeWord .s (wS 5 0x4D 3 0 0 0 0x7) = .ok (.rdtr 5 3 7) ∧
    decodeWord .s (wS 5 0x4E 3 4 15 0 0x0) = .ok (.ctxsave 5 3 4 15) ∧
    decodeWord .s (wS 5 0x4F 3 4 15 0 0x0) = .ok (.ctxload 5 3 4 15) ∧
    decodeWord .s (wS 5 0x50 0 4 0 1 0x0) = .ok (.park 5 4 true) ∧
    decodeWord .s (wS 5 0x51 3 4 0 0 0x0) = .ok (.ptest 5 3 4) :=
  ⟨rfl, rfl, rfl, rfl, rfl, rfl, rfl, rfl, rfl, rfl, rfl, rfl, rfl, rfl⟩

theorem test_words_s5 :
    decodeWord .s (wS 5 0x60 0 0 0 0 0xFC3081) = .ok (.twaitImm 5 1 2 3 63) ∧
    decodeWord .s (wS 5 0x60 0 4 0 1 0x0) = .ok (.twaitReg 5 4) ∧
    decodeWord .s (wS 5 0x61 6 0 0 0 0xFC3081) = .ok (.ttestPred 5 6 1 2 3 63) ∧
    decodeWord .s (wS 5 0x61 6 4 0 1 0x0) = .ok (.ttestPredReg 5 6 4) ∧
    decodeWord .s (wS 5 0x61 3 0 0 2 0x3F) = .ok (.ttestScalar 5 3 63) ∧
    decodeWord .s (wS 5 0x62 0 0 0 2 0xF8C41) = .ok (.hwaitImm 5 true 1 2 3 31) ∧
    decodeWord .s (wS 5 0x62 0 4 0 3 0x0) = .ok (.hwaitReg 5 true 4) ∧
    decodeWord .s (wS 5 0x63 6 0 0 4 0xF8C41) = .ok (.htestPred 5 true 6 1 2 3 31) ∧
    decodeWord .s (wS 5 0x63 6 4 0 5 0x0) = .ok (.htestPredReg 5 true 6 4) ∧
    decodeWord .s (wS 5 0x63 3 0 0 2 0x1F) = .ok (.htestScalar 5 3 31) ∧
    decodeWord .s (wS 5 0x63 3 0 0 3 0x1F) = .ok (.htestOff 5 3 31) ∧
    decodeWord .s (wS 5 0x64 0 4 0 0 0x61F) = .ok (.gbar 5 6 4 31) ∧
    decodeWord .s (wS 5 0x65 3 4 0 0 0x3F061F) = .ok (.gbarArrive 5 6 3 4 31 63) ∧
    decodeWord .s (wS 5 0x66 0 4 7 0 0x600) = .ok (.gbarWait 5 6 4 7) :=
  ⟨rfl, rfl, rfl, rfl, rfl, rfl, rfl, rfl, rfl, rfl, rfl, rfl, rfl, rfl⟩

theorem test_words_a0 :
    decodeWord .a (wA 5 0x00 0 0 0 0 0 0 0x0 0x0) = .ok (.nopA 5) ∧
    decodeWord .a (wA 5 0x01 17 9 0 1 1 2 0xFFFF0 0x810) = .ok (.ld { g := 5, b := 9, w := .b16, ord := .acq, scope := 2, off := 0xFFFF0, step := 0x810 } (.s 17)) ∧
    decodeWord .a (wA 5 0x01 7 9 2 2 0 0 0xFFFF0 0x810) = .ok (.ld { g := 5, b := 9, w := .b32, ord := .plain, scope := 0, off := 0xFFFF0, step := 0x810 } (.a 7)) ∧
    decodeWord .a (wA 5 0x01 4 9 3 3 0 0 0xFFFF0 0x810) = .ok (.ld { g := 5, b := 9, w := .b64, ord := .plain, scope := 0, off := 0xFFFF0, step := 0x810 } (.p 4)) ∧
    decodeWord .a (wA 5 0x02 17 9 0 0 3 9 0xFFFF0 0x810) = .ok (.ldn { g := 5, b := 9, w := .b8, ord := .sc, scope := 9, off := 0xFFFF0, step := 0x810 } (.s 17)) ∧
    decodeWord .a (wA 5 0x03 17 9 0 3 2 1 0xFFFF0 0x810) = .ok (.st { g := 5, b := 9, w := .b64, ord := .rel, scope := 1, off := 0xFFFF0, step := 0x810 } (.s 17)) ∧
    decodeWord .a (wA 5 0x04 3 9 1 2 0 0 0xFFFF0 0x810) = .ok (.ldv { g := 5, b := 9, w := .b32, ord := .plain, scope := 0, off := 0xFFFF0, step := 0x810 } 3) ∧
    decodeWord .a (wA 5 0x05 13 9 1 0 0 0 0xFFFF0 0x810) = .ok (.stv { g := 5, b := 9, w := .b8, ord := .plain, scope := 0, off := 0xFFFF0, step := 0x810 } 13) ∧
    decodeWord .a (wA 5 0x06 3 9 1 1 0 0 0xFFFF0 0x810) = .ok (.ldg { g := 5, b := 9, w := .b16, ord := .plain, scope := 0, off := 0xFFFF0, step := 0x810 } 3) ∧
    decodeWord .a (wA 5 0x07 3 9 1 2 0 0 0xFFFF0 0x810) = .ok (.sts { g := 5, b := 9, w := .b32, ord := .plain, scope := 0, off := 0xFFFF0, step := 0x810 } 3) ∧
    decodeWord .a (wA 5 0x08 3 9 4 3 0 0 0xFFFF0 0x810) = .ok (.ldb { g := 5, b := 9, w := .b64, ord := .plain, scope := 0, off := 0xFFFF0, step := 0x810 } .wb 3) ∧
    decodeWord .a (wA 5 0x09 12 9 5 1 0 0 0xFFFF0 0x810) = .ok (.stb { g := 5, b := 9, w := .b16, ord := .plain, scope := 0, off := 0xFFFF0, step := 0x810 } .ab 12) ∧
    decodeWord .a (wA 5 0x0A 0 9 0 2 0 0 0xFFFF0 0x810) = .ok (.baste { g := 5, b := 9, w := .b32, ord := .plain, scope := 0, off := 0xFFFF0, step := 0x810 }) ∧
    decodeWord .a (wA 5 0x10 7 9 2 2 0 0 0xFFFF0 0x810) = .ok (.aadd { g := 5, b := 9, w := .b32, ord := .plain, scope := 0, off := 0xFFFF0, step := 0x810 } 7) :=
  ⟨rfl, rfl, rfl, rfl, rfl, rfl, rfl, rfl, rfl, rfl, rfl, rfl, rfl, rfl⟩

theorem test_words_a1 :
    decodeWord .a (wA 5 0x11 17 9 0 0 0 0 0x0 0x0) = .ok (.amov 5 (.s 17) 9) ∧
    decodeWord .a (wA 5 0x11 7 9 2 0 0 0 0x0 0x0) = .ok (.amov 5 (.a 7) 9) ∧
    decodeWord .a (wA 5 0x12 7 0 2 0 0 0 0x89ABC 0xDEF) = .ok (.ali 5 7 0x89ABCDEF) ∧
    decodeWord .a (wA 5 0x13 7 9 2 0 0 0 0x89ABC 0xDEF) = .ok (.alih 5 7 9 0x89ABCDEF) ∧
    decodeWord .a (wA 5 0x14 17 9 0 0 0 0 0x6 0x0) = .ok (.aofs 5 17 9 6) ∧
    decodeWord .a (wA 5 0x15 7 9 2 0 0 0 0x151 0x0) = .ok (.sofa 5 7 9 17 10 false) ∧
    decodeWord .a (wA 5 0x15 7 0 2 0 0 0 0x351 0x0) = .ok (.sofa 5 7 0 17 10 true) ∧
    decodeWord .a (wA 5 0x20 17 9 0 3 1 4 0x12345 0x2B3) = .ok (.amoCas { g := 5, b := 9, w := .b64, ord := .acq, scope := 4, off := 0x12345, d := 17, v := 19, c := 21 }) ∧
    decodeWord .a (wA 5 0x21 17 9 0 3 1 4 0x12345 0x13) = .ok (.amoSwap { g := 5, b := 9, w := .b64, ord := .acq, scope := 4, off := 0x12345, d := 17, v := 19, c := 0 }) ∧
    decodeWord .a (wA 5 0x22 17 9 0 3 1 4 0x12345 0x13) = .ok (.amoAdd { g := 5, b := 9, w := .b64, ord := .acq, scope := 4, off := 0x12345, d := 17, v := 19, c := 0 }) ∧
    decodeWord .a (wA 5 0x23 17 9 0 2 1 4 0x12345 0x13) = .ok (.amoFadd { g := 5, b := 9, w := .b32, ord := .acq, scope := 4, off := 0x12345, d := 17, v := 19, c := 0 }) ∧
    decodeWord .a (wA 5 0x24 17 9 0 3 1 4 0x12345 0x13) = .ok (.amoMin { g := 5, b := 9, w := .b64, ord := .acq, scope := 4, off := 0x12345, d := 17, v := 19, c := 0 }) ∧
    decodeWord .a (wA 5 0x25 17 9 0 3 1 4 0x12345 0x13) = .ok (.amoMax { g := 5, b := 9, w := .b64, ord := .acq, scope := 4, off := 0x12345, d := 17, v := 19, c := 0 }) ∧
    decodeWord .a (wA 5 0x26 17 9 0 3 1 4 0x12345 0x13) = .ok (.amoAnd { g := 5, b := 9, w := .b64, ord := .acq, scope := 4, off := 0x12345, d := 17, v := 19, c := 0 }) :=
  ⟨rfl, rfl, rfl, rfl, rfl, rfl, rfl, rfl, rfl, rfl, rfl, rfl, rfl, rfl⟩

theorem test_words_a2 :
    decodeWord .a (wA 5 0x27 17 9 0 3 1 4 0x12345 0x13) = .ok (.amoOr { g := 5, b := 9, w := .b64, ord := .acq, scope := 4, off := 0x12345, d := 17, v := 19, c := 0 }) ∧
    decodeWord .a (wA 5 0x28 17 9 0 3 1 4 0x12345 0x13) = .ok (.amoXor { g := 5, b := 9, w := .b64, ord := .acq, scope := 4, off := 0x12345, d := 17, v := 19, c := 0 }) ∧
    decodeWord .a (wA 5 0x30 0 0 0 0 3 9 0x0 0x0) = .ok (.fence 5 .sc 9) ∧
    decodeWord .a (wA 5 0x31 17 9 0 3 1 3 0x12345 0x7) = .ok (.waitm 5 9 .b64 true 3 0x12345 17 .gen) ∧
    decodeWord .a (wA 5 0x40 2 0 1 0 0 0 0x560 0x0) = .ok (.pcfg 5 2 32 5 true) ∧
    decodeWord .a (wA 5 0x41 13 0 1 0 0 0 0x20 0x0) = .ok (.padv 5 13 32) ∧
    decodeWord .a (wA 5 0x42 13 0 1 0 0 0 0x9 0x0) = .ok (.pwaitFill 5 13 9) ∧
    decodeWord .a (wA 5 0x42 13 0 1 0 0 0 0x49 0x0) = .ok (.pwaitFree 5 13 9) ∧
    decodeWord .a (wA 5 0x43 17 13 0 0 0 0 0x0 0x0) = .ok (.pquery 5 17 13) ∧
    decodeWord .a (wA 5 0x44 3 9 5 0 0 0 0xFFFC0 0x0) = .ok (.agset 5 3 9 0xFFFC0) ∧
    decodeWord .a (wA 5 0x44 3 0 1 0 0 0 0x0 0x0) = .ok (.agsetDetach 5 3) ∧
    decodeWord .a (wA 5 0x50 0 9 0 0 0 0 0x12345 0x0) = .ok (.tlbinv 5 9 0x12345) ∧
    decodeWord .a (wA 5 0x51 0 0 0 0 0 0 0x0 0x0) = .ok (.tlbinvAll 5) ∧
    decodeWord .a (wA 5 0x52 17 0 0 0 0 0 0x0 0x0) = .ok (.tlbinvAsid 5 17) :=
  ⟨rfl, rfl, rfl, rfl, rfl, rfl, rfl, rfl, rfl, rfl, rfl, rfl, rfl, rfl⟩

theorem test_words_v0 :
    decodeWord .v0 (wV 5 0x00 0x40 0x83 0xC6 0x00 0 0 0 0 0 0x00) = .ok (.vadd { slot := .v0, g := 5, d := 0x40, s1 := 0x83, s2 := 0xC6, s3 := 0x00, ty := 0, rnd := 0, ftz := false, peek := false, need := 0, imm := 0x00 }) ∧
    decodeWord .v0 (wV 5 0x01 0x40 0x83 0xC6 0x00 1 0 0 0 0 0x00) = .ok (.vsub { slot := .v0, g := 5, d := 0x40, s1 := 0x83, s2 := 0xC6, s3 := 0x00, ty := 1, rnd := 0, ftz := false, peek := false, need := 0, imm := 0x00 }) ∧
    decodeWord .v0 (wV 5 0x02 0x40 0x83 0xC6 0x00 2 0 0 0 0 0x00) = .ok (.vmul { slot := .v0, g := 5, d := 0x40, s1 := 0x83, s2 := 0xC6, s3 := 0x00, ty := 2, rnd := 0, ftz := false, peek := false, need := 0, imm := 0x00 }) ∧
    decodeWord .v0 (wV 5 0x03 0x40 0x83 0xC6 0x00 3 0 0 0 0 0x00) = .ok (.vmulh { slot := .v0, g := 5, d := 0x40, s1 := 0x83, s2 := 0xC6, s3 := 0x00, ty := 3, rnd := 0, ftz := false, peek := false, need := 0, imm := 0x00 }) ∧
    decodeWord .v0 (wV 5 0x04 0x40 0x83 0x45 0x13 4 0 0 1 7 0x00) = .ok (.vmad { slot := .v0, g := 5, d := 0x40, s1 := 0x83, s2 := 0x45, s3 := 0x13, ty := 4, rnd := 0, ftz := false, peek := true, need := 7, imm := 0x00 }) ∧
    decodeWord .v0 (wV 5 0x05 0x40 0x83 0xC6 0x00 0 0 0 0 0 0x00) = .ok (.vmin { slot := .v0, g := 5, d := 0x40, s1 := 0x83, s2 := 0xC6, s3 := 0x00, ty := 0, rnd := 0, ftz := false, peek := false, need := 0, imm := 0x00 }) ∧
    decodeWord .v0 (wV 5 0x06 0x40 0x83 0xC6 0x00 0 0 0 0 0 0x00) = .ok (.vmax { slot := .v0, g := 5, d := 0x40, s1 := 0x83, s2 := 0xC6, s3 := 0x00, ty := 0, rnd := 0, ftz := false, peek := false, need := 0, imm := 0x00 }) ∧
    decodeWord .v0 (wV 5 0x07 0x40 0x83 0x00 0x00 0 0 0 0 0 0x00) = .ok (.vabs { slot := .v0, g := 5, d := 0x40, s1 := 0x83, s2 := 0x00, s3 := 0x00, ty := 0, rnd := 0, ftz := false, peek := false, need := 0, imm := 0x00 }) ∧
    decodeWord .v0 (wV 5 0x08 0x40 0x83 0x00 0x00 0 0 0 0 0 0x00) = .ok (.vneg { slot := .v0, g := 5, d := 0x40, s1 := 0x83, s2 := 0x00, s3 := 0x00, ty := 0, rnd := 0, ftz := false, peek := false, need := 0, imm := 0x00 }) ∧
    decodeWord .v1 (wV 5 0x09 0x40 0x83 0xC6 0x00 5 0 0 0 0 0x00) = .ok (.vand { slot := .v1, g := 5, d := 0x40, s1 := 0x83, s2 := 0xC6, s3 := 0x00, ty := 5, rnd := 0, ftz := false, peek := false, need := 0, imm := 0x00 }) ∧
    decodeWord .v1 (wV 5 0x0A 0x40 0x83 0xC6 0x00 5 0 0 0 0 0x00) = .ok (.vor { slot := .v1, g := 5, d := 0x40, s1 := 0x83, s2 := 0xC6, s3 := 0x00, ty := 5, rnd := 0, ftz := false, peek := false, need := 0, imm := 0x00 }) ∧
    decodeWord .v1 (wV 5 0x0B 0x40 0x83 0xC6 0x00 5 0 0 0 0 0x00) = .ok (.vxor { slot := .v1, g := 5, d := 0x40, s1 := 0x83, s2 := 0xC6, s3 := 0x00, ty := 5, rnd := 0, ftz := false, peek := false, need := 0, imm := 0x00 }) ∧
    decodeWord .v0 (wV 5 0x0C 0x40 0x83 0x00 0x00 0 0 0 0 0 0x00) = .ok (.vnot { slot := .v0, g := 5, d := 0x40, s1 := 0x83, s2 := 0x00, s3 := 0x00, ty := 0, rnd := 0, ftz := false, peek := false, need := 0, imm := 0x00 }) ∧
    decodeWord .v0 (wV 5 0x0D 0x40 0x83 0xC6 0x00 0 0 0 0 0 0x00) = .ok (.vshl { slot := .v0, g := 5, d := 0x40, s1 := 0x83, s2 := 0xC6, s3 := 0x00, ty := 0, rnd := 0, ftz := false, peek := false, need := 0, imm := 0x00 }) :=
  ⟨rfl, rfl, rfl, rfl, rfl, rfl, rfl, rfl, rfl, rfl, rfl, rfl, rfl, rfl⟩

theorem test_words_v1 :
    decodeWord .v0 (wV 5 0x0E 0x40 0x83 0xC6 0x00 0 0 0 0 0 0x00) = .ok (.vshr { slot := .v0, g := 5, d := 0x40, s1 := 0x83, s2 := 0xC6, s3 := 0x00, ty := 0, rnd := 0, ftz := false, peek := false, need := 0, imm := 0x00 }) ∧
    decodeWord .v0 (wV 5 0x0F 0x40 0x83 0xC6 0x00 0 0 0 0 0 0x00) = .ok (.vsar { slot := .v0, g := 5, d := 0x40, s1 := 0x83, s2 := 0xC6, s3 := 0x00, ty := 0, rnd := 0, ftz := false, peek := false, need := 0, imm := 0x00 }) ∧
    decodeWord .v0 (wV 5 0x10 0x40 0x83 0x00 0x00 0 0 0 0 0 0x00) = .ok (.vclz { slot := .v0, g := 5, d := 0x40, s1 := 0x83, s2 := 0x00, s3 := 0x00, ty := 0, rnd := 0, ftz := false, peek := false, need := 0, imm := 0x00 }) ∧
    decodeWord .v0 (wV 5 0x11 0x40 0x83 0x00 0x00 0 0 0 0 0 0x00) = .ok (.vpopc { slot := .v0, g := 5, d := 0x40, s1 := 0x83, s2 := 0x00, s3 := 0x00, ty := 0, rnd := 0, ftz := false, peek := false, need := 0, imm := 0x00 }) ∧
    decodeWord .v0 (wV 5 0x12 0x40 0x83 0xC6 0x00 0 0 0 0 0 0x00) = .ok (.vadds { slot := .v0, g := 5, d := 0x40, s1 := 0x83, s2 := 0xC6, s3 := 0x00, ty := 0, rnd := 0, ftz := false, peek := false, need := 0, imm := 0x00 }) ∧
    decodeWord .v0 (wV 5 0x13 0x40 0x83 0xC6 0x00 0 0 0 0 0 0x00) = .ok (.vsubs { slot := .v0, g := 5, d := 0x40, s1 := 0x83, s2 := 0xC6, s3 := 0x00, ty := 0, rnd := 0, ftz := false, peek := false, need := 0, imm := 0x00 }) ∧
    decodeWord .v0 (wV 5 0x20 0x40 0x83 0xC6 0x00 6 3 1 0 0 0x00) = .ok (.vfadd { slot := .v0, g := 5, d := 0x40, s1 := 0x83, s2 := 0xC6, s3 := 0x00, ty := 6, rnd := 3, ftz := true, peek := false, need := 0, imm := 0x00 }) ∧
    decodeWord .v0 (wV 5 0x21 0x40 0x83 0xC6 0x00 6 3 1 0 0 0x00) = .ok (.vfsub { slot := .v0, g := 5, d := 0x40, s1 := 0x83, s2 := 0xC6, s3 := 0x00, ty := 6, rnd := 3, ftz := true, peek := false, need := 0, imm := 0x00 }) ∧
    decodeWord .v0 (wV 5 0x22 0x40 0x83 0xC6 0x00 6 3 1 0 0 0x00) = .ok (.vfmul { slot := .v0, g := 5, d := 0x40, s1 := 0x83, s2 := 0xC6, s3 := 0x00, ty := 6, rnd := 3, ftz := true, peek := false, need := 0, imm := 0x00 }) ∧
    decodeWord .v0 (wV 5 0x23 0x40 0x83 0x45 0xC6 7 0 0 0 0 0x00) = .ok (.vfma { slot := .v0, g := 5, d := 0x40, s1 := 0x83, s2 := 0x45, s3 := 0xC6, ty := 7, rnd := 0, ftz := false, peek := false, need := 0, imm := 0x00 }) ∧
    decodeWord .v0 (wV 5 0x24 0x40 0x83 0x45 0xC6 8 0 0 0 0 0x00) = .ok (.vfnma { slot := .v0, g := 5, d := 0x40, s1 := 0x83, s2 := 0x45, s3 := 0xC6, ty := 8, rnd := 0, ftz := false, peek := false, need := 0, imm := 0x00 }) ∧
    decodeWord .v0 (wV 5 0x25 0x40 0x83 0xC6 0x00 6 0 0 0 0 0x00) = .ok (.vfmin { slot := .v0, g := 5, d := 0x40, s1 := 0x83, s2 := 0xC6, s3 := 0x00, ty := 6, rnd := 0, ftz := false, peek := false, need := 0, imm := 0x00 }) ∧
    decodeWord .v0 (wV 5 0x26 0x40 0x83 0xC6 0x00 6 0 0 0 0 0x00) = .ok (.vfmax { slot := .v0, g := 5, d := 0x40, s1 := 0x83, s2 := 0xC6, s3 := 0x00, ty := 6, rnd := 0, ftz := false, peek := false, need := 0, imm := 0x00 }) ∧
    decodeWord .v0 (wV 5 0x27 0x40 0x83 0x00 0x00 6 0 0 0 0 0x00) = .ok (.vfabs { slot := .v0, g := 5, d := 0x40, s1 := 0x83, s2 := 0x00, s3 := 0x00, ty := 6, rnd := 0, ftz := false, peek := false, need := 0, imm := 0x00 }) :=
  ⟨rfl, rfl, rfl, rfl, rfl, rfl, rfl, rfl, rfl, rfl, rfl, rfl, rfl, rfl⟩

theorem test_words_v2 :
    decodeWord .v0 (wV 5 0x28 0x40 0x83 0x00 0x00 6 0 0 0 0 0x00) = .ok (.vfneg { slot := .v0, g := 5, d := 0x40, s1 := 0x83, s2 := 0x00, s3 := 0x00, ty := 6, rnd := 0, ftz := false, peek := false, need := 0, imm := 0x00 }) ∧
    decodeWord .v0 (wV 5 0x29 0x40 0x83 0x00 0x00 6 0 0 0 0 0x00) = .ok (.vrcp { slot := .v0, g := 5, d := 0x40, s1 := 0x83, s2 := 0x00, s3 := 0x00, ty := 6, rnd := 0, ftz := false, peek := false, need := 0, imm := 0x00 }) ∧
    decodeWord .v0 (wV 5 0x2A 0x40 0x83 0x00 0x00 6 0 0 0 0 0x00) = .ok (.vrsq { slot := .v0, g := 5, d := 0x40, s1 := 0x83, s2 := 0x00, s3 := 0x00, ty := 6, rnd := 0, ftz := false, peek := false, need := 0, imm := 0x00 }) ∧
    decodeWord .v0 (wV 5 0x2B 0x40 0x83 0x00 0x00 6 0 0 0 0 0x00) = .ok (.vsqrt { slot := .v0, g := 5, d := 0x40, s1 := 0x83, s2 := 0x00, s3 := 0x00, ty := 6, rnd := 0, ftz := false, peek := false, need := 0, imm := 0x00 }) ∧
    decodeWord .v0 (wV 5 0x2C 0x40 0x83 0x00 0x00 6 0 0 0 0 0x00) = .ok (.vexp2 { slot := .v0, g := 5, d := 0x40, s1 := 0x83, s2 := 0x00, s3 := 0x00, ty := 6, rnd := 0, ftz := false, peek := false, need := 0, imm := 0x00 }) ∧
    decodeWord .v0 (wV 5 0x2D 0x40 0x83 0x00 0x00 6 0 0 0 0 0x00) = .ok (.vlog2 { slot := .v0, g := 5, d := 0x40, s1 := 0x83, s2 := 0x00, s3 := 0x00, ty := 6, rnd := 0, ftz := false, peek := false, need := 0, imm := 0x00 }) ∧
    decodeWord .v0 (wV 5 0x2E 0x40 0x83 0x00 0x00 6 0 0 0 0 0x00) = .ok (.vsig { slot := .v0, g := 5, d := 0x40, s1 := 0x83, s2 := 0x00, s3 := 0x00, ty := 6, rnd := 0, ftz := false, peek := false, need := 0, imm := 0x00 }) ∧
    decodeWord .v0 (wV 5 0x30 0x40 0x83 0x00 0x00 6 0 0 0 0 0x07) = .ok (.vcvt { slot := .v0, g := 5, d := 0x40, s1 := 0x83, s2 := 0x00, s3 := 0x00, ty := 6, rnd := 0, ftz := false, peek := false, need := 0, imm := 0x07 }) ∧
    decodeWord .v0 (wV 5 0x31 0x40 0x83 0x00 0x00 7 4 0 0 0 0x06) = .ok (.vcvts { slot := .v0, g := 5, d := 0x40, s1 := 0x83, s2 := 0x00, s3 := 0x00, ty := 7, rnd := 4, ftz := false, peek := false, need := 0, imm := 0x06 }) ∧
    decodeWord .v0 (wV 5 0x32 0x40 0x83 0xC6 0x00 9 0 0 0 0 0x00) = .ok (.vqnt { slot := .v0, g := 5, d := 0x40, s1 := 0x83, s2 := 0xC6, s3 := 0x00, ty := 9, rnd := 0, ftz := false, peek := false, need := 0, imm := 0x00 }) ∧
    decodeWord .v0 (wV 5 0x33 0x40 0x83 0xC6 0x00 9 0 0 0 0 0x00) = .ok (.vdqnt { slot := .v0, g := 5, d := 0x40, s1 := 0x83, s2 := 0xC6, s3 := 0x00, ty := 9, rnd := 0, ftz := false, peek := false, need := 0, imm := 0x00 }) ∧
    decodeWord .v0 (wV 5 0x34 0x40 0x83 0x00 0x00 9 0 0 0 0 0x01) = .ok (.vbmax { slot := .v0, g := 5, d := 0x40, s1 := 0x83, s2 := 0x00, s3 := 0x00, ty := 9, rnd := 0, ftz := false, peek := false, need := 0, imm := 0x01 }) ∧
    decodeWord .v0 (wV 5 0x35 0x40 0x83 0xC6 0x00 6 0 0 0 0 0x00) = .ok (.vscale { slot := .v0, g := 5, d := 0x40, s1 := 0x83, s2 := 0xC6, s3 := 0x00, ty := 6, rnd := 0, ftz := false, peek := false, need := 0, imm := 0x00 }) ∧
    decodeWord .v0 (wV 5 0x36 0x40 0x83 0x45 0xC6 6 0 0 0 0 0x00) = .ok (.vsacc { slot := .v0, g := 5, d := 0x40, s1 := 0x83, s2 := 0x45, s3 := 0xC6, ty := 6, rnd := 0, ftz := false, peek := false, need := 0, imm := 0x00 }) :=
  ⟨rfl, rfl, rfl, rfl, rfl, rfl, rfl, rfl, rfl, rfl, rfl, rfl, rfl, rfl⟩

theorem test_words_v3 :
    decodeWord .v0 (wV 5 0x37 0x40 0x83 0x00 0x00 15 0 0 0 0 0x08) = .ok (.vplane { slot := .v0, g := 5, d := 0x40, s1 := 0x83, s2 := 0x00, s3 := 0x00, ty := 15, rnd := 0, ftz := false, peek := false, need := 0, imm := 0x08 }) ∧
    decodeWord .v0 (wV 5 0x38 0x40 0x83 0x00 0x00 15 0 0 0 0 0x02) = .ok (.vunplane { slot := .v0, g := 5, d := 0x40, s1 := 0x83, s2 := 0x00, s3 := 0x00, ty := 15, rnd := 0, ftz := false, peek := false, need := 0, imm := 0x02 }) ∧
    decodeWord .v0 (wV 5 0x40 0x40 0x83 0xC6 0x00 0 0 0 0 0 0x65) = .ok (.vcmp { slot := .v0, g := 5, d := 0x40, s1 := 0x83, s2 := 0xC6, s3 := 0x00, ty := 0, rnd := 0, ftz := false, peek := false, need := 0, imm := 0x65 }) ∧
    decodeWord .v0 (wV 5 0x41 0x40 0x83 0xC6 0x00 6 0 0 0 0 0x66) = .ok (.vfcmp { slot := .v0, g := 5, d := 0x40, s1 := 0x83, s2 := 0xC6, s3 := 0x00, ty := 6, rnd := 0, ftz := false, peek := false, need := 0, imm := 0x66 }) ∧
    decodeWord .v0 (wV 5 0x42 0x40 0x83 0xC6 0x00 6 0 0 0 0 0x60) = .ok (.vclass { slot := .v0, g := 5, d := 0x40, s1 := 0x83, s2 := 0xC6, s3 := 0x00, ty := 6, rnd := 0, ftz := false, peek := false, need := 0, imm := 0x60 }) ∧
    decodeWord .v0 (wV 5 0x48 0x40 0x83 0xC6 0x00 0 0 0 0 0 0x09) = .ok (.vsel { slot := .v0, g := 5, d := 0x40, s1 := 0x83, s2 := 0xC6, s3 := 0x00, ty := 0, rnd := 0, ftz := false, peek := false, need := 0, imm := 0x09 }) ∧
    decodeWord .v0 (wV 5 0x49 0x40 0x83 0x45 0xC6 0 0 0 0 0 0x00) = .ok (.vperm { slot := .v0, g := 5, d := 0x40, s1 := 0x83, s2 := 0x45, s3 := 0xC6, ty := 0, rnd := 0, ftz := false, peek := false, need := 0, imm := 0x00 }) ∧
    decodeWord .v0 (wV 5 0x4A 0x40 0x83 0xC6 0x00 0 0 0 0 0 0x00) = .ok (.vbcast { slot := .v0, g := 5, d := 0x40, s1 := 0x83, s2 := 0xC6, s3 := 0x00, ty := 0, rnd := 0, ftz := false, peek := false, need := 0, imm := 0x00 }) ∧
    decodeWord .v0 (wV 5 0x4B 0x40 0x83 0xC6 0x00 0 0 0 0 0 0xFF) = .ok (.vshift { slot := .v0, g := 5, d := 0x40, s1 := 0x83, s2 := 0xC6, s3 := 0x00, ty := 0, rnd := 0, ftz := false, peek := false, need := 0, imm := 0xFF }) ∧
    decodeWord .v0 (wV 5 0x4C 0x40 0x83 0xC6 0x00 0 0 0 0 0 0x01) = .ok (.vzip { slot := .v0, g := 5, d := 0x40, s1 := 0x83, s2 := 0xC6, s3 := 0x00, ty := 0, rnd := 0, ftz := false, peek := false, need := 0, imm := 0x01 }) ∧
    decodeWord .v0 (wV 5 0x4D 0x40 0x83 0xC6 0x00 0 0 0 0 0 0x01) = .ok (.vunzip { slot := .v0, g := 5, d := 0x40, s1 := 0x83, s2 := 0xC6, s3 := 0x00, ty := 0, rnd := 0, ftz := false, peek := false, need := 0, imm := 0x01 }) ∧
    decodeWord .v0 (wV 5 0x4E 0x40 0x83 0x00 0x00 0 0 0 0 0 0x09) = .ok (.vcompress { slot := .v0, g := 5, d := 0x40, s1 := 0x83, s2 := 0x00, s3 := 0x00, ty := 0, rnd := 0, ftz := false, peek := false, need := 0, imm := 0x09 }) ∧
    decodeWord .v0 (wV 5 0x4F 0x40 0x83 0x00 0x00 0 0 0 0 0 0x09) = .ok (.vexpand { slot := .v0, g := 5, d := 0x40, s1 := 0x83, s2 := 0x00, s3 := 0x00, ty := 0, rnd := 0, ftz := false, peek := false, need := 0, imm := 0x09 }) ∧
    decodeWord .v0 (wV 5 0x50 0x40 0x83 0x00 0x00 0 0 0 0 0 0x05) = .ok (.vred { slot := .v0, g := 5, d := 0x40, s1 := 0x83, s2 := 0x00, s3 := 0x00, ty := 0, rnd := 0, ftz := false, peek := false, need := 0, imm := 0x05 }) :=
  ⟨rfl, rfl, rfl, rfl, rfl, rfl, rfl, rfl, rfl, rfl, rfl, rfl, rfl, rfl⟩

theorem test_words_v4 :
    decodeWord .v0 (wV 5 0x51 0x40 0x83 0x00 0x00 6 0 0 0 0 0x02) = .ok (.vfred { slot := .v0, g := 5, d := 0x40, s1 := 0x83, s2 := 0x00, s3 := 0x00, ty := 6, rnd := 0, ftz := false, peek := false, need := 0, imm := 0x02 }) ∧
    decodeWord .v0 (wV 5 0x52 0x40 0x83 0x00 0x00 0 0 0 0 0 0x05) = .ok (.vscan { slot := .v0, g := 5, d := 0x40, s1 := 0x83, s2 := 0x00, s3 := 0x00, ty := 0, rnd := 0, ftz := false, peek := false, need := 0, imm := 0x05 }) ∧
    decodeWord .v0 (wV 5 0x53 0x40 0x83 0x00 0x00 6 0 0 0 0 0x02) = .ok (.vfscan { slot := .v0, g := 5, d := 0x40, s1 := 0x83, s2 := 0x00, s3 := 0x00, ty := 6, rnd := 0, ftz := false, peek := false, need := 0, imm := 0x02 }) ∧
    decodeWord .v0 (wV 5 0x58 0x40 0x83 0x00 0x00 0 0 0 0 0 0x01) = .ok (.vsort { slot := .v0, g := 5, d := 0x40, s1 := 0x83, s2 := 0x00, s3 := 0x00, ty := 0, rnd := 0, ftz := false, peek := false, need := 0, imm := 0x01 }) ∧
    decodeWord .v0 (wV 5 0x59 0x40 0x83 0xC6 0x00 0 0 0 0 0 0x01) = .ok (.vsegsum { slot := .v0, g := 5, d := 0x40, s1 := 0x83, s2 := 0xC6, s3 := 0x00, ty := 0, rnd := 0, ftz := false, peek := false, need := 0, imm := 0x01 }) ∧
    decodeWord .v0 (wV 5 0x60 0x40 0x83 0x00 0x00 0 0 0 0 0 0x00) = .ok (.vmov { slot := .v0, g := 5, d := 0x40, s1 := 0x83, s2 := 0x00, s3 := 0x00, ty := 0, rnd := 0, ftz := false, peek := false, need := 0, imm := 0x00 }) ∧
    decodeWord .v0 (wV 5 0x61 0x40 0x00 0x00 0x00 0 0 0 0 0 0x80) = .ok (.vli { slot := .v0, g := 5, d := 0x40, s1 := 0x00, s2 := 0x00, s3 := 0x00, ty := 0, rnd := 0, ftz := false, peek := false, need := 0, imm := 0x80 }) ∧
    decodeWord .v0 (wV 5 0x62 0x40 0x83 0xC6 0x00 0 0 0 0 0 0x00) = .ok (.vext { slot := .v0, g := 5, d := 0x40, s1 := 0x83, s2 := 0xC6, s3 := 0x00, ty := 0, rnd := 0, ftz := false, peek := false, need := 0, imm := 0x00 }) ∧
    decodeWord .v0 (wV 5 0x63 0x40 0x83 0x45 0xC6 0 0 0 0 0 0x00) = .ok (.vins { slot := .v0, g := 5, d := 0x40, s1 := 0x83, s2 := 0x45, s3 := 0xC6, ty := 0, rnd := 0, ftz := false, peek := false, need := 0, imm := 0x00 }) ∧
    decodeWord .v0 (wV 5 0x64 0x40 0x00 0x00 0x00 0 0 0 0 0 0x80) = .ok (.vidx { slot := .v0, g := 5, d := 0x40, s1 := 0x00, s2 := 0x00, s3 := 0x00, ty := 0, rnd := 0, ftz := false, peek := false, need := 0, imm := 0x80 }) ∧
    decodeWord .v0 (wV 5 0x65 0x40 0x83 0x00 0x00 0 0 0 0 0 0x00) = .ok (.vxpush { slot := .v0, g := 5, d := 0x40, s1 := 0x83, s2 := 0x00, s3 := 0x00, ty := 0, rnd := 0, ftz := false, peek := false, need := 0, imm := 0x00 }) :=
  ⟨rfl, rfl, rfl, rfl, rfl, rfl, rfl, rfl, rfl, rfl, rfl⟩

theorem test_words_e0 :
    decodeWord .e (wE 5 0x00 0 0 0 0 0) = .ok (.nopE 5) ∧
    decodeWord .e (wE 5 0x08 63 1 2 3 0x93FFF00) = .ok (.mxcfgLoad { g := 5, kp := 63, ka := 1, kb := 2, kc := 3 } 2 9 0x1FFF00) ∧
    decodeWord .e (wE 5 0x08 63 1 2 3 0xB3FFF00) = .ok (.mxcfgStore { g := 5, kp := 63, ka := 1, kb := 2, kc := 3 } 2 9 0x1FFF00) ∧
    decodeWord .e (wE 5 0x09 63 1 2 3 0x8000000) = .ok (.mxgo { g := 5, kp := 63, ka := 1, kb := 2, kc := 3 } 2) ∧
    decodeWord .e (wE 5 0x0C 63 1 2 3 0xFA3F801) = .ok (.mxzero { g := 5, kp := 63, ka := 1, kb := 2, kc := 3 } 1000 63 0x801) ∧
    decodeWord .e (wE 5 0x0D 63 1 2 3 0xFA3FF7D) = .ok (.mxshape { g := 5, kp := 63, ka := 1, kb := 2, kc := 3 } 1000 31 62 true 61) ∧
    decodeWord .e (wE 5 0x0E 63 1 2 3 0xFA10801) = .ok (.mxdrainC12 { g := 5, kp := 63, ka := 1, kb := 2, kc := 3 } 1000 true 0x801) ∧
    decodeWord .e (wE 5 0x0E 63 1 2 3 0xFA29801) = .ok (.mxdrainAb { g := 5, kp := 63, ka := 1, kb := 2, kc := 3 } 1000 false 9 0x801) ∧
    decodeWord .e (wE 5 0x0F 63 1 2 3 0xFA00801) = .ok (.mxflag { g := 5, kp := 63, ka := 1, kb := 2, kc := 3 } 1000 0x801) ∧
    decodeWord .e (wE 5 0x0A 63 1 2 3 0xFA26801) = .ok (.mxbf { g := 5, kp := 63, ka := 1, kb := 2, kc := 3 } 1000 9 true 0x801) ∧
    decodeWord .e (wE 5 0x0B 63 1 2 3 0xFA3FF00) = .ok (.mxtw { g := 5, kp := 63, ka := 1, kb := 2, kc := 3 } 1000 true 1022) ∧
    decodeWord .e (wE 5 0x10 63 1 2 3 0xF400000) = .ok (.xcfg { g := 5, kp := 63, ka := 1, kb := 2, kc := 3 } 30 true) ∧
    decodeWord .e (wE 5 0x18 63 1 2 3 0xD000000) = .ok (.chgo { g := 5, kp := 63, ka := 1, kb := 2, kc := 3 } 13) ∧
    decodeWord .e (wE 5 0x19 63 1 2 3 0xD980000) = .ok (.chset { g := 5, kp := 63, ka := 1, kb := 2, kc := 3 } 13 9 2) :=
  ⟨rfl, rfl, rfl, rfl, rfl, rfl, rfl, rfl, rfl, rfl, rfl, rfl, rfl, rfl⟩

theorem test_words_e1 :
    decodeWord .e (wE 5 0x1A 63 1 2 3 0xD980801) = .ok (.chq { g := 5, kp := 63, ka := 1, kb := 2, kc := 3 } 13 9 true 0x801) ∧
    decodeWord .e (wE 5 0x1B 63 1 2 3 0x0) = .ok (.tjoin { g := 5, kp := 63, ka := 1, kb := 2, kc := 3 }) ∧
    decodeWord .e (wE 5 0x20 63 1 2 3 0xFCD7801) = .ok (.put { e := { g := 5, kp := 63, ka := 1, kb := 2, kc := 3 }, n := 31, b := 9, order := .rel, ord := true, scope := 7, s := 0x801 }) ∧
    decodeWord .e (wE 5 0x21 63 1 2 3 0xFCB7801) = .ok (.get { e := { g := 5, kp := 63, ka := 1, kb := 2, kc := 3 }, n := 31, b := 9, order := .acq, ord := true, scope := 7, s := 0x801 }) ∧
    decodeWord .e (wE 5 0x22 63 1 2 3 0xFC90801) = .ok (.acc { e := { g := 5, kp := 63, ka := 1, kb := 2, kc := 3 }, n := 31, b := 9, order := .plain, ord := true, scope := 0, s := 0x801 }) ∧
    decodeWord .e (wE 5 0x23 63 1 2 3 0xFC649AF) = .ok (.ramo { e := { g := 5, kp := 63, ka := 1, kb := 2, kc := 3 }, n := 31, d := 17, a := 18, x := 9, w := true, order := .acq, scope := 7, ord := true }) ∧
    decodeWord .e (wE 5 0x24 63 1 2 3 0xFC6534E) = .ok (.rcas { e := { g := 5, kp := 63, ka := 1, kb := 2, kc := 3 }, n := 31, d := 17, a := 18, x := 19, w := false, order := .rel, scope := 7, ord := false }) ∧
    decodeWord .e (wE 5 0x25 63 1 2 3 0xABC8000) = .ok (.wfence { g := 5, kp := 63, ka := 1, kb := 2, kc := 3 } 0xABC 2) ∧
    decodeWord .e (wE 5 0x26 63 1 2 3 0xABC8800) = .ok (.wpost { g := 5, kp := 63, ka := 1, kb := 2, kc := 3 } 0xABC 17) ∧
    decodeWord .e (wE 5 0x27 63 1 2 3 0xABC8800) = .ok (.wstart { g := 5, kp := 63, ka := 1, kb := 2, kc := 3 } 0xABC 17) ∧
    decodeWord .e (wE 5 0x28 63 1 2 3 0xABC0000) = .ok (.wcomplete { g := 5, kp := 63, ka := 1, kb := 2, kc := 3 } 0xABC) ∧
    decodeWord .e (wE 5 0x29 63 1 2 3 0xABC0000) = .ok (.wwait { g := 5, kp := 63, ka := 1, kb := 2, kc := 3 } 0xABC) ∧
    decodeWord .e (wE 5 0x2A 63 1 2 3 0xABC8C00) = .ok (.wlock { g := 5, kp := 63, ka := 1, kb := 2, kc := 3 } 0xABC 17 true) ∧
    decodeWord .e (wE 5 0x2B 63 1 2 3 0xABC8800) = .ok (.wunlock { g := 5, kp := 63, ka := 1, kb := 2, kc := 3 } 0xABC 17) :=
  ⟨rfl, rfl, rfl, rfl, rfl, rfl, rfl, rfl, rfl, rfl, rfl, rfl, rfl, rfl⟩

theorem test_words_e2 :
    decodeWord .e (wE 5 0x2C 63 1 2 3 0xABC9000) = .ok (.wexpose { g := 5, kp := 63, ka := 1, kb := 2, kc := 3 } 0xABC 9) ∧
    decodeWord .e (wE 5 0x2D 63 1 2 3 0xABC0000) = .ok (.wrevoke { g := 5, kp := 63, ka := 1, kb := 2, kc := 3 } 0xABC) ∧
    decodeWord .e (wE 5 0x38 63 1 2 3 0x9000801) = .ok (.nmadd { g := 5, kp := 63, ka := 1, kb := 2, kc := 3 } 9 0x801) ∧
    decodeWord .e (wE 5 0x39 63 1 2 3 0x9000801) = .ok (.nmtopk { g := 5, kp := 63, ka := 1, kb := 2, kc := 3 } 9 0x801) ∧
    decodeWord .e (wE 5 0x3A 63 1 2 3 0x9000801) = .ok (.nmpk { g := 5, kp := 63, ka := 1, kb := 2, kc := 3 } 9 0x801) ∧
    decodeWord .e (wE 5 0x3B 63 1 2 3 0x9000000) = .ok (.nmbias { g := 5, kp := 63, ka := 1, kb := 2, kc := 3 } 9) ∧
    decodeWord .e (wE 5 0x3C 63 1 2 3 0x0) = .ok (.nmfence { g := 5, kp := 63, ka := 1, kb := 2, kc := 3 }) ∧
    decodeWord .e (wE 5 0x3D 63 1 2 3 0x9ABCB00) = .ok (.gdisp { g := 5, kp := 63, ka := 1, kb := 2, kc := 3 } 9 0xABC 5 true) ∧
    decodeWord .e (wE 5 0x40 63 1 2 3 0x0) = .ok (.hem { g := 5, kp := 63, ka := 1, kb := 2, kc := 3 }) :=
  ⟨rfl, rfl, rfl, rfl, rfl, rfl, rfl, rfl, rfl⟩

/-! Terms that the well-formedness checks refuse. -/

/-- A field that a rule reserves; an operand out of its range; an event, which has no encoding. -/
theorem test_refuses_instructions :
    (Instr.cmp 0 5 1 2 .eq).wf = false ∧ (Instr.bfx 0 1 2 false 32 32).wf = false ∧ (Instr.psetImm 0 4 16 256).wf = false ∧
    (Instr.spawnRemote 0 0 1 2 3 false).wf = false ∧ (Instr.pcfg 0 12 4 0 false).wf = false ∧ (Instr.agset 0 3 14 0).wf = false ∧
    (Instr.ld { mem1 .b64 with ord := .acq } (.s 1)).wf = false ∧ (Instr.vli { vf with s1 := 1 }).wf = false ∧ (Instr.vadd { vf with d := 0x1C }).wf = false ∧
    (Instr.mxgo { ef with kp := 0 } 0).wf = false ∧ (Instr.wfence ef 0 3).wf = false ∧ Instr.wf .powerUp = false := by decide

/-- A bundle with a reserved header bit, and one with a word of a reserved code. -/
theorem test_refuses_bundles :
    (Instr.bundleIssue { Bundle.single .s 0 with rsv := 1 }).wf = false ∧ (Instr.bundleIssue (Bundle.single .s (wS 0 0x25 0 0 0 0 0))).wf = false ∧
    (Instr.bundleIssue (Bundle.single .v1 (wV 0 0x58 0x40 0x83 0 0 0 0 0 0 0 0))).wf = false ∧ (Instr.bundleIssue (Bundle.single .s 0)).wf = true := by decide

/-- Reserved codes of every space (04 R92) decode to nothing. -/
theorem test_reserved_codes :
    ([0x25, 0x27, 0x38, 0x3F, 0x44, 0x47, 0x52, 0x5F, 0x67, 0xFF].all (fun op => (decodeWord .s (wS 0 op 0 0 0 0 0)).toOption.isNone)) = true ∧
    ([0x0B, 0x0F, 0x16, 0x1F, 0x29, 0x2F, 0x32, 0x3F, 0x45, 0x4F, 0x53, 0xFF].all (fun op => (decodeWord .a (wA 0 op 0 0 0 0 0 0 0 0)).toOption.isNone)) = true ∧
    ([0x14, 0x1F, 0x2F, 0x39, 0x3F, 0x43, 0x47, 0x54, 0x57, 0x5A, 0x5F, 0x66, 0xFF].all (fun op => (decodeWord .v0 (wV 0 op 0x40 0x83 0 0 0 0 0 0 0 0)).toOption.isNone)) = true ∧
    ([0x01, 0x07, 0x11, 0x17, 0x1C, 0x1F, 0x2E, 0x37, 0x3E, 0x3F, 0x41, 0xFF].all (fun op => (decodeWord .e (wE 0 op 3 0 0 0 0)).toOption.isNone)) = true := by decide +kernel

/-! Small steps, with results from the manual. -/

/-- What an instruction sends to its destination: the newest result on its way. -/
def sends_ (i : Instr) (s : State) : Option (Dest × Nat) :=
  match exec i s with
  | .next t => ((t.context 0 0).flights.getLast?).map (fun f => (f.dest, f.data.toNat))
  | _ => none
def regs2 (x y : Word) : State := at0 { runs with s := [(1, x), (2, y)] } c0

/-- Division by 0 and the most negative number by -1 (06 R132). -/
theorem test_divisions :
    sends_ (.div 0 3 1 2) (regs2 7 0) = some (.s 3, 2 ^ 64 - 1) ∧ sends_ (.rem 0 3 1 2) (regs2 7 0) = some (.s 3, 7) ∧
    sends_ (.div 0 3 1 2) (regs2 0x8000000000000000 (-1)) = some (.s 3, 2 ^ 63) ∧ sends_ (.rem 0 3 1 2) (regs2 0x8000000000000000 (-1)) = some (.s 3, 0) ∧
    sends_ (.rem 0 3 1 2) (regs2 (-7) 2) = some (.s 3, 2 ^ 64 - 1) := by decide +kernel
/-- Shifts by 64 or more (06 R131); a sum that wraps; a sign-extended immediate (06 R130). -/
theorem test_scalars :
    sends_ (.shl 0 3 1 2) (regs2 5 64) = some (.s 3, 0) ∧ sends_ (.sar 0 3 1 2) (regs2 (-5) 200) = some (.s 3, 2 ^ 64 - 1) ∧
    sends_ (.add 0 3 1 2) (regs2 (-1) 1) = some (.s 3, 0) ∧ sends_ (.andi 0 3 1 255) (regs2 1000 0) = some (.s 3, 232) ∧
    sends_ (.andi 0 3 1 (-1)) (regs2 0x123456789ABCDEF0 0) = some (.s 3, 0x123456789ABCDEF0) ∧ sends_ (.mulh 0 3 1 2) (regs2 (-1) 1) = some (.s 3, 2 ^ 64 - 1) := by decide +kernel
/-- The worked example of chapter 06: 232 lanes, and the count of the mask. -/
theorem test_pset :
    sends_ (.psetReg 0 4 1) (regs2 232 0) = some (.pair 4 (BitVec.allOnes 256), 2 ^ 232 - 1) ∧
    sends_ (.pcnt 0 9 4) (at0 { runs with p := [(4, 2 ^ 232 - 1)] } c0) = some (.s 9, 232) ∧
    sends_ (.cmpi 0 6 1 .eq 0) (regs2 232 0) = some (.pair 6 (BitVec.allOnes 256), 0) := by decide +kernel
/-- The numbers of chapter 02: -2.5 in every format, and stochastic rounding of 1 + 2^-9 to BF16 with both random words. -/
theorem test_numbers :
    (∀ p ∈ [(fF32, 0xC0200000), (fBF16, 0xC020), (fF16, 0xC100), (fE4M3, 0xC2), (fE5M2, 0xC1), (fE2M3, 0x32), (fE3M2, 0x31), (fE2M1, 0xC)],
      p.1.round .rne true (.fin true 5 (-1) false) = p.2) ∧
    fBF16.roundSR (.fin false 513 (-9) false) 0x3FFFFFFF = 0x3F81 ∧ fBF16.roundSR (.fin false 513 (-9) false) 0x40000000 = 0x3F80 := by decide +kernel
/-- The worked example of chapter 07: 400 rounds to 384, -13 and 448 are exact. -/
theorem test_quantize :
    fE4M3.round .rne true (.fin false 400 0 false) = 0x7C ∧ fE4M3.round .rne true (.fin true 13 0 false) = 0xD5 ∧ fE4M3.round .rne true (.fin false 448 0 false) = 0x7E := by
  decide +kernel
/-- The worked example of chapter 14: counts 0, 5, 17 and 40 with capacities 0, 8, 16, 32. -/
theorem test_dispatch :
    let t : List Word := [0x100000, 4096 + 3 * 2 ^ 32, 0, 0, 8, 0, 16, 0, 32, 0]
    [0, 5, 17, 40].map (expertRows t) = [0, 5, 17, 32] ∧ statusAdd 0 t [0, 5, 17, 40] = 8 + 3 * 2 ^ 64 + 2 ^ 96 + 2 ^ 128 + 2 ^ 160 := by decide +kernel
/-- `loop.swp` with three iterations and two stages (05): a trip count of 4, FEED 2, and the first stage predicate set. -/
theorem test_loop_swp :
    (match exec (.loopSwp 0 1 1 9 0x20) (regs2 3 0) with
     | .next t => decide ((t.context 0 0).feed = 2 ∧ (t.context 0 0).loops.map (·.count) = [4] ∧ (t.context 0 0).preg 8 = BitVec.allOnes 256)
     | _ => false) = true := by decide +kernel
/-- `trap` enters the handler (05 R120): EPC names it, and the PC comes from TVEC. -/
theorem test_trap :
    (match exec (.trap 0 0x42) (at0 runs { c0 with tvec := 0x4000 }) with
     | .next t => decide ((t.context 0 0).h = true ∧ (t.context 0 0).epc = 0x100 ∧ (t.context 0 0).pc = 0x4000)
     | _ => false) = true := by decide +kernel
/-- A store and a load of two bytes, little-endian (00 R5). -/
theorem test_store_load :
    (match exec (.st (mem1 .b16) (.s 1)) (at0 { runs with s := [(1, 0xA1B2)], a := [(1, 0x1000)] } c0) with
     | .next t => decide ((t.cluster 0).byte 0x1000 = 0xB2 ∧ (t.cluster 0).byte 0x1001 = 0xA1 ∧ (t.cluster 0).byte 0x1002 = 0)
     | _ => false) = true ∧
    sends_ (.ld (mem1 .b16) (.s 5)) (at0 { runs with a := [(1, 0x1000)] } { c0 with mem := [(0x1000, 0xB2), (0x1001, 0xA1)] }) = some (.s 5, 2 ^ 64 - 2 ^ 16 + 0xA1B2) := by decide +kernel
/-- The digests of the three bytes "abc" (FIPS 180-4's own example), their first and last bytes. -/
theorem test_digests :
    ((sha256 [0x61, 0x62, 0x63]).take 4 = [0xBA, 0x78, 0x16, 0xBF] ∧ (sha256 [0x61, 0x62, 0x63]).drop 28 = [0xF2, 0x00, 0x15, 0xAD]) ∧
    ((sha384 [0x61, 0x62, 0x63]).take 4 = [0xCB, 0x00, 0x75, 0x3F] ∧ (sha384 [0x61, 0x62, 0x63]).drop 44 = [0x34, 0xC8, 0x25, 0xA7]) := by decide +kernel

end Sys2Proof.Tests
end

section
/-! Control transfers (05 R116, R117): what `transfer` and `pushLevel` answer, which of them an instruction's effect is, and with that O3. -/

namespace Sys2Proof
variable {α : Type}

/-- A look-up after canonical writes at `n` keys in a row, from `b`. -/
theorem SMap.get_foldl_set_range [DecidableEq α] (d : α) (b n : Nat) (v : Nat → α) (m : SMap α) (j : Nat) :
    SMap.get d ((List.range n).foldl (fun m i => SMap.set d m (b + i) (v i)) m) j =
      if b ≤ j ∧ j < b + n then v (j - b) else SMap.get d m j := by
  induction n with
  | zero => rw [if_neg (by omega)]; rfl
  | succ n ih =>
    simp only [List.range_succ, List.foldl_append, List.foldl_cons, List.foldl_nil, SMap.get_set, ih]
    by_cases hj : j = b + n
    · rw [if_pos hj, if_pos (by omega), hj, Nat.add_sub_cancel_left]
    · rw [if_neg hj]
      exact if_congr (by omega) rfl rfl

end Sys2Proof

namespace Sys2Proof.Machine

variable {s : State} {k c : Nat} {i : Instr} {g : Reg4} {a : SReg}

/-! An unprivileged S-slot word that a plain bundle holds. -/

theorem ne_park_of_unprivileged (h : privileged i = false) (g : Reg4) (a : SReg) (r : Bool) : i ≠ .park g a r := by
  rintro rfl
  cases h
/-- Decode stops such a word for the stage predicates alone that it writes in stage mode (05 R110). -/
theorem decodeFault_unprivileged {x : Context} {sl : Slot} (hl : legal i = true) (hp : privileged i = false) :
    decodeFault x sl i 0 false = if x.mode && (predsWritten i).any (fun p => decide (8 ≤ p)) then some cILLEGAL else none := by
  simp [decodeFault, hl, hp]

section
variable (hs : slotOf i = some .s) (hp : privileged i = false) (h : s.issuing k c = true) (hl : legal i = true)
include hs hp h hl

theorem exec_sSlot_ok {w : Work} (hd : decodeFault (s.context k c) .s i 0 false = none)
    (he : slotEffect i (s.slotView k c i) s.blank = .ok w) : exec i s = .next (s.issued k c i w) :=
  exec_ok (by rw [hs]; rfl) h hl (by rwa [hs]) he (ne_park_of_unprivileged hp)
theorem exec_sSlot_trap {t : Trap} (hd : decodeFault (s.context k c) .s i 0 false = none)
    (he : slotEffect i (s.slotView k c i) s.blank = .error (.trap t false)) : exec i s = .next (s.enterTrap k c t false) :=
  exec_stop (by rw [hs]; rfl) h hl (by rwa [hs]) he (ne_park_of_unprivileged hp)
theorem exec_sSlot_fault {code : BitVec 16} (hd : decodeFault (s.context k c) .s i 0 false = some code) :
    exec i s = .next (s.enterTrap k c (Trap.slotTrap code 0 0) false) := by
  rw [exec_slot i s (by rw [hs]; rfl) (ne_park_of_unprivileged hp), issuePlain_fault h hl (by rwa [hs]), slotNumber, hs]
  rfl
end

theorem fail_sSlot {β : Type} (h : slotOf i = some .s) (code : BitVec 16) :
    ((s.slotView k c i).fail code : Except Stop β) = .error (.trap (Trap.slotTrap code 0 0) false) := by
  simp only [Issue.fail, Issue.trapOf, slotView_slot, slotView_iter, h, Option.getD_some, slotCode]
theorem failAt_sSlot {β : Type} (h : slotOf i = some .s) (code : BitVec 16) (v : Word) :
    ((s.slotView k c i).failAt code v : Except Stop β) = .error (.trap { Trap.slotTrap code 0 0 with addr := v } false) := by
  simp only [Issue.failAt, Issue.trapOf, Trap.withAddr, slotView_slot, slotView_iter, h, Option.getD_some, slotCode]
theorem rsLegal_ready {ok : Word → Bool} (h : (s.context k c).readyS a = true) :
    (s.slotView k c i).rsLegal a ok = .ok ((s.context k c).sreg a) := by simp only [Issue.rsLegal, rs_ready h]
theorem next_slotView : (s.slotView k c i).next = (s.context k c).pc + 12 := rfl
/-- Of a change of the Context only what it makes of the Context as it stands matters. -/
theorem does_congr {f f' : Context → Context} (h : f (s.context k c) = f' (s.context k c)) : s.does k c f = s.does k c f' :=
  congrArg (fun y => s.does k c (fun _ => y)) h

theorem does_jump_congr {f f' : Context → Context} {j : Option Word} (h : f (s.context k c) = f' (s.context k c)) :
    ({ s.does k c f with jump := j } : Work) = { s.does k c f' with jump := j } := by rw [does_congr h]

/-! Branches and calls (05 R116). -/

variable {n : Nat} {target : Word} {link : Option SReg}

theorem transfer_tooManyLevels {w : Work} (h : (s.context k c).loops.length < n) :
    transfer (s.slotView k c i) n target w = (s.slotView k c i).fail cILLEGAL := if_pos h
theorem transfer_misaligned {w : Work} (h : ¬(s.context k c).loops.length < n) (ht : target.toNat % 4 ≠ 0) :
    transfer (s.slotView k c i) n target w = (s.slotView k c i).failAt cALIGN target := (if_neg h).trans (if_pos ht)
theorem transfer_ok (h : ¬(s.context k c).loops.length < n) (ht : ¬target.toNat % 4 ≠ 0) :
    transfer (s.slotView k c i) n target s.blank = .ok { s.does k c (·.popLevels n) with jump := some target } :=
  (if_neg h).trans (if_neg ht)

/-- The link register of a call takes the address of the next bundle; a branch has none. -/
def Issue.putLink (ι : Issue) : Option SReg → Work → Res
  | none, w => .ok w
  | some d, w => ι.putS d ι.next 1 w

theorem putLink_does {f : Context → Context} {j : Option Word} (hd : ∀ d, link = some d → (s.context k c).freeS d = true) :
    (s.slotView k c i).putLink link { s.does k c f with jump := j } =
      .ok { s.does k c (fun x => { f x with flights := (f x).flights ++ linkFlights (s.context k c) link }) with jump := j } := by
  cases link with
  | none => simp only [Issue.putLink, linkFlights, List.append_nil]
  | some d =>
    simp only [Issue.putLink, putS_free (hd d rfl), linkFlights, next_slotView]
    split
    · simp only [List.append_nil]
    · simp only [Work.fly, Work.modX, State.does, slotView_k, slotView_c, state_modContext_modContext]

/-- Every branch and call is a transfer, and then its link. -/
theorem slotEffect_branchRow (hr : branchRow (s.context k c) i = some (g, a, n, target, link))
    (hg : (s.context k c).on g = true) (ha : (s.context k c).readyS a = true) :
    slotEffect i (s.slotView k c i) s.blank = (transfer (s.slotView k c i) n target s.blank).bind ((s.slotView k c i).putLink link) := by
  unfold branchRow at hr
  split at hr <;> cases hr
  case h_1 => show effBr _ _ _ _ _ = _; simp only [effBr, guarded_on hg]; exact (bind_pure _).symm
  case h_2 => show effBrx _ _ _ _ _ = _; simp only [effBrx, guarded_on hg, rsLegal_ready ha]; exact (bind_pure _).symm
  case h_3 => show effCall _ _ _ _ _ = _; simp only [effCall, guarded_on hg]; rfl
  case h_4 => show effCallx _ _ _ _ _ = _; simp only [effCallx, guarded_on hg, rs_ready ha]; rfl
  case h_5 => show effRet _ _ _ _ = _; simp only [effRet, guarded_on hg, rs_ready ha]; exact (bind_pure _).symm

theorem branchRow_word {x : Context} {r : Reg4 × SReg × Nat × Word × Option SReg} (hr : branchRow x i = some r) :
    slotOf i = some .s ∧ privileged i = false ∧ predsWritten i = [] := by
  unfold branchRow at hr
  split at hr
  case h_6 => cases hr
  all_goals exact ⟨rfl, rfl, rfl⟩

theorem exec_branchRow (hr : branchRow (s.context k c) i = some (g, a, n, target, link)) (hl : legal i = true) (h : s.issuing k c = true)
    (hg : (s.context k c).on g = true) (ha : (s.context k c).readyS a = true) (hf : ∀ d, link = some d → (s.context k c).freeS d = true) :
    if (s.context k c).loops.length < n then exec i s = .next (s.enterTrap k c (Trap.slotTrap cILLEGAL 0 0) false)
    else if target.toNat % 4 ≠ 0 then exec i s = .next (s.enterTrap k c { Trap.slotTrap cALIGN 0 0 with addr := target } false)
    else exec i s = .next (s.issued k c i
      { s.does k c (fun x =>
          { x with
            loops := x.loops.drop n, mode := if (x.loops.take n).any (·.swp) then false else x.mode
            flights := x.flights ++ linkFlights x link }) with
        jump := some target }) := by
  obtain ⟨hs, hp, hw⟩ := branchRow_word hr
  have hd : decodeFault (s.context k c) .s i 0 false = none := by
    rw [decodeFault_unprivileged hl hp, hw, List.any_nil, Bool.and_false]; rfl
  have he := slotEffect_branchRow hr hg ha
  split_ifs with hn ht
  · exact exec_sSlot_trap hs hp h hl hd (by rw [he, transfer_tooManyLevels hn, fail_sSlot hs]; rfl)
  · exact exec_sSlot_trap hs hp h hl hd (by rw [he, transfer_misaligned hn ht, failAt_sSlot hs]; rfl)
  · exact exec_sSlot_ok hs hp h hl hd (by
      rw [he, transfer_ok hn ht]
      exact (putLink_does hf).trans (congrArg Except.ok (does_jump_congr rfl)))

/-! The loop unit (05 R117). -/

variable {x : Context} {trips : Nat} {stages : Option Nat} {len y : BitVec 16}

/-- Stage mode as a `loop.swp` begins it in ic `ic`: p8 all ones, p9 to p15 all zeros, FEED the trips left. -/
def Context.startStages (x : Context) (trips ic : Nat) : Context :=
  { x.overtake 1 Dest.isStage with
    mode := true, feed := BitVec.ofNat 32 (trips - 1), lastStage := some (ic : Int)
    p := (List.range 8).foldl (fun p i => SMap.set 0 p (8 + i) (if i = 0 then BitVec.allOnes 256 else 0)) x.p
    pBad := (List.range 8).foldl (fun p i => SMap.del p (8 + i)) x.pBad }
/-- The Context once a loop instruction has pushed its level. -/
def Context.withLevel (x : Context) (trips : Nat) (stages : Option Nat) (len y : BitVec 16) (ic : Nat) : Context :=
  let x := { x with loops := loopLevel x trips stages len y :: x.loops }
  if stages.isSome then x.startStages trips ic else x

theorem withLevel_loops {ic : Nat} : (x.withLevel trips stages len y ic).loops = loopLevel x trips stages len y :: x.loops := by
  cases stages <;> rfl
/-- The stage predicates in stage mode's first ic; every other predicate keeps its value. -/
theorem preg_startStages {ic : Nat} (r : Reg4) :
    (x.startStages trips ic).preg r = if r = 8 then BitVec.allOnes 256 else if 9 ≤ r.toNat then 0 else x.preg r := by
  simp only [Context.preg, Context.startStages, SMap.get_foldl_set_range, ← BitVec.toNat_inj]
  have hlt := r.isLt
  rcases lt_trichotomy r.toNat 8 with h | h | h
  · simp [show ¬8 ≤ r.toNat by omega, show ¬9 ≤ r.toNat by omega, h.ne]
  · simp [h]
  · simp [show 8 ≤ r.toNat by omega, show 9 ≤ r.toNat by omega, h.ne', hlt, show r.toNat ≠ 0 by omega, show r.toNat ≠ 1 by omega,
      show r.toNat - 8 ≠ 0 by omega]

theorem startStages_frame {ic : Nat} : x.startStages trips ic =
    { x with
      mode := true, feed := (x.startStages trips ic).feed, lastStage := some (ic : Int), p := (x.startStages trips ic).p
      pBad := (x.startStages trips ic).pBad, flights := (x.startStages trips ic).flights } := rfl

theorem levelOk_iff {swp : Bool} : levelOk x len trips swp = true ↔
    ¬(len = 0 ∨ (trips ≠ 0 ∧ 4 ≤ x.loops.length) ∨ (swp = true ∧ x.mode = true)) := by
  simp only [levelOk, Bool.and_eq_true, Bool.or_eq_true, Bool.not_eq_true', Bool.and_eq_false_iff, decide_eq_true_eq, not_or, not_and_or,
    not_not, not_le, Bool.not_eq_true, and_assoc]

/-- The end of a body of `len` words. -/
theorem bodyEnd_eq : (s.slotView k c i).next + BitVec.ofNat 64 (4 * len.toNat) = (s.context k c).pc + 12 + 4 * len.setWidth 64 := by
  rw [next_slotView, BitVec.ofNat_mul, BitVec.ofNat_toNat]
  rfl

theorem pushLevel_illegal {w : Work} (h : ¬levelOk (s.context k c) len trips stages.isSome = true) :
    pushLevel (s.slotView k c i) len y trips stages w = (s.slotView k c i).fail cILLEGAL := if_pos (by simpa using h)
theorem pushLevel_noTrips (h : levelOk (s.context k c) len 0 stages.isSome = true) :
    pushLevel (s.slotView k c i) len y 0 stages s.blank = .ok
      { (if stages.isSome then s.does k c (fun x => { x with lastStage := some (s.cluster k).ic }) else s.blank) with
        jump := some ((s.context k c).pc + 12 + 4 * len.setWidth 64) } := by
  rw [← bodyEnd_eq (i := i), pushLevel, if_neg (by simpa using h), if_pos rfl]
  rfl
theorem pushLevel_ok (h : levelOk (s.context k c) len trips stages.isSome = true) (ht : trips ≠ 0) :
    pushLevel (s.slotView k c i) len y trips stages s.blank = .ok
      (s.does k c (fun _ => (s.context k c).withLevel trips stages len y (s.cluster k).ic)) := by
  rw [pushLevel, if_neg (by simpa using h)]
  simp only [if_neg ht, bodyEnd_eq]
  cases stages <;> rfl

theorem field_zero (v n : Nat) : field v 0 n = v % 2 ^ n := by rw [field, Nat.pow_zero, Nat.div_one]

/-- Every loop instruction pushes its level. -/
theorem slotEffect_loopRow (hr : loopRow (s.context k c) i = some (g, a, trips, stages, len, y))
    (hg : (s.context k c).on g = true) (ha : (s.context k c).readyS a = true) :
    slotEffect i (s.slotView k c i) s.blank = pushLevel (s.slotView k c i) len y trips stages s.blank := by
  unfold loopRow at hr
  split at hr <;> cases hr
  case h_1 => show effLoop _ _ _ _ _ _ = _; simp only [effLoop, guarded_on hg, rsLegal_ready ha, ← field_zero]; rfl
  case h_2 => exact guarded_on hg
  case h_3 => show effLoopSwp _ _ _ _ _ _ _ = _; simp only [effLoopSwp, guarded_on hg, rsLegal_ready ha, ← field_zero]; rfl

theorem loopRow_word (hr : loopRow x i = some (g, a, trips, stages, len, y)) :
    slotOf i = some .s ∧ privileged i = false ∧ (predsWritten i).any (fun p => decide (8 ≤ p)) = stages.isSome := by
  unfold loopRow at hr
  split at hr
  case h_4 => cases hr
  all_goals cases hr; exact ⟨rfl, rfl, rfl⟩

section
variable (hr : loopRow (s.context k c) i = some (g, a, trips, stages, len, y)) (hl : legal i = true) (h : s.issuing k c = true)
  (hg : (s.context k c).on g = true) (ha : (s.context k c).readyS a = true)
include hr hl

/-- Decode finds the `loop.swp` in stage mode, by the stage predicates that it writes. -/
theorem decodeFault_loopRow :
    decodeFault (s.context k c) .s i 0 false = if (s.context k c).mode && stages.isSome then some cILLEGAL else none := by
  obtain ⟨-, hp, hw⟩ := loopRow_word hr
  rw [decodeFault_unprivileged hl hp, hw]

include h hg ha

theorem exec_loopRow_illegal (hok : ¬levelOk (s.context k c) len trips stages.isSome = true) :
    exec i s = .next (s.enterTrap k c (Trap.slotTrap cILLEGAL 0 0) false) := by
  obtain ⟨hs, hp, -⟩ := loopRow_word hr
  have hd := decodeFault_loopRow hr hl
  split at hd
  · exact exec_sSlot_fault hs hp h hl hd
  · exact exec_sSlot_trap hs hp h hl hd (by rw [slotEffect_loopRow hr hg ha, pushLevel_illegal hok, fail_sSlot hs])
theorem exec_loopRow_ok {w : Work} (hok : levelOk (s.context k c) len trips stages.isSome = true)
    (hw : pushLevel (s.slotView k c i) len y trips stages s.blank = .ok w) : exec i s = .next (s.issued k c i w) := by
  obtain ⟨hs, hp, -⟩ := loopRow_word hr
  have hm : ¬((s.context k c).mode && stages.isSome) = true := fun hm =>
    levelOk_iff.mp hok (.inr (.inr (Bool.and_eq_true _ _ |>.mp hm).symm))
  exact exec_sSlot_ok hs hp h hl ((decodeFault_loopRow hr hl).trans (if_neg hm)) ((slotEffect_loopRow hr hg ha).trans hw)
end

/-! The obligation. -/

/-- Settles O3: each row's effect is one `transfer` or one `pushLevel`, whose three answers are the statement's three cases. -/
theorem controlTransfers : Obligations.ControlTransfers := by
  refine ⟨fun s k c i g a n target link hr hl h hg ha hf => ?_, fun s k c i g a trips stages len y hr hl h hg ha => ?_⟩
  · exact exec_branchRow hr hl h hg ha hf
  · split
    case isTrue hbad => exact exec_loopRow_illegal hr hl h hg ha (mt levelOk_iff.mp (not_not.mpr hbad))
    case isFalse hok =>
      have hok := levelOk_iff.mpr hok
      split
      case isTrue ht =>
        subst ht
        exact exec_loopRow_ok hr hl h hg ha hok (pushLevel_noTrips hok)
      case isFalse ht =>
        refine ⟨_, exec_loopRow_ok hr hl h hg ha hok (pushLevel_ok hok ht), withLevel_loops, ?_, fun hst => ?_⟩
        · rintro rfl
          rfl
        · obtain ⟨n, rfl⟩ := Option.isSome_iff_exists.mp hst
          exact ⟨rfl, rfl, preg_startStages, rfl, startStages_frame⟩

end Sys2Proof.Machine
end

section
/-! Scalar results (06 R129-R135): the words that the model's arithmetic computes, said with the operations of `BitVec`; the effect that each row's instruction has; and with that O1. -/

namespace Sys2Proof.Machine

/-! Products, quotients and remainders (06 R130, R132, 02 R48). -/

theorem mulHighS_eq (x y : Word) : mulHighS x y = (x.signExtend 128 * y.signExtend 128).extractLsb' 64 64 := by
  have hp : x.signExtend 128 * y.signExtend 128 = BitVec.ofInt 128 (x.toInt * y.toInt) := (BitVec.ofInt_mul _ _).symm
  apply BitVec.eq_of_toNat_eq
  rw [hp, mulHighS, BitVec.extractLsb'_toNat, BitVec.toNat_ofInt, BitVec.toNat_ofInt, Nat.shiftRight_eq_div_pow]
  generalize x.toInt * y.toInt = p
  omega
theorem mulHighU_eq (x y : Word) : mulHighU x y = (x.setWidth 128 * y.setWidth 128).extractLsb' 64 64 := by
  have hp : x.setWidth 128 * y.setWidth 128 = BitVec.ofNat 128 (x.toNat * y.toNat) := by
    rw [BitVec.ofNat_mul, BitVec.ofNat_toNat, BitVec.ofNat_toNat]
  apply BitVec.eq_of_toNat_eq
  rw [hp, mulHighU, BitVec.extractLsb'_toNat, BitVec.toNat_ofNat, BitVec.toNat_ofNat, Nat.shiftRight_eq_div_pow]
  omega
theorem divQS_eq (x y : Word) : divQS x y = if y = 0 then BitVec.allOnes 64 else x.sdiv y :=
  if_congr Iff.rfl rfl (BitVec.eq_of_toInt_eq (by rw [BitVec.toInt_sdiv, BitVec.toInt_ofInt]))
theorem divQU_eq (x y : Word) : divQU x y = if y = 0 then BitVec.allOnes 64 else x / y :=
  if_congr Iff.rfl rfl BitVec.udiv_def.symm
theorem divMS_eq (x y : Word) : divMS x y = if y = 0 then x else x.srem y :=
  if_congr Iff.rfl rfl (by rw [← BitVec.toInt_srem, BitVec.ofInt_toInt])
theorem divMU_eq (x y : Word) : divMU x y = if y = 0 then x else x % y :=
  if_congr Iff.rfl rfl BitVec.umod_def.symm

/-! Shifts (06 R131). -/

theorem ofNat_mul_two_pow (v n : Nat) : BitVec.ofNat 64 (v * 2 ^ n) = BitVec.ofNat 64 v <<< n := by
  apply BitVec.eq_of_toNat_eq
  rw [BitVec.toNat_shiftLeft, Nat.shiftLeft_eq, BitVec.toNat_ofNat, BitVec.toNat_ofNat, Nat.mod_mul_mod]
theorem shiftL_eq (x : Word) (n : Nat) : shiftL x n = x <<< n := by
  rw [shiftL]
  split
  case isTrue hn => exact (BitVec.shiftLeft_eq_zero hn).symm
  case isFalse => rw [ofNat_mul_two_pow, BitVec.ofNat_toNat, BitVec.setWidth_eq]
theorem shiftR_eq (x : Word) (n : Nat) : shiftR x n = x >>> n := by
  rw [shiftR]
  split
  case isTrue hn => exact (BitVec.ushiftRight_eq_zero hn).symm
  case isFalse => rw [← Nat.shiftRight_eq_div_pow, ← BitVec.toNat_ushiftRight, BitVec.ofNat_toNat, BitVec.setWidth_eq]
/-- An arithmetic shift by 63 or more leaves the sign alone. -/
theorem toInt_div_two_pow_min (x : Word) (n : Nat) : x.toInt / 2 ^ min n 63 = x.toInt / 2 ^ n := by
  rcases Nat.le_total n 63 with hn | hn
  · rw [Nat.min_eq_left hn]
  · have hp : (2 : Int) ^ 63 ≤ 2 ^ n := pow_le_pow_right₀ (by decide) hn
    have hlo := BitVec.le_toInt x
    have hhi := BitVec.toInt_lt (x := x)
    rw [Nat.min_eq_right hn]
    rcases lt_or_ge x.toInt 0 with hx | hx
    · rw [Int.ediv_eq_neg_one_of_neg_of_le hx (by omega), Int.ediv_eq_neg_one_of_neg_of_le hx (by omega)]
    · rw [Int.ediv_eq_zero_of_lt hx (by omega), Int.ediv_eq_zero_of_lt hx (by omega)]
theorem shiftA_eq (x : Word) (n : Nat) : shiftA x n = x.sshiftRight n := by
  rw [BitVec.sshiftRight_eq, Int.shiftRight_eq_div_pow]
  exact congrArg _ (toInt_div_two_pow_min x n)

/-! Minimum and maximum (06 R130): the model compares by ≤, the row by <, and of equal operands either is the result. -/

theorem ite_le_eq_ite_lt {α β : Type} [PartialOrder β] {p q : β} {u v : α} [Decidable (p ≤ q)] [Decidable (p < q)] (h : p = q → u = v) :
    (if p ≤ q then u else v) = if p < q then u else v := by
  by_cases heq : p = q
  · rw [h heq, ite_self, ite_self]
  · exact if_congr (Ne.le_iff_lt heq) rfl rfl
theorem ite_toInt_le {x y u v : Word} (h : x = y → u = v) : (if x.toInt ≤ y.toInt then u else v) = if x.slt y then u else v :=
  (ite_le_eq_ite_lt fun he => h (BitVec.eq_of_toInt_eq he)).trans (if_congr BitVec.slt_iff_toInt_lt.symm rfl rfl)
theorem ite_toNat_le {x y u v : Word} (h : x = y → u = v) : (if x.toNat ≤ y.toNat then u else v) = if x < y then u else v :=
  ite_le_eq_ite_lt fun he => h (BitVec.eq_of_toNat_eq he)

/-! Counts (06 R133). -/

/-- The first `m` numbers pass and the next, if there is one, does not. -/
theorem length_takeWhile_range {n m : Nat} {p : Nat → Bool} (hm : m ≤ n) (hp : ∀ j < m, p j = true) (hq : m < n → p m = false) :
    ((List.range n).takeWhile p).length = m := by
  obtain ⟨d, rfl⟩ := Nat.exists_eq_add_of_le hm
  rw [List.range_add, List.takeWhile_append_of_pos (by simpa using hp), List.length_append, List.length_range, Nat.add_eq_left, List.length_eq_zero_iff]
  cases d with
  | zero => rfl
  | succ d => simp [List.range_succ_eq_map, hq (by omega)]
theorem leadZeros_eq (x : Word) : leadZeros 64 x.toNat = ((List.range 64).takeWhile (fun j => !x.getLsbD (63 - j))).length := by
  rw [leadZeros]
  split
  case isTrue hx => rw [length_takeWhile_range le_rfl (by simp [BitVec.getLsbD, hx]) (by omega)]
  case isFalse hx =>
    have hlog : x.toNat.log2 < 64 := (Nat.log2_lt hx).mpr x.isLt
    refine (length_takeWhile_range (by omega) (fun j hj => ?_) fun _ => ?_).symm
    · rw [BitVec.getLsbD, Nat.testBit_lt_two_pow ((Nat.log2_lt hx).mp (by omega)), Bool.not_false]
    · rw [BitVec.getLsbD, show 63 - (64 - 1 - x.toNat.log2) = x.toNat.log2 by omega, Nat.testBit_log2 hx, Bool.not_true]
theorem popCount_eq (x : Word) : popCount 64 x.toNat = (List.range 64).countP (fun j => x.getLsbD j) :=
  List.countP_eq_length_filter.symm

/-! Bit fields (06 R134). -/

theorem ofNat_field (x : Word) (pos n : Nat) : BitVec.ofNat n (field x.toNat pos n) = x.extractLsb' pos n := by
  apply BitVec.eq_of_toNat_eq
  rw [field, BitVec.toNat_ofNat, Nat.mod_mod, BitVec.extractLsb'_toNat, Nat.shiftRight_eq_div_pow]
theorem sintOf_eq_toInt (n v : Nat) : sintOf (n + 1) v = (BitVec.ofNat (n + 1) v).toInt := by
  rw [sintOf, BitVec.toInt_eq_toNat_cond, BitVec.toNat_ofNat, Nat.add_sub_cancel]
  push_cast
  exact if_congr (by omega) rfl rfl
theorem bitField_eq (x : Word) (sx : Bool) (pos wm1 : BitVec 6) :
    bitField x sx pos wm1 =
      if sx then (x.extractLsb' pos.toNat (wm1.toNat + 1)).signExtend 64 else (x.extractLsb' pos.toNat (wm1.toNat + 1)).setWidth 64 := by
  rw [bitField]
  refine if_congr Iff.rfl ?_ ?_
  · rw [sintOf_eq_toInt, ofNat_field]
    rfl
  · rw [field, ← Nat.shiftRight_eq_div_pow, ← BitVec.extractLsb'_toNat, BitVec.ofNat_toNat]
/-- The lowest `n` bits set. -/
theorem ofNat_ones_eq (w n : Nat) : BitVec.ofNat w (2 ^ n - 1) = ~~~(BitVec.allOnes w <<< n) := by
  apply BitVec.eq_of_getLsbD_eq
  intro j hj
  by_cases hn : j < n
  · simp [Nat.testBit_two_pow_sub_one, BitVec.getLsbD_ofNat, hj, hn]
  · simp [Nat.testBit_two_pow_sub_one, BitVec.getLsbD_ofNat, hn, show j - n < w by omega]
theorem ofNat_lowBits_eq (x : Word) (n : Nat) : BitVec.ofNat 64 (field x.toNat 0 n) = x &&& BitVec.ofNat 64 (2 ^ n - 1) := by
  rw [field_zero, ← Nat.and_two_pow_sub_one_eq_mod, BitVec.ofNat_and, BitVec.ofNat_toNat, BitVec.setWidth_eq]
theorem bitInsert_eq (x y : Word) (pos wm1 : BitVec 6) :
    bitInsert x y pos wm1 =
      let m : Word := ~~~(BitVec.allOnes 64 <<< (wm1.toNat + 1)) <<< pos.toNat
      (y &&& ~~~m) ||| ((x <<< pos.toNat) &&& m) := by
  simp only [bitInsert, ofNat_mul_two_pow, ofNat_lowBits_eq, ← BitVec.shiftLeft_and_distrib, BitVec.and_assoc, BitVec.and_self, ← ofNat_ones_eq]

/-! Saturating sums (06 R135, 02 R48). -/

theorem satN_add_eq (x y : Word) :
    BitVec.ofInt 64 (satN 64 ((x.toNat : Int) + y.toNat)) = if x.toNat + y.toNat < 2 ^ 64 then x + y else BitVec.allOnes 64 := by
  split
  case isTrue h =>
    rw [satN, min_eq_left (by omega), max_eq_right (by omega)]
    apply BitVec.eq_of_toNat_eq
    simp only [BitVec.toNat_ofInt, BitVec.toNat_add]
    omega
  case isFalse h => rw [satN, min_eq_right (by omega), max_eq_right (by omega)]; rfl
theorem satS_add_eq (x y : Word) :
    BitVec.ofInt 64 (satS 64 (x.toInt + y.toInt)) =
      if x.toInt + y.toInt < -(2 ^ 63) then BitVec.intMin 64 else if 2 ^ 63 ≤ x.toInt + y.toInt then BitVec.intMax 64 else x + y := by
  rw [satS]
  split_ifs with hlo hhi
  · rw [min_eq_left (by omega), max_eq_left (by omega)]; rfl
  · rw [min_eq_right (by omega), max_eq_right (by omega)]; rfl
  · rw [min_eq_left (by omega), max_eq_right (by omega), BitVec.ofInt_add, BitVec.ofInt_toInt, BitVec.ofInt_toInt]

/-! The effect of each row's instruction, and its word. -/

/-- With its guard on and its operands ready, the effect is one result: the value `F` of its operands, due after `lat` clk. -/
def Effect.Computes (e : Effect) (g : Reg4) (d a b : SReg) (lat : Nat) (F : Word → Word → Word) : Prop :=
  ∀ (s : State) (k c : Nat) (i : Instr), (s.context k c).on g = true → (s.context k c).readyS a = true → (s.context k c).readyS b = true →
    (s.context k c).freeS d = true →
    e (s.slotView k c i) s.blank = .ok (s.result k c d (F ((s.context k c).sreg a) ((s.context k c).sreg b)) lat)

section
variable {i : Instr} {g : Reg4} {d a b : SReg} {lat : Nat} {F : Word → Word → Word}

theorem scalar1_computes {f : Word → Word} (hf : ∀ x y, f x = F x y) : Effect.Computes (scalar1 g d a lat f) g d a b lat F :=
  fun _ _ _ _ hg ha _ hd => (scalar1_ok hg ha hd).trans (by rw [hf])
theorem scalar2_computes {f : Word → Word → Word} (hf : ∀ x y, f x y = F x y) : Effect.Computes (scalar2 g d a b lat f) g d a b lat F :=
  fun _ _ _ _ hg ha hb hd => (scalar2_ok hg ha hb hd).trans (by rw [hf])
theorem effLi_computes {imm : BitVec 32} : Effect.Computes (effLi g d imm) g d a b 1 (fun _ _ => imm.signExtend 64) := by
  intro s k c i hg _ _ hd
  simp only [effLi, guarded_on hg, putS_free hd, fly_blank, State.result, sx64]

theorem slotEffect_arithmeticRow (hr : arithmeticRow i = some (g, d, a, b, lat, F)) : (slotEffect i).Computes g d a b lat F := by
  unfold arithmeticRow at hr
  split at hr <;> cases hr
  case h_1 => exact effLi_computes
  case h_2 => exact scalar1_computes fun x _ => by rw [BitVec.setWidth_eq_extractLsb' (by decide)]
  case h_3 | h_5 | h_15 | h_17 | h_19 => exact scalar1_computes fun _ _ => rfl
  case h_4 | h_6 | h_7 | h_14 | h_16 | h_18 => exact scalar2_computes fun _ _ => rfl
  case h_8 => exact scalar2_computes mulHighS_eq
  case h_9 => exact scalar2_computes mulHighU_eq
  case h_10 => exact scalar2_computes divQS_eq
  case h_11 => exact scalar2_computes divQU_eq
  case h_12 => exact scalar2_computes divMS_eq
  case h_13 => exact scalar2_computes divMU_eq

theorem slotEffect_shiftRow (hr : shiftRow i = some (g, d, a, b, F)) : (slotEffect i).Computes g d a b 1 F := by
  unfold shiftRow at hr
  split at hr <;> cases hr
  case h_1 => exact scalar2_computes fun _ _ => shiftL_eq _ _
  case h_2 => exact scalar1_computes fun _ _ => shiftL_eq _ _
  case h_3 => exact scalar2_computes fun _ _ => shiftR_eq _ _
  case h_4 => exact scalar1_computes fun _ _ => shiftR_eq _ _
  case h_5 => exact scalar2_computes fun _ _ => shiftA_eq _ _
  case h_6 => exact scalar1_computes fun _ _ => shiftA_eq _ _
  case h_7 => exact scalar2_computes fun _ _ => ite_toInt_le id
  case h_8 => exact scalar2_computes fun _ _ => ite_toNat_le id
  case h_9 => exact scalar2_computes fun _ _ => ite_toInt_le Eq.symm
  case h_10 => exact scalar2_computes fun _ _ => ite_toNat_le Eq.symm
  case h_11 => exact scalar1_computes fun x _ => congrArg _ (leadZeros_eq x)
  case h_12 => exact scalar1_computes fun _ _ => rfl
  case h_13 => exact scalar1_computes fun x _ => congrArg _ (popCount_eq x)
  case h_14 => exact scalar1_computes fun _ _ => bitField_eq _ _ _ _
  case h_15 => exact scalar2_computes fun _ _ => bitInsert_eq _ _ _ _
  case h_16 => exact scalar2_computes fun x y => if_congr Iff.rfl (satN_add_eq x y) (satS_add_eq x y)

theorem arithmeticRow_word {r : Reg4 × SReg × SReg × SReg × Nat × (Word → Word → Word)} (hr : arithmeticRow i = some r) :
    slotOf i = some .s ∧ privileged i = false ∧ predsWritten i = [] ∧ legal i = true := by
  unfold arithmeticRow at hr
  split at hr
  case h_20 => cases hr
  all_goals exact ⟨rfl, rfl, rfl, rfl⟩
theorem shiftRow_word {r : Reg4 × SReg × SReg × SReg × (Word → Word → Word)} (hr : shiftRow i = some r) :
    slotOf i = some .s ∧ privileged i = false ∧ predsWritten i = [] := by
  unfold shiftRow at hr
  split at hr
  case h_17 => cases hr
  all_goals exact ⟨rfl, rfl, rfl⟩
/-- Decode finds nothing wrong with a legal word that is neither privileged nor writes a predicate. -/
theorem decodeFault_noPredicates {x : Context} {sl : Slot} (hl : legal i = true) (hp : privileged i = false) (hw : predsWritten i = []) :
    decodeFault x sl i 0 false = none := by
  rw [decodeFault_unprivileged hl hp, hw, List.any_nil, Bool.and_false]
  rfl
end

/-! The obligation. -/

/-- Settles O1: the effect of each row's instruction is its one result, and decode has nothing to refuse. -/
theorem scalarResults : Obligations.ScalarResults := by
  refine ⟨fun s k c i g d a b lat F hr h hg ha hb hd => ?_, fun s k c i g d a b F hr hl h hg ha hb hd => ?_⟩
  · obtain ⟨hs, hp, hw, hl⟩ := arithmeticRow_word hr
    exact exec_sSlot_ok hs hp h hl (decodeFault_noPredicates hl hp hw) (slotEffect_arithmeticRow hr s k c i hg ha hb hd)
  · obtain ⟨hs, hp, hw⟩ := shiftRow_word hr
    exact exec_sSlot_ok hs hp h hl (decodeFault_noPredicates hl hp hw) (slotEffect_shiftRow hr s k c i hg ha hb hd)

end Sys2Proof.Machine
end

section
/-! Instances of a level (13 R289): the runs that PACK and PAD deal, the leaves below a phantom instance, and with them O45. -/

namespace Sys2Proof.Machine

/-! Consecutive runs. -/

/-- Runs that follow on each other, unit `u` having `len u` numbers from `start u`, deal every number below `start U` once and in order. -/
theorem flatten_map_runs {α : Type} {f : Nat → α} {start len : Nat → Nat} (h0 : start 0 = 0) (hnext : ∀ u, start (u + 1) = start u + len u) (U : Nat) :
    ((List.range U).map (fun u => (List.range (len u)).map (fun i => f (start u + i)))).flatten = (List.range (start U)).map f := by
  induction U with
  | zero => rw [h0]; rfl
  | succ U ih =>
    rw [List.range_succ, List.map_append, List.flatten_append, ih, hnext, List.range_add, List.map_append, List.map_map, List.map_singleton, List.flatten_singleton]
    rfl

section
variable {l : KLevel} {U : Nat}

theorem instances_pack (hp : l.pad = false) (u : Nat) :
    instances l U u = (List.range (if l.count % U ≤ u then l.count / U else l.count / U + 1)).map
      (fun i => (u * (l.count / U) + Nat.min u (l.count % U) + i, false)) := by
  simp only [instances, hp, Bool.false_eq_true, if_false, ← not_lt, ite_not]

theorem instances_pad (hp : l.pad = true) (u : Nat) :
    instances l U u = (List.range ((l.count + U - 1) / U)).map
      (fun i => (u * ((l.count + U - 1) / U) + i, decide (l.count ≤ u * ((l.count + U - 1) / U) + i))) := if_pos hp

/-- A run of PACK ends where that of the next unit begins. -/
theorem packStart_succ (q r u : Nat) : (u + 1) * q + Nat.min (u + 1) r = u * q + Nat.min u r + (if r ≤ u then q else q + 1) := by
  change (u + 1) * q + min (u + 1) r = u * q + min u r + _
  rw [Nat.succ_mul]
  split <;> omega

/-- Where a unit after the last would begin, the indices are all dealt. -/
theorem packStart_units (hU : 0 < U) (C : Nat) : U * (C / U) + Nat.min U (C % U) = C :=
  calc
    _ = U * (C / U) + C % U := congrArg _ (Nat.min_eq_right (Nat.mod_lt C hU).le)
    _ = C := Nat.div_add_mod C U

theorem flatten_instances_pack (hp : l.pad = false) (hU : 0 < U) :
    ((List.range U).map (instances l U)).flatten = (List.range l.count).map (fun i => (i, false)) := by
  rw [funext (instances_pack hp), flatten_map_runs (f := fun i => (i, false)) (by simp) (packStart_succ _ _), packStart_units hU]

theorem flatten_instances_pad (hp : l.pad = true) :
    ((List.range U).map (instances l U)).flatten = (List.range (U * ((l.count + U - 1) / U))).map (fun i => (i, decide (l.count ≤ i))) := by
  rw [funext (instances_pad hp)]
  exact flatten_map_runs (f := fun i => (i, decide (l.count ≤ i))) (start := (· * _)) (Nat.zero_mul _) (Nat.succ_mul · _) U
end

/-! Leaves below an instance. -/

theorem leavesOf_cons (l : KLevel) (rest : List KLevel) (S : List (Nat × Nat)) (idx : List Nat) (tail : Bool) :
    leavesOf (l :: rest) S idx tail = ((unitsOf l.dom S).zipIdx.map (fun p =>
      ((instances l (unitsOf l.dom S).length p.2).map (fun i => leavesOf rest p.1 (idx ++ [i.1]) (tail || i.2))).flatten)).flatten := by
  rw [leavesOf, List.flatten_flatten, List.map_map]
  rfl

/-- The same leaf, with TAIL. -/
def Leaf.phantom (f : Leaf) : Leaf := { f with tail := true }

/-- Below a phantom instance stand the leaves that stand below any other, each with TAIL. -/
theorem leavesOf_phantom (ls : List KLevel) (S : List (Nat × Nat)) (idx : List Nat) (tail : Bool) :
    leavesOf ls S idx true = (leavesOf ls S idx tail).map Leaf.phantom := by
  induction ls generalizing S idx tail with
  | nil => cases S <;> rfl
  | cons l rest ih =>
    simp only [leavesOf_cons, List.map_flatten, List.map_map, Function.comp_def, Bool.true_or, ← ih]

/-! The obligation. -/

/-- Settles O45: the runs of either rule follow on each other, and TAIL alone tells the leaves below a phantom instance from those below another. -/
theorem instancesOfALevel : Obligations.InstancesOfALevel := by
  refine ⟨fun l U hU => ⟨fun hp => ⟨flatten_instances_pack hp hU, fun u _ => instances_pack hp u⟩,
    fun hp => ⟨flatten_instances_pad hp, fun u _ => instances_pad hp u⟩⟩, leavesOf_cons, fun ls S idx => ?_⟩
  rw [leavesOf_phantom ls S idx false, List.all_map, List.map_map]
  exact ⟨List.all_eq_true.2 fun _ _ => rfl, rfl⟩

end Sys2Proof.Machine
end
